-- ==== Sys2Proof/Word.lean ====
section
/-! DEFINITION. The byte of the line, of the slot channels and of the drive's sectors. -/

namespace Sys2Proof

/-- One byte, as a character of the line carries it (R163) and as a sector holds it (R102). -/
abbrev Byte := BitVec 8

end Sys2Proof
end

