-- ==== Sys2Proof/Config.lean ====
section
/-! DEFINITION. What the part fixes once for all: the counts, sizes and windows of the scope file's table of numeric limits.
The spec leaves no value of any command open, so there is no free value here. -/

namespace Sys2Proof.Config

/-- Chunk buffers of the pool (R97). -/
def buffers : Nat := 24

/-- Bytes of one chunk buffer (section 5.4). -/
def bufferBytes : Nat := 65536

/-- Most buffers one slot may hold (R97). -/
def buffersPerSlot : Nat := 2

/-- Most entries of the notice queue (R172). -/
def noticeEntries : Nat := 24

/-- Most lots of the manifest (R146). -/
def manifestLots : Nat := 8

/-- Most members in one LOT TAKE reply (R153). -/
def membersPerReply : Nat := 8

/-- The seat debounce window, in ms (R7). -/
def seatWindowMs : Nat := 500

/-- The link silence timer, in ms (R11). -/
def silenceMs : Nat := 50

/-- Most steps of a plan (R41). -/
def planSteps : Nat := 32

/-- Most steps of one PLAN LOAD part (R42). -/
def partSteps : Nat := 12

/-- The top of the 32-bit counts and of tray time (R1, R175). -/
def top32 : Nat := 4294967295

/-- The top of S and C (R1). -/
def top64 : Nat := 18446744073709551615

/-- The ceiling of a zone's limit, 95 °C in quarter degrees (R118). -/
def limitCeiling : Int := 380

/-- At or below this temperature, 35 °C in quarter degrees, a COOL zone ends its cooling (R122). -/
def coolEnd : Int := 140

/-- The largest drive capacity, in sectors (R70). -/
def capacityTop : Nat := 281474976710655

/-- The marker bytes of a sector stamp (R190). -/
def marker0 : Byte := 0x5A#8
def marker1 : Byte := 0xC3#8

/-- The start byte of a frame (R183). -/
def startByte : Byte := 0xC5#8

end Sys2Proof.Config
end

