-- ==== Sys2Proof/Syntax.lean ====
section
/-! DEFINITION. The commands: one constructor of Instr for each row of the table, and the types of their operands.
A command is a request of the line computer, an event at a pin or on a slot channel, or the end of a timer or of a piece
of work inside the part. -/

namespace Sys2Proof

/-- The four settings of the two line rate strap pins (R162). -/
inductive RateStrap where
  | first | second | third | fourth
  deriving DecidableEq, Repr

/-- One character of the line: a byte, or a character whose stop bit is not found (R163). -/
inductive LineChar where
  | byte (b : Byte)
  | badStop
  deriving DecidableEq, Repr

/-- A request whose frame has been received whole (R164): whether it was sent to the broadcast address, its tag, and the
body bytes after tag and kind. The kind is the command's own. -/
structure Req where
  broadcast : Bool
  tag : Byte
  fields : List Byte
  deriving DecidableEq, Repr

/-- The status of a completion record (section 4.2). -/
inductive CompletionStatus where
  | done | error
  deriving DecidableEq, Repr

/-- The error kind of a completion record (section 4.2). -/
inductive ErrorKind where
  | none | media | aborted | interface
  deriving DecidableEq, Repr

/-- The payload of a completion record (section 4.2). The fields of an IDENT payload stand unchecked: R70 checks them. -/
inductive Payload where
  | none
  | ident (serial : List Byte) (capacity sectorSize realloc : Nat)
  | health (realloc : BitVec 32)
  deriving DecidableEq, Repr

/-- The completion record of a bridge (section 4.2). -/
structure Completion where
  tag : Byte
  status : CompletionStatus
  error : ErrorKind
  residual : Nat
  corrected : Nat
  payload : Payload
  deriving DecidableEq, Repr

/-- A timeout timer (R64), named by its slot and by the tag of the operation it times (R65; log entry 40). -/
structure OpTimer where
  slot : Fin 16
  tag : Byte
  deriving DecidableEq, Repr

/-- A step of a run as it was entered: its slot, the run's retest count, the step's index and the repeat counters, which no two
entries share between a start and its end (R47 to R49, R135; log entry 40). It names the step timer (R54) and the pacing timer (R93)
that the entry loaded. -/
structure StepEntry where
  slot : Fin 16
  retests : Nat
  index : Nat
  counters : List Nat
  deriving DecidableEq, Repr

/-- What arrives where a completion record is due: a record, or something the slot channel cannot read as one (R68). -/
inductive ChannelRecord where
  | unreadable
  | record (c : Completion)
  deriving DecidableEq, Repr

/-- How a sensor read ends (R116): not acknowledged, not ended within 20 ms, or with the two-byte word, high byte first. -/
inductive SensorRead where
  | noAck
  | late
  | word (hi lo : Byte)
  deriving DecidableEq, Repr

/-- The commands, in the order of the table. -/
inductive Instr where
  /-- POWER_ON_RESET: the strap pins as they stand at power-on (R20, R162). -/
  | powerOnReset (address : BitVec 5) (rate : RateStrap)
  | poll (r : Req)
  | trayStatus (r : Req)
  | trayRestart (r : Req)
  | trayRestartTaken
  | planLoad (r : Req)
  | profileLoad (r : Req)
  | budgetSet (r : Req)
  /-- ZONE_SET_RUN: a ZONE SET with action RUN; the fields leave the action byte out. -/
  | zoneSetRun (r : Req)
  /-- ZONE_SET_STOP: a ZONE SET with action STOP; the fields leave the action byte out. -/
  | zoneSetStop (r : Req)
  /-- ZONE_SET_CLEAR: a ZONE SET with action CLEAR; the fields leave the action byte out. -/
  | zoneSetClear (r : Req)
  | slotStart (r : Req)
  | slotHold (r : Req)
  | slotRelease (r : Req)
  | slotAbort (r : Req)
  | slotReport (r : Req)
  | lotStatus (r : Req)
  /-- LOT_TAKE: a LOT TAKE with take no; the fields leave the take mark out. -/
  | lotTake (r : Req)
  /-- LOT_TAKE_TAKE_YES: a LOT TAKE with take yes; the fields leave the take mark out. -/
  | lotTakeTakeYes (r : Req)
  | lotClose (r : Req)
  | lotExclude (r : Req)
  /-- FRAME_DISCARDED: characters arrive at the receive framer, the discard and what the re-examination finds among them
  (R166). -/
  | frameDiscarded (chars : List LineChar)
  /-- SEAT_SENSE_CHANGE: the raw input of a slot takes a value; raw is yes where a drive shows (R7). -/
  | seatSenseChange (slot : Fin 16) (raw : Bool)
  | seatWindowEnd (slot : Fin 16)
  | linkBeat (slot : Fin 16)
  | linkLoss (slot : Fin 16)
  | completion (slot : Fin 16) (c : ChannelRecord)
  | dataChunk (slot : Fin 16) (tag : Byte) (data : List Byte)
  /-- TIMEOUT_EXPIRY: a timeout timer reaches 0 (R76, R77). -/
  | timeoutExpiry (timer : OpTimer)
  | offTimeEnd (slot : Fin 16)
  /-- STEP_TIMER_EXPIRY: the step timer that an entry loaded reaches 0 (R54, R62). -/
  | stepTimerExpiry (step : StepEntry)
  /-- PACING_TICK: the pacing timer that an entry loaded reaches 0 (R93). -/
  | pacingTick (step : StepEntry)
  /-- FILL_COMPLETION: the fill of one lending of one buffer of a slot ends (R100). -/
  | fillCompletion (slot : Fin 16) (lending : Nat)
  /-- CHECK_COMPLETION: the check of one lending of one buffer of a slot ends (R101). -/
  | checkCompletion (slot : Fin 16) (lending : Nat)
  | sensorReadStart
  /-- CONTROL_PERIOD: the sensor read of a zone ends and the zone takes its period (R116). -/
  | controlPeriod (zone : Fin 4) (read : SensorRead)
  | replySent
  | trayTimeTick
  deriving DecidableEq, Repr

end Sys2Proof
end

