-- ==== Sys2Proof/Decode.lean ====
section
/-! DEFINITION. The reading of a table word as a command. The part is a block: the table gives none of its 38 rows any bits
(every "fields" is empty and no row has a "fixed"), so no word spells a command. Requests are read from their frames by
Machine/Line.lean, by the layouts of Record and Frame Layouts. -/

namespace Sys2Proof

/-- No row of the table has bits, so no word spells a command. -/
def decodeTableWord (_nbits _w : Nat) : Option Instr := none

end Sys2Proof
end

