-- ==== Sys2Proof/Machine/State.lean ====
section
/-! DEFINITION. The state of the part, block by block (the block diagram of the scope file), as plain data, and the machine
right after power-on reset. What the spec derives from other state (zone_hold, lamp codes, the admission pending list,
commitments, the spin count, lot states) has no field: Machine/Ops.lean and Machine/Flags.lean derive it. -/

namespace Sys2Proof.Machine

/-! ### Codes -/

/-- The ten states of a slot (R1). -/
inductive SlotState where
  | empty | seated | waitPower | spinning | active | recovering | cycling | lotWait | done | faulted
  deriving DecidableEq, Repr

/-- The ship bins (R142). -/
inductive Bin where
  | A | B | C | D
  deriving DecidableEq, Repr

/-- An outcome a slot record can hold (R1); RETEST is transient and never held. -/
inductive Verdict where
  | bin (x : Bin) | reject | aborted
  deriving DecidableEq, Repr

/-- The reasons of the slot record (R1). -/
inductive Reason where
  | none | demerit | unresponsive | driveRefused | incomplete | duplicate | link
  deriving DecidableEq, Repr

/-- Lamp codes (R18). -/
inductive Lamp where
  | off | ready | testing | paused | hold | bin (x : Bin) | reject | alert
  deriving DecidableEq, Repr

/-- Executor phases (section 3.3). -/
inductive Phase where
  | idle | spinUp | working | draining | waiting
  deriving DecidableEq, Repr

/-- The completion gates (R134). -/
inductive Gate where
  | exposure | noData
  deriving DecidableEq, Repr

/-! ### Plans and profiles -/

/-- Sweep directions (R89). -/
inductive Direction where
  | ascending | descending | fixed | butterfly
  deriving DecidableEq, Repr

/-- Sweep pacing (section 5.2). -/
inductive Pacing where
  | drive | tick
  deriving DecidableEq, Repr

/-- Sector patterns (R103). -/
inductive Pattern where
  | zero | ones | walk | random
  deriving DecidableEq, Repr

/-- The fields WRITE SWEEP and READ SWEEP share (chapter 3's step table). -/
structure SweepFields where
  start : Nat
  stop : Nat
  chunk : Nat
  direction : Direction
  pacing : Pacing
  interval : Nat
  pattern : Pattern
  continuous : Bool
  timeLimit : Nat
  deriving DecidableEq, Repr

/-- The fields of SEEK SWEEP. -/
structure SeekFields where
  start : Nat
  stop : Nat
  count : Nat
  limit : Nat
  pacing : Pacing
  interval : Nat
  deriving DecidableEq, Repr

/-- The nine step kinds with their fields (chapter 3). -/
inductive Step where
  | spin
  | ident
  | health
  | writeSweep (f : SweepFields)
  | readSweep (f : SweepFields) (verify : Bool)
  | seekSweep (f : SeekFields)
  | dwell (minutes : Nat)
  | standby
  | repeatTo (target count : Nat)
  deriving DecidableEq, Repr

/-- A plan record (R41); also a staging image, which is a header with the steps staged so far (R42). -/
structure Plan where
  name : List Byte
  spinCost : Nat
  runCost : Nat
  offTime : Nat
  exposure : Nat
  spinTimeout : Nat
  identTimeout : Nat
  healthTimeout : Nat
  writeTimeout : Nat
  readTimeout : Nat
  seekTimeout : Nat
  standbyTimeout : Nat
  steps : List Step
  deriving DecidableEq, Repr

/-- The limits of a present bin entry (R129). -/
structure BinEntry where
  dmax : Nat
  umax : Nat
  wmax : Nat
  deriving DecidableEq, Repr

/-- The nine weights of a profile (R129). -/
structure Weights where
  u : Nat
  k : Nat
  m : Nat
  w : Nat
  r : Nat
  p : Nat
  e : Nat
  l : Nat
  s : Nat
  deriving DecidableEq, Repr

/-- A grading profile (R129). -/
structure Profile where
  weights : Weights
  nominalRate : Nat
  lotCapacity : Nat
  retestLimit : Nat
  binA : Option BinEntry
  binB : Option BinEntry
  binC : Option BinEntry
  binD : Option BinEntry
  deriving DecidableEq, Repr

/-! ### Operations and sweeps -/

/-- A run of consecutive sectors with the band it is counted to (R105). The band stays in the part. -/
structure Chunk where
  first : Nat
  count : Nat
  band : Fin 16
  deriving DecidableEq, Repr

/-- An operation kind with its fields (chapter 4). -/
inductive Op where
  | spin
  | ident
  | health
  | write (c : Chunk)
  | read (c : Chunk)
  | seek (lba : Nat)
  | standby
  | driveReset
  deriving DecidableEq, Repr

/-- The states stage 1 of the recovery ladder can be entered from (R64). -/
inductive ReturnTo where
  | spinning | active
  deriving DecidableEq, Repr

/-- The drive operation unit of a slot (R64). -/
structure OpUnit where
  tag : Byte
  outstanding : Option Op
  issuedAt : Nat
  timer : Option Nat
  stage : Nat
  returnTo : Option ReturnTo
  interrupted : Option Op
  offTimer : Option Nat
  sent : Option (Byte × Op)
  sentData : List Byte
  deriving DecidableEq, Repr

/-- What is being done with a lent buffer (R87). -/
inductive BufferUse where
  | filling | prepared | inFlight | checking
  deriving DecidableEq, Repr

/-- A chunk in hand: its lending's number, its sectors, its buffer's use and contents, and whether it is the interrupted
chunk of recovery taken again (R90). -/
structure InHand where
  lending : Nat
  chunk : Chunk
  use : BufferUse
  again : Bool
  data : List Byte
  deriving DecidableEq, Repr

/-- The states of a band (R106). -/
inductive BandState where
  | void | notStarted | running (start : Nat) | timed
  deriving DecidableEq, Repr

/-- An entry of the band table: its state, its counted sectors, and the completions still to come of its grid chunks and
their remainders (R105, R106). -/
structure Band where
  state : BandState
  sectors : Nat
  left : Nat
  deriving DecidableEq, Repr

/-- A sweep engine (R87). The kind follows from the step: NONE while there is none. -/
structure Sweep where
  step : Option Step
  first : Nat
  stop : Nat
  chunk : Nat
  grid : Nat
  lo : Nat
  hi : Nat
  lowNext : Bool
  remaining : Nat
  redo : List Chunk
  hand : List InHand
  pacing : Option Nat
  bands : Vector Band 16
  deriving DecidableEq, Repr

/-- A step executor (R47). The repeat counters stand in the order of the plan's REPEAT steps. -/
structure Executor where
  phase : Phase
  index : Nat
  counters : List Nat
  pass : Nat
  timer : Option Nat
  dwell : Nat
  deriving DecidableEq, Repr

/-! ### The slot record -/

/-- What IDENT stores (R1, R71). -/
structure Identity where
  serial : List Byte
  capacity : Nat
  sectorSize : Nat
  reallocStart : Nat
  deriving DecidableEq, Repr

/-- The accumulators of a run (R1). -/
structure Accum where
  u : Nat
  k : Nat
  m : Nat
  w : Nat
  e : Nat
  l : Nat
  s : Nat
  c : Nat
  reallocEnd : Option Nat
  worstBand : Option Nat
  exposure : Nat
  deriving DecidableEq, Repr

/-- Demerit and graded time, present and absent together (R1). -/
structure Grade where
  demerit : Nat
  time : Nat
  deriving DecidableEq, Repr

/-- A slot: its record (R1), seat debounce (R7), link watch (R11), executor, operation unit and sweep engine. -/
structure Slot where
  state : SlotState
  seated : Bool
  raw : Bool
  window : Option Nat
  linkUp : Bool
  silence : Option Nat
  held : Bool
  plan : Option (Fin 4)
  profile : Option (Fin 4)
  identity : Option Identity
  powered : Bool
  spun : Bool
  acc : Accum
  retests : Nat
  outcome : Option Verdict
  reason : Reason
  grade : Option Grade
  lotNumber : Option Nat
  exec : Executor
  op : OpUnit
  sweep : Sweep
  deriving DecidableEq, Repr

/-! ### The shared blocks -/

/-- The power budget unit (R22, R27, R30). -/
structure Power where
  budget : Nat
  limit : Nat
  cost : Vector Nat 4
  pointer : Fin 16
  reservation : Nat
  deriving DecidableEq, Repr

/-- The buffer pool (R97, R98). -/
structure Pool where
  free : Nat
  waiting : List (Fin 16)
  lendings : Nat
  deriving DecidableEq, Repr

/-- A fill or check in progress (R100, R101). -/
structure Work where
  slot : Fin 16
  lending : Nat
  check : Bool
  deriving DecidableEq, Repr

/-- Zone states (chapter 6). -/
inductive ZoneState where
  | off | ramp | soak | cool | fault
  deriving DecidableEq, Repr

/-- Zone fault reasons (R111). -/
inductive ZoneReason where
  | none | sensor | over
  deriving DecidableEq, Repr

/-- The seven settings of ZONE SET as held: quarter degrees and quarter degrees per minute (R111). -/
structure ZoneSettings where
  setpoint : Nat
  rate : Nat
  band : Nat
  margin : Nat
  kp : Nat
  kf : Nat
  fanMin : Nat
  deriving DecidableEq, Repr

/-- A zone record (R111) with the zone's allowance (R34). -/
structure Zone where
  set : ZoneSettings
  state : ZoneState
  reason : ZoneReason
  temp : Option Int
  miss : Nat
  fine : Int
  inBand : Bool
  noticed : Bool
  demand : Nat
  applied : Nat
  fan : Nat
  commit : Nat
  allowance : Nat
  deriving DecidableEq, Repr

/-- The sensor bus (R116): the read in progress, and the zone whose read is next. -/
structure Bus where
  reading : Option (Fin 4)
  turn : Fin 4
  deriving DecidableEq, Repr

/-- A member entry of a lot (R146). -/
structure Member where
  serial : List Byte
  slot : Fin 16
  demerit : Nat
  time : Nat
  deriving DecidableEq, Repr

/-- A lot record (R146); its state is the list it lies in. -/
structure Lot where
  number : Nat
  profile : Fin 4
  bin : Bin
  capacity : Nat
  opened : Nat
  closed : Option Nat
  members : List Member
  deriving DecidableEq, Repr

/-- The lot builder (R146, R147, R150). -/
structure LotBuilder where
  opens : List Lot
  full : List Lot
  manifest : List Lot
  next : Nat
  waiting : List (Fin 16)
  deriving DecidableEq, Repr

/-- Why a lot closed (R149). -/
inductive CloseCause where
  | filled | close | drain
  deriving DecidableEq, Repr

/-- The stage an ESCALATION reports (R84). -/
inductive EscalationStage where
  | one | two | last
  deriving DecidableEq, Repr

/-- Why an operation expired (R84). -/
inductive Cause where
  | timeout | media | interface
  deriving DecidableEq, Repr

/-- What SLOT_GRADED reports: a held outcome, or RETEST (R135, R143). -/
inductive Graded where
  | ended (v : Verdict)
  | retest
  deriving DecidableEq, Repr

/-- A notice kind with the detail of its kind (R187). -/
inductive Detail where
  | slotSeated
  | slotRemoved (prior : SlotState) (serial : Option (List Byte))
  | slotGraded (outcome : Graded) (reason : Reason) (demerit : Option Nat) (retests : Nat) (gate : Option Gate)
  | slotFaulted (reason : Reason) (serial : Option (List Byte))
  | escalation (stage : EscalationStage) (op : Op) (cause : Cause) (step expiries : Nat)
  | zoneFault (reason : ZoneReason) (temp : Option Int) (prior : ZoneState)
  | zoneInBand (temp : Int) (setpoint : Nat)
  | lotClosed (profile : Fin 4) (bin : Bin) (members : Nat) (cause : CloseCause)
  | lotWait (profile : Fin 4) (bin : Bin) (lot position : Nat)
  deriving DecidableEq, Repr

/-- A notice queue entry (R172); its kind is the detail's. -/
structure Notice where
  subject : Nat
  count : Nat
  time : Nat
  detail : Detail
  deriving DecidableEq, Repr

/-- Latched line rates (R162). -/
inductive Rate where
  | r115200 | r460800 | r921600
  deriving DecidableEq, Repr

/-- The line interface (R162, R163, R166, R171, R172, R175, R177). -/
structure Line where
  address : Nat
  rate : Rate
  time : Nat
  held : List Byte
  driving : Bool
  reply : List Byte
  restartDue : Bool
  notices : List Notice
  noticesLost : Bool
  powerUp : Bool
  deriving DecidableEq, Repr

/-- The whole part, with the queue of commands that wait and the 1 ms timebase. -/
structure State where
  pending : List Instr
  now : Nat
  line : Line
  bus : Bus
  power : Power
  plans : Vector (Option Plan) 4
  staging : Vector (Option Plan) 4
  profiles : Vector (Option Profile) 4
  slots : Vector Slot 16
  zones : Vector Zone 4
  pool : Pool
  work : List Work
  lots : LotBuilder
  lamps : Vector Lamp 16
  deriving DecidableEq, Repr

/-- The faults of the machine. Nobody raises one: the spec names no condition at which the part stops. -/
inductive Fault where
  deriving DecidableEq, Repr

/-- The refusals of the machine. -/
inductive Refusal where
  /-- Raised by exec for a command without a meaning; safe. No command is left without one. -/
  | notModelled (mnemonic : String)
  deriving DecidableEq, Repr

/-! ### Power-on values -/

/-- Accumulators at the start of a run and after reset (R14, R20). -/
def Accum.zero : Accum :=
  { u := 0, k := 0, m := 0, w := 0, e := 0, l := 0, s := 0, c := 0, reallocEnd := none, worstBand := none, exposure := 0 }

/-- Executor values after reset and removal (R63). -/
def Executor.reset : Executor :=
  { phase := .idle, index := 0, counters := [], pass := 0, timer := none, dwell := 0 }

/-- Operation unit values after power-on reset (R86). -/
def OpUnit.reset : OpUnit :=
  { tag := 0#8, outstanding := none, issuedAt := 0, timer := none, stage := 0, returnTo := none, interrupted := none,
    offTimer := none, sent := none, sentData := [] }

/-- A band no chunk is counted to (R105). -/
def Band.void : Band := { state := .void, sectors := 0, left := 0 }

/-- Sweep engine values after both resets and removal (R110). -/
def Sweep.reset : Sweep :=
  { step := none, first := 0, stop := 0, chunk := 0, grid := 0, lo := 0, hi := 0, lowNext := true, remaining := 0,
    redo := [], hand := [], pacing := none, bands := Vector.replicate 16 Band.void }

/-- Slot values after power-on reset (R20), with no drive at the raw input. -/
def Slot.reset : Slot :=
  { state := .empty, seated := false, raw := false, window := none, linkUp := false, silence := none, held := false,
    plan := none, profile := none, identity := none, powered := false, spun := false, acc := Accum.zero, retests := 0,
    outcome := none, reason := .none, grade := none, lotNumber := none, exec := Executor.reset, op := OpUnit.reset,
    sweep := Sweep.reset }

/-- Power budget unit values after power-on reset (R39). -/
def Power.reset : Power :=
  { budget := 0, limit := 1, cost := Vector.replicate 4 100, pointer := 15, reservation := 0 }

/-- Buffer pool values after power-on reset (R110). -/
def Pool.reset : Pool := { free := Config.buffers, waiting := [], lendings := 0 }

/-- Zone values after power-on reset (R127). -/
def Zone.reset : Zone :=
  { set := { setpoint := 160, rate := 8, band := 8, margin := 20, kp := 10, kf := 10, fanMin := 40 },
    state := .off, reason := .none, temp := none, miss := 0, fine := 0, inBand := false, noticed := false, demand := 0,
    applied := 0, fan := 40, commit := 0, allowance := 0 }

/-- Lot builder values after power-on reset (R161). -/
def LotBuilder.reset : LotBuilder := { opens := [], full := [], manifest := [], next := 1, waiting := [] }

/-- Line interface values after power-on reset (R179), for a latched address and rate. -/
def Line.reset (address : Nat) (rate : Rate) : Line :=
  { address := address, rate := rate, time := 0, held := [], driving := false, reply := [], restartDue := false,
    notices := [], noticesLost := false, powerUp := true }

/-- The part right after power-on reset, nothing waiting. The straps are taken as pins at 0, so the address latched is 31
and the rate 115,200 bit/s (R162; DESIGN CHOICE, log entry 4), and no raw input shows a drive (log entry 3). -/
def State.reset : State :=
  { pending := [], now := 0, line := Line.reset 31 .r115200, bus := { reading := none, turn := 0 }, power := Power.reset,
    plans := Vector.replicate 4 none, staging := Vector.replicate 4 none, profiles := Vector.replicate 4 none,
    slots := Vector.replicate 16 Slot.reset, zones := Vector.replicate 4 Zone.reset, pool := Pool.reset, work := [],
    lots := LotBuilder.reset, lamps := Vector.replicate 16 Lamp.off }

end Sys2Proof.Machine
end

