-- ==== Sys2Proof/Machine/Operands.lean ====
section
/-! DEFINITION. The field encodings of chapter 10 (R180, R181): integers least significant byte first, signed fields in two's
complement, optional values behind a presence mark; and the code tables of R184. -/

namespace Sys2Proof.Machine

/-! ### Integers -/

/-- An unsigned field of `k` bytes, least significant first (R180). -/
def le : Nat → Nat → List Byte
  | 0, _ => []
  | k + 1, n => BitVec.ofNat 8 n :: le k (n / 256)

/-- The number that bytes sent least significant first stand for (R180). -/
def ofLe : List Byte → Nat
  | [] => 0
  | b :: rest => b.toNat + 256 * ofLe rest

/-- A signed field of `k` bytes in two's complement (R180). -/
def leInt (k : Nat) (z : Int) : List Byte := le k (z % (256 ^ k : Nat)).toNat

/-- `k` bytes from offset `at_` of a body, as an unsigned field. Bytes that are missing are not read. -/
def fieldAt (bytes : List Byte) (at_ k : Nat) : Nat := ofLe ((bytes.drop at_).take k)

/-- A yes/no field (R181). -/
def yesNo (b : Bool) : List Byte := if b then [1#8] else [0#8]

/-- An optional value of `k` bytes behind its presence mark (R181). -/
def marked (k : Nat) : Option Nat → List Byte
  | none => 0#8 :: le k 0
  | some n => 1#8 :: le k n

/-- An optional signed value of `k` bytes behind its presence mark (R181). -/
def markedInt (k : Nat) : Option Int → List Byte
  | none => 0#8 :: le k 0
  | some z => 1#8 :: leInt k z

/-- An absent one-byte code field (R181). -/
def absentCode : Byte := 0xFF#8

/-- Bytes brought to a fixed length: cut, or followed by zeros. -/
def padTo (n : Nat) (bytes : List Byte) : List Byte := bytes.take n ++ List.replicate (n - bytes.length) 0#8

/-! ### Codes (R184) -/

def SlotState.code : SlotState → Byte
  | .empty => 0#8 | .seated => 1#8 | .waitPower => 2#8 | .spinning => 3#8 | .active => 4#8
  | .recovering => 5#8 | .cycling => 6#8 | .lotWait => 7#8 | .done => 8#8 | .faulted => 9#8

def Bin.code : Bin → Byte
  | .A => 0#8 | .B => 1#8 | .C => 2#8 | .D => 3#8

def Lamp.code : Lamp → Byte
  | .off => 0#8 | .ready => 1#8 | .testing => 2#8 | .paused => 3#8 | .hold => 4#8
  | .bin x => 5#8 + x.code | .reject => 9#8 | .alert => 10#8

def Verdict.code : Verdict → Byte
  | .bin x => x.code | .reject => 4#8 | .aborted => 5#8

def Graded.code : Graded → Byte
  | .ended v => v.code | .retest => 6#8

def Reason.code : Reason → Byte
  | .none => 0#8 | .demerit => 1#8 | .unresponsive => 2#8 | .driveRefused => 3#8 | .incomplete => 4#8
  | .duplicate => 5#8 | .link => 6#8

def gateCode : Option Gate → Byte
  | none => 0#8 | some .exposure => 1#8 | some .noData => 2#8

def Direction.code : Direction → Byte
  | .ascending => 0#8 | .descending => 1#8 | .fixed => 2#8 | .butterfly => 3#8

def Pacing.code : Pacing → Byte
  | .drive => 0#8 | .tick => 1#8

def Pattern.code : Pattern → Byte
  | .zero => 0#8 | .ones => 1#8 | .walk => 2#8 | .random => 3#8

def Op.code : Op → Byte
  | .spin => 0#8 | .ident => 1#8 | .health => 2#8 | .write _ => 3#8 | .read _ => 4#8 | .seek _ => 5#8
  | .standby => 6#8 | .driveReset => 7#8

def Phase.code : Phase → Byte
  | .idle => 0#8 | .spinUp => 1#8 | .working => 2#8 | .draining => 3#8 | .waiting => 4#8

def EscalationStage.code : EscalationStage → Byte
  | .one => 1#8 | .two => 2#8 | .last => 3#8

def Cause.code : Cause → Byte
  | .timeout => 0#8 | .media => 1#8 | .interface => 2#8

def ZoneState.code : ZoneState → Byte
  | .off => 0#8 | .ramp => 1#8 | .soak => 2#8 | .cool => 3#8 | .fault => 4#8

def ZoneReason.code : ZoneReason → Byte
  | .none => 0#8 | .sensor => 1#8 | .over => 2#8

def CloseCause.code : CloseCause → Byte
  | .filled => 0#8 | .close => 1#8 | .drain => 2#8

def Rate.code : Rate → Byte
  | .r115200 => 0#8 | .r460800 => 1#8 | .r921600 => 2#8

def Detail.code : Detail → Byte
  | .slotSeated => 1#8 | .slotRemoved _ _ => 2#8 | .slotGraded _ _ _ _ _ => 3#8 | .slotFaulted _ _ => 4#8
  | .escalation _ _ _ _ _ => 5#8 | .zoneFault _ _ _ => 6#8 | .zoneInBand _ _ => 7#8 | .lotClosed _ _ _ _ => 8#8
  | .lotWait _ _ _ _ => 9#8

/-! ### Codes read from a request -/

def Direction.ofNat? : Nat → Option Direction
  | 0 => some .ascending | 1 => some .descending | 2 => some .fixed | 3 => some .butterfly | _ => none

def Pacing.ofNat? : Nat → Option Pacing
  | 0 => some .drive | 1 => some .tick | _ => none

def Pattern.ofNat? : Nat → Option Pattern
  | 0 => some .zero | 1 => some .ones | 2 => some .walk | 3 => some .random | _ => none

def Bin.ofNat? : Nat → Option Bin
  | 0 => some .A | 1 => some .B | 2 => some .C | 3 => some .D | _ => none

/-- A yes/no field or mark: 0 or 1 (R181). -/
def yesNo? : Nat → Option Bool
  | 0 => some false | 1 => some true | _ => none

/-- A slot number, or none out of 0 to 15. -/
def slotNo? (n : Nat) : Option (Fin 16) := if h : n < 16 then some ⟨n, h⟩ else none

/-- A zone, plan or profile number, or none out of 0 to 3. -/
def quadNo? (n : Nat) : Option (Fin 4) := if h : n < 4 then some ⟨n, h⟩ else none

end Sys2Proof.Machine
end

