-- ==== Sys2Proof/Machine/Ops.lean ====
section
/-! DEFINITION. The named operations every block uses: reading and writing one slot, zone, plan or profile; saturating
counts; what the spec derives from the record (zone_hold, pauses, the plan in use, timeouts); issuing and abandoning an
operation (R65, R67); raising a notice (R172, R173). -/

namespace Sys2Proof.Machine

/-! ### Reading and writing -/

/-- Slots 0 to 15 in number order. -/
def slotIds : List (Fin 16) := [0, 1, 2, 3, 4, 5, 6, 7, 8, 9, 10, 11, 12, 13, 14, 15]

/-- Zones (and plan and profile positions) 0 to 3 in number order. -/
def quadIds : List (Fin 4) := [0, 1, 2, 3]

def State.slot (s : State) (i : Fin 16) : Slot := s.slots.get i

def State.setSlot (s : State) (i : Fin 16) (x : Slot) : State := { s with slots := s.slots.set i x }

/-- Changes one slot and nothing else. -/
def State.modSlot (s : State) (i : Fin 16) (f : Slot → Slot) : State := s.setSlot i (f (s.slot i))

def State.zone (s : State) (z : Fin 4) : Zone := s.zones.get z

def State.setZone (s : State) (z : Fin 4) (x : Zone) : State := { s with zones := s.zones.set z x }

def State.withLine (s : State) (l : Line) : State := { s with line := l }

def State.withPower (s : State) (p : Power) : State := { s with power := p }

def State.withPool (s : State) (p : Pool) : State := { s with pool := p }

def State.withLots (s : State) (b : LotBuilder) : State := { s with lots := b }

def State.withWork (s : State) (w : List Work) : State := { s with work := w }

/-- Changes the accumulators of a slot. -/
def State.modAcc (s : State) (i : Fin 16) (f : Accum → Accum) : State :=
  s.modSlot i fun x => { x with acc := f x.acc }

/-- Changes the executor of a slot. -/
def State.modExec (s : State) (i : Fin 16) (f : Executor → Executor) : State :=
  s.modSlot i fun x => { x with exec := f x.exec }

/-- Changes the operation unit of a slot. -/
def State.modOp (s : State) (i : Fin 16) (f : OpUnit → OpUnit) : State :=
  s.modSlot i fun x => { x with op := f x.op }

/-- Changes the sweep engine of a slot. -/
def State.modSweep (s : State) (i : Fin 16) (f : Sweep → Sweep) : State :=
  s.modSlot i fun x => { x with sweep := f x.sweep }

/-! ### Counts -/

/-- Adds to a count that stops at 4,294,967,295 (R1). -/
def sat32 (a b : Nat) : Nat := min (a + b) Config.top32

/-- Adds to S or C, which stop at 2^64 - 1 (R1). -/
def sat64 (a b : Nat) : Nat := min (a + b) Config.top64

/-- Division rounded up. -/
def ceilDiv (a b : Nat) : Nat := (a + (b - 1)) / b

/-- Takes a number into a range (the scope file's Out-of-range settings). -/
def clamp (lo hi x : Nat) : Nat := max lo (min hi x)

/-! ### What the record implies -/

/-- The zone of a slot, floor(s / 4) (the scope file's Numbering). -/
def zoneOf (i : Fin 16) : Fin 4 := ⟨i.val / 4, by omega⟩

/-- The four slots of a zone, in number order. -/
def zoneSlots (z : Fin 4) : List (Fin 16) :=
  [⟨4 * z.val, by omega⟩, ⟨4 * z.val + 1, by omega⟩, ⟨4 * z.val + 2, by omega⟩, ⟨4 * z.val + 3, by omega⟩]

/-- zone_hold of a slot: its zone is in FAULT (R17). -/
def State.zoneHold (s : State) (i : Fin 16) : Bool := decide ((s.zone (zoneOf i)).state = .fault)

/-- A pause applies to the executor (R58). -/
def State.paused (s : State) (i : Fin 16) : Bool := (s.slot i).held || s.zoneHold i

/-- The plan and profile positions. -/
def State.planAt (s : State) (p : Fin 4) : Option Plan := s.plans.get p

def State.profileAt (s : State) (p : Fin 4) : Option Profile := s.profiles.get p

/-- The loaded plan the slot record names (R41). -/
def State.planOf (s : State) (i : Fin 16) : Option Plan := (s.slot i).plan.bind s.planAt

/-- The steps of the slot's plan. -/
def State.stepsOf (s : State) (i : Fin 16) : List Step :=
  match s.planOf i with
  | none => []
  | some p => p.steps

/-- The step the executor's index names. -/
def State.stepAt (s : State) (i : Fin 16) : Option Step := (s.stepsOf i)[(s.slot i).exec.index]?

/-- The run states: WAIT_POWER, SPINNING, ACTIVE, RECOVERING, CYCLING (R12). -/
def SlotState.inRun : SlotState → Bool
  | .waitPower | .spinning | .active | .recovering | .cycling => true
  | .empty | .seated | .lotWait | .done | .faulted => false

/-- The states of a slot that put its plan and profile in use (R46, R131), and in which SLOT ABORT is accepted (R15). -/
def SlotState.inUse (x : SlotState) : Bool := x.inRun || decide (x = .lotWait)

/-! ### Operations -/

/-- The timeout an operation's timer is loaded with, in ms (R66). -/
def opTimeout (p : Plan) : Op → Nat
  | .spin => p.spinTimeout * 1000
  | .ident => p.identTimeout
  | .health => p.healthTimeout
  | .write _ => p.writeTimeout
  | .read _ => p.readTimeout
  | .seek _ => p.seekTimeout
  | .standby => p.standbyTimeout
  | .driveReset => p.readTimeout

/-- One issue of an operation, all four parts (R65): the tag advances, wrapping from 255 to 0; the operation becomes
outstanding; the timeout timer is loaded by R66 and runs; the record goes out, a WRITE's data chunk behind it. -/
def issue (i : Fin 16) (op : Op) (data : List Byte) (s : State) : State :=
  s.modOp i fun u => { u with
    tag := u.tag + 1#8
    outstanding := some op
    issuedAt := s.now
    timer := (s.planOf i).map fun p => opTimeout p op
    sent := some (u.tag + 1#8, op)
    sentData := data }

/-- What becomes of the operation unit when the operation is completed, expired or abandoned: the timer stops, the operation
is absent, the tag stays (R67, R68). -/
def OpUnit.closed (u : OpUnit) : OpUnit := { u with outstanding := none, timer := none }

/-! ### Notices -/

/-- Two notices are of one kind (R172). -/
def Detail.sameKind : Detail → Detail → Bool
  | .slotSeated, .slotSeated => true
  | .slotRemoved _ _, .slotRemoved _ _ => true
  | .slotGraded _ _ _ _ _, .slotGraded _ _ _ _ _ => true
  | .slotFaulted _ _, .slotFaulted _ _ => true
  | .escalation _ _ _ _ _, .escalation _ _ _ _ _ => true
  | .zoneFault _ _ _, .zoneFault _ _ _ => true
  | .zoneInBand _ _, .zoneInBand _ _ => true
  | .lotClosed _ _ _ _, .lotClosed _ _ _ _ => true
  | .lotWait _ _ _ _, .lotWait _ _ _ _ => true
  | _, _ => false

/-- The entry a raise merges into (R172): one of the same kind and subject. -/
def Notice.matches (n : Notice) (subject : Nat) (d : Detail) : Bool :=
  n.subject == subject && n.detail.sameKind d

/-- A merge (R172): the count rises, stopping at 255, and the detail is replaced; place and time stay. -/
def Notice.merge (n : Notice) (d : Detail) : Notice := { n with count := min (n.count + 1) 255, detail := d }

/-- Merges a raise into the first entry that matches, or answers none (R172). -/
def mergeNotice (subject : Nat) (d : Detail) : List Notice → Option (List Notice)
  | [] => none
  | n :: rest =>
    if n.matches subject d then some (n.merge d :: rest)
    else (mergeNotice subject d rest).map (n :: ·)

/-- One raise at the line interface: a merge, an append, or a drop that sets NOTICES_LOST (R172, R173). -/
def Line.raised (l : Line) (subject : Nat) (d : Detail) : Line :=
  match mergeNotice subject d l.notices with
  | some q => { l with notices := q }
  | none =>
    if l.notices.length < Config.noticeEntries then
      { l with notices := l.notices ++ [{ subject := subject, count := 1, time := l.time, detail := d }] }
    else { l with noticesLost := true }

/-- A block raises a notice. -/
def raise (subject : Nat) (d : Detail) (s : State) : State := s.withLine (s.line.raised subject d)

end Sys2Proof.Machine
end

