-- ==== Sys2Proof/Machine/Power.lean ====
section
/-! DEFINITION. The power budget unit: commitments and counts (R23 to R25), the admission pending list and its order (R26,
R27), the admission evaluation and its grants (R28 to R30), heater allowance (R33 to R35). -/

namespace Sys2Proof.Machine

/-! ### Commitments -/

/-- The plan's spin cost for a slot; 0 where the slot names no loaded plan. -/
def State.spinCost (s : State) (i : Fin 16) : Nat := ((s.planOf i).map Plan.spinCost).getD 0

/-- The plan's run cost for a slot; 0 where the slot names no loaded plan. -/
def State.runCost (s : State) (i : Fin 16) : Nat := ((s.planOf i).map Plan.runCost).getD 0

/-- The drive commitment of a slot, by its state (R23). -/
def State.driveCommit (s : State) (i : Fin 16) : Nat :=
  match (s.slot i).state with
  | .empty | .seated | .cycling | .lotWait | .done | .faulted => 0
  | .waitPower => if (s.slot i).powered then s.runCost i else 0
  | .spinning => s.spinCost i
  | .active => s.runCost i
  | .recovering => if (s.slot i).op.returnTo = some .spinning then s.spinCost i else s.runCost i

/-- The sum of the sixteen drive commitments. -/
def State.driveTotal (s : State) : Nat := (slotIds.map s.driveCommit).sum

/-- The sum of the four heater commitments. -/
def State.heaterTotal (s : State) : Nat := (quadIds.map fun z => (s.zone z).commit).sum

/-- The committed total (R24). -/
def State.committed (s : State) : Nat := s.driveTotal + s.heaterTotal

/-- A slot holds a place for spin-up: SPINNING, or RECOVERING entered from SPINNING (R25). -/
def Slot.spinPlace (x : Slot) : Bool :=
  decide (x.state = .spinning) || (decide (x.state = .recovering) && decide (x.op.returnTo = some .spinning))

/-- The spin count (R25). -/
def State.spinCount (s : State) : Nat := (slotIds.filter fun i => (s.slot i).spinPlace).length

/-! ### Admission -/

/-- The slots in priority order: from the one after the pointer, wrapping, to the one it names (R27). -/
def priorityOrder (pointer : Fin 16) : List (Fin 16) := slotIds.map fun k => pointer + k + 1

/-- The admission pending list in priority order: the slots in WAIT_POWER (R26). -/
def State.pendingList (s : State) : List (Fin 16) :=
  (priorityOrder s.power.pointer).filter fun i => decide ((s.slot i).state = .waitPower)

/-- The candidate: the first slot of the list whose held is no (R27). -/
def State.candidate (s : State) : Option (Fin 16) := s.pendingList.find? fun i => !(s.slot i).held

/-- The candidate's need: the amount its drive commitment will rise by (R28). -/
def State.need (s : State) (i : Fin 16) : Nat := s.spinCost i - s.driveCommit i

def State.setReservation (s : State) (r : Nat) : State := s.withPower { s.power with reservation := r }

/-- One grant: the slot goes to SPINNING with its power on, the pointer moves to it, and SPIN is issued (R29, R4). Spin
count, commitment and list follow from the state. -/
def grant (i : Fin 16) (s : State) : State :=
  let s := s.withPower { s.power with pointer := i }
  issue i .spin [] (s.modSlot i fun x => { x with state := .spinning, powered := true })

/-- The admission evaluation (R28), with as many grants as `fuel` allows. -/
def evaluate : Nat → State → State
  | 0, s => s
  | fuel + 1, s =>
    if s.power.limit ≤ s.spinCount then s.setReservation 0
    else
      match s.candidate with
      | none => s.setReservation 0
      | some i =>
        if s.committed + s.need i ≤ s.power.budget then evaluate fuel (grant i s)
        else s.setReservation (s.need i)

/-- An admission evaluation run to its end (R28). Sixteen slots can be granted at most, and the evaluation after the last
grant sets the reservation. -/
def admission (s : State) : State := evaluate 17 s

/-! ### Heater allowance -/

/-- A zone demands heat: in RAMP or SOAK with a demand above 0 (R33). -/
def Zone.demanding (z : Zone) : Bool :=
  (decide (z.state = .ramp) || decide (z.state = .soak)) && decide (0 < z.demand)

/-- The heater pool: B less the drive commitments less the reservation, 0 when negative (R33). -/
def State.heaterPool (s : State) : Nat := s.power.budget - s.driveTotal - s.power.reservation

/-- The number of zones demanding heat (R33). -/
def State.demandCount (s : State) : Nat := (quadIds.filter fun z => (s.zone z).demanding).length

/-- The share of each demanding zone; 0 when no zone demands (R33). -/
def State.share (s : State) : Nat := s.heaterPool / s.demandCount

/-- The room of a zone: B less the drive commitments less the other zones' heater commitments, 0 when negative (R34). -/
def State.room (s : State) (z : Fin 4) : Nat :=
  s.power.budget - s.driveTotal - ((quadIds.filter fun y => decide (y ≠ z)).map fun y => (s.zone y).commit).sum

/-- A zone applies an allowance: its duty is the smaller of its demand and the allowance's limit, and its commitment the
duty's share of the heater cost rounded up (R34 steps 4 and 5). -/
def Zone.applyAllowance (z : Zone) (cost allowance : Nat) : Zone :=
  let duty := min z.demand (allowance * 100 / cost)
  { z with allowance := allowance, applied := duty, commit := ceilDiv (cost * duty) 100 }

/-- The allowance of one zone at its control period (R34); the zone's new demand is in its record. -/
def allowZone (z : Fin 4) (s : State) : State :=
  let allowance := if (s.zone z).demanding then min s.share (s.room z) else 0
  s.setZone z ((s.zone z).applyAllowance (s.power.cost.get z) allowance)

/-- The heater commitments of zones 0 to 3. -/
def State.commits (s : State) : List Nat := quadIds.map fun z => (s.zone z).commit

/-- The recompute of all four allowances from one share (R35 steps 1 to 4). -/
def recomputeZones (s : State) : State :=
  let share := s.share
  quadIds.foldl
    (fun t z => t.setZone z ((t.zone z).applyAllowance (t.power.cost.get z) (if (t.zone z).demanding then share else 0))) s

/-- An admission evaluation where any heater commitment has changed since `before` (R31, R35). -/
def admitIfChanged (before : List Nat) (s : State) : State := if s.commits = before then s else admission s

end Sys2Proof.Machine
end

