-- ==== Sys2Proof/Machine/Flags.lean ====
section
/-! DEFINITION. What is derived for the outside from the state: the lamp codes (R18), the lamp chain's refresh (R19) and the
tray flags (R171). -/

namespace Sys2Proof.Machine

/-- The lamp code of a slot in DONE, by its outcome (R18). A slot in DONE always holds one (R3). -/
def doneLamp : Option Verdict → Lamp
  | some (.bin x) => .bin x
  | some .reject => .reject
  | some .aborted => .alert
  | none => .alert

/-- The lamp code of a slot (R18). -/
def State.lampOf (s : State) (i : Fin 16) : Lamp :=
  match (s.slot i).state with
  | .empty => .off
  | .seated => .ready
  | .waitPower | .spinning | .active | .recovering | .cycling => if s.paused i then .paused else .testing
  | .lotWait => .hold
  | .done => doneLamp (s.slot i).outcome
  | .faulted => .alert

/-- The sixteen current codes. -/
def State.lampCodes (s : State) : Vector Lamp 16 :=
  #v[s.lampOf 0, s.lampOf 1, s.lampOf 2, s.lampOf 3, s.lampOf 4, s.lampOf 5, s.lampOf 6, s.lampOf 7, s.lampOf 8, s.lampOf 9,
    s.lampOf 10, s.lampOf 11, s.lampOf 12, s.lampOf 13, s.lampOf 14, s.lampOf 15]

/-- A refresh of the lamp chain carries all sixteen current codes (R19). Every command ends with one. -/
def refreshLamps (s : State) : State := { s with lamps := s.lampCodes }

/-- A command ends in its next state, the lamp chain refreshed (R19). -/
def completed (s : State) : Host.Outcome State Fault Refusal := .next (refreshLamps s)

/-- ZONE_FAULTED: at least one zone is in FAULT (R171). -/
def State.zoneFaulted (s : State) : Bool := quadIds.any fun z => decide ((s.zone z).state = .fault)

/-- LOT_WAITING: the lot-wait list holds at least one slot (R171). -/
def State.lotWaiting (s : State) : Bool := !s.lots.waiting.isEmpty

/-- The tray flags byte (R171, R184). -/
def State.trayFlags (s : State) : Byte :=
  BitVec.ofNat 8 (s.line.noticesLost.toNat + 2 * s.line.powerUp.toNat + 4 * s.zoneFaulted.toNat + 8 * s.lotWaiting.toNat)

end Sys2Proof.Machine
end

