-- ==== Sys2Proof/Machine/Pattern.lean ====
section
/-! DEFINITION. The pattern unit's sector work: the stamp (R102, R190), the bodies (R103), the fill of a chunk (R100) and the
classification of a sector that was read (R104). -/

namespace Sys2Proof.Machine

/-- The sum of bytes modulo 256 (R102, the check byte). -/
def byteSum : List Byte → Byte
  | [] => 0#8
  | b :: rest => b + byteSum rest

/-- The stamp's first 11 bytes (R190). -/
def stampFields (tray : Nat) (slot : Fin 16) (pass lba : Nat) : List Byte :=
  [Config.marker0, Config.marker1, BitVec.ofNat 8 tray, BitVec.ofNat 8 slot.val, BitVec.ofNat 8 pass] ++ le 6 lba

/-- The 12-byte stamp of a sector (R102, R190). -/
def stamp (tray : Nat) (slot : Fin 16) (pass lba : Nat) : List Byte :=
  stampFields tray slot pass lba ++ [byteSum (stampFields tray slot pass lba)]

/-- The next value of a sector's generator sequence (R103). -/
def lcgNext (x : Nat) : Nat := (x * 1664525 + 1013904223) % 4294967296

/-- The seed of a sector's generator sequence (R103). -/
def lcgSeed (lba pass : Nat) : Nat := (lba % 4294967296 + 2654435769 * pass) % 4294967296

/-- The bytes of the next `n` words after a value, each lowest byte first (R103). -/
def lcgBytes : Nat → Nat → List Byte
  | 0, _ => []
  | n + 1, x => le 4 (lcgNext x) ++ lcgBytes n (lcgNext x)

/-- `n` WALK body bytes from a first value on: byte i is (i + LBA) mod 256 (R103). -/
def walkBytes : Nat → Nat → List Byte
  | 0, _ => []
  | n + 1, x => BitVec.ofNat 8 x :: walkBytes n (x + 1)

/-- A sector's body of `n` bytes under a pattern (R103). -/
def body (p : Pattern) (pass lba n : Nat) : List Byte :=
  match p with
  | .zero => List.replicate n 0#8
  | .ones => List.replicate n 0xFF#8
  | .walk => walkBytes n lba
  | .random => (lcgBytes (ceilDiv n 4) (lcgSeed lba pass)).take n

/-- A whole sector as the pattern unit writes it (R102, R103). -/
def sector (p : Pattern) (tray : Nat) (slot : Fin 16) (pass size lba : Nat) : List Byte :=
  stamp tray slot pass lba ++ body p pass lba (size - 12)

/-- The buffer contents of a filled chunk: `count` sectors from `lba` on (R100). -/
def fillBytes (p : Pattern) (tray : Nat) (slot : Fin 16) (pass size : Nat) : Nat → Nat → List Byte
  | _, 0 => []
  | lba, count + 1 => sector p tray slot pass size lba ++ fillBytes p tray slot pass size (lba + 1) count

/-- Sector classes (R104). -/
inductive SectorClass where
  | corrupt | misplaced | stale | good
  deriving DecidableEq, Repr

/-- Test 1 of R104: marker, check byte, tray address and slot are right (R190). -/
def stampSound (tray : Nat) (slot : Fin 16) (bytes : List Byte) : Bool :=
  bytes[0]? == some Config.marker0 && bytes[1]? == some Config.marker1
    && bytes[11]? == some (byteSum (bytes.take 11))
    && bytes[2]? == some (BitVec.ofNat 8 tray) && bytes[3]? == some (BitVec.ofNat 8 slot.val)

/-- The class of a sector read from `lba`: the tests of R104 in their order. -/
def classify (p : Pattern) (tray : Nat) (slot : Fin 16) (pass size lba : Nat) (bytes : List Byte) : SectorClass :=
  if !stampSound tray slot bytes then .corrupt
  else if fieldAt bytes 5 6 ≠ lba then .misplaced
  else if bytes[4]? ≠ some (BitVec.ofNat 8 pass) then .stale
  else if bytes.drop 12 ≠ body p pass lba (size - 12) then .corrupt
  else .good

/-- The classes of the `count` sectors of a checked chunk, cut from its buffer (R101, R104). -/
def classifyAll (p : Pattern) (tray : Nat) (slot : Fin 16) (pass size : Nat) : Nat → Nat → List Byte → List SectorClass
  | _, 0, _ => []
  | lba, count + 1, data =>
    classify p tray slot pass size lba (data.take size)
      :: classifyAll p tray slot pass size (lba + 1) count (data.drop size)

end Sys2Proof.Machine
end

