-- ==== Sys2Proof/Machine/Sweep.lean ====
section
/-! DEFINITION. The sweep engine and the buffer pool: range, chunk and grid (R88), the cursor and the takes (R89 to R91),
issue and buffer requests (R92, R97, R98), buffer returns (R99), band timing (R105 to R107), draining and stopping. -/

namespace Sys2Proof.Machine

/-! ### The step's fields -/

/-- The kind of the sweep in progress, as a code of R184: NONE 0, WRITE 1, READ 2, SEEK 3. -/
def Sweep.kindCode (e : Sweep) : Byte :=
  match e.step with
  | some (.writeSweep _) => 1#8
  | some (.readSweep _ _) => 2#8
  | some (.seekSweep _) => 3#8
  | _ => 0#8

def Sweep.isWrite (e : Sweep) : Bool := decide (e.kindCode = 1#8)

/-- The engine moves chunks: it is in a WRITE SWEEP or a READ SWEEP. -/
def Sweep.movesChunks (e : Sweep) : Bool := decide (e.kindCode = 1#8) || decide (e.kindCode = 2#8)

def Sweep.isSeek (e : Sweep) : Bool := decide (e.kindCode = 3#8)

/-- The engine is in a sweep. -/
def Sweep.running (e : Sweep) : Bool := decide (e.kindCode ≠ 0#8)

/-- The step is a sweep step. -/
def Step.isSweep : Step → Bool
  | .writeSweep _ | .readSweep _ _ | .seekSweep _ => true
  | _ => false

/-- The step is a WRITE SWEEP. -/
def Step.isWriteSweep : Step → Bool
  | .writeSweep _ => true
  | _ => false

/-- The fields of a WRITE SWEEP or READ SWEEP in progress. -/
def Sweep.fields (e : Sweep) : Option SweepFields :=
  match e.step with
  | some (.writeSweep f) => some f
  | some (.readSweep f _) => some f
  | _ => none

/-- A sweep is continuous when its field says so or its direction is FIXED (R45, R89). -/
def SweepFields.endless (f : SweepFields) : Bool := f.continuous || decide (f.direction = .fixed)

def Sweep.endless (e : Sweep) : Bool := (e.fields.map SweepFields.endless).getD false

def Sweep.direction (e : Sweep) : Direction := (e.fields.map SweepFields.direction).getD .butterfly

/-- Pacing and interval of the sweep in progress. -/
def Sweep.pace (e : Sweep) : Pacing × Nat :=
  match e.step with
  | some (.writeSweep f) => (f.pacing, f.interval)
  | some (.readSweep f _) => (f.pacing, f.interval)
  | some (.seekSweep f) => (f.pacing, f.interval)
  | _ => (.drive, 0)

/-- A READ SWEEP with verify. -/
def Sweep.verifies (e : Sweep) : Bool :=
  match e.step with
  | some (.readSweep _ v) => v
  | _ => false

def Sweep.pattern (e : Sweep) : Pattern := (e.fields.map SweepFields.pattern).getD .zero

/-! ### Range and grid (R88, R95) -/

/-- The LBA at a per-mille point of a capacity (R88). -/
def perMille (capacity p : Nat) : Nat := capacity * p / 1000

/-- The sectors of the range. -/
def Sweep.range (e : Sweep) : Nat := e.stop - e.first

/-- Grid chunk k, laid from the top for DESCENDING and from the bottom otherwise (R88): its first LBA and its end. -/
def Sweep.gridSpan (e : Sweep) (k : Nat) : Nat × Nat :=
  match e.direction with
  | .descending => (max e.first (e.stop - (k + 1) * e.chunk), e.stop - k * e.chunk)
  | _ => (e.first + k * e.chunk, min (e.first + (k + 1) * e.chunk) e.stop)

/-- The band of the sector at an offset into a range: bands 0 to 14 of floor(range / 16) sectors, band 15 the rest (R105). -/
def bandOf (range offset : Nat) : Fin 16 :=
  if range / 16 = 0 then 15 else ⟨min 15 (offset / (range / 16)), by omega⟩

/-- Grid chunk k with the band of its first sector (R88, R105). -/
def Sweep.gridChunk (e : Sweep) (k : Nat) : Chunk :=
  { first := (e.gridSpan k).1
    count := (e.gridSpan k).2 - (e.gridSpan k).1
    band := bandOf e.range ((e.gridSpan k).1 - e.first) }

/-- How far the grid, in address order, is shifted down against the start of the range: a top-laid grid shortens its lowest
chunk by so much (R88). -/
def Sweep.slack (e : Sweep) : Nat :=
  match e.direction with
  | .descending => e.grid * e.chunk - e.range
  | _ => 0

/-- The offset at which the grid's chunk number j, counted in address order, begins. -/
def Sweep.offsetOf (e : Sweep) (j : Nat) : Nat := min e.range (j * e.chunk - e.slack)

/-- How many grid chunks begin below an offset. -/
def Sweep.chunksBelow (e : Sweep) (x : Nat) : Nat :=
  if x = 0 then 0 else min e.grid (ceilDiv (x + e.slack) e.chunk)

/-- The entry of band b at the start of a band-timed sweep: VOID where no grid chunk begins in it, else NOT_STARTED with the
sectors and the number of its grid chunks (R105). -/
def Sweep.bandEntry (e : Sweep) (b : Nat) : Band :=
  let w := e.range / 16
  let j0 := e.chunksBelow (b * w)
  let j1 := if b = 15 then e.grid else e.chunksBelow ((b + 1) * w)
  if j1 ≤ j0 then Band.void
  else { state := .notStarted, sectors := e.offsetOf j1 - e.offsetOf j0, left := j1 - j0 }

/-- A READ SWEEP is band-timed: DRIVE-PACED, ASCENDING or DESCENDING, non-continuous, range not empty (R105). -/
def Sweep.bandTimed (e : Sweep) : Bool :=
  match e.step with
  | some (.readSweep f _) =>
    decide (f.pacing = .drive) && (decide (f.direction = .ascending) || decide (f.direction = .descending))
      && !f.continuous && decide (0 < e.range)
  | _ => false

/-- The sixteen band entries of a band-timed sweep; all VOID in any other (R105). -/
def Sweep.bandTable (e : Sweep) : Vector Band 16 :=
  if e.bandTimed then
    #v[e.bandEntry 0, e.bandEntry 1, e.bandEntry 2, e.bandEntry 3, e.bandEntry 4, e.bandEntry 5, e.bandEntry 6,
      e.bandEntry 7, e.bandEntry 8, e.bandEntry 9, e.bandEntry 10, e.bandEntry 11, e.bandEntry 12, e.bandEntry 13,
      e.bandEntry 14, e.bandEntry 15]
  else Vector.replicate 16 Band.void

/-- The cursor at the start of a lap of n grid chunks or seeks (R89, R95). -/
def Sweep.rewound (e : Sweep) : Sweep := { e with lo := 0, hi := e.grid - 1, lowNext := true, remaining := e.grid }

/-- The engine as a step starts it for a drive of a capacity and sector size (R87, R88, R95, R105, R110). A SEEK SWEEP with an empty
range has no position to visit and a remaining count of 0 (DESIGN CHOICE, log entry 42). -/
def Sweep.started (step : Step) (capacity size : Nat) : Sweep :=
  match step with
  | .writeSweep f => chunked f
  | .readSweep f _ => chunked f
  | .seekSweep f =>
    let first := perMille capacity f.start
    let stop := perMille capacity f.stop
    Sweep.rewound { Sweep.reset with
      step := some step, first := first, stop := stop, grid := if first < stop then f.count else 0
      pacing := if f.pacing = .tick then some f.interval else none }
  | _ => Sweep.reset
where
  /-- The start of a WRITE SWEEP or READ SWEEP. -/
  chunked (f : SweepFields) : Sweep :=
    let first := perMille capacity f.start
    let stop := perMille capacity f.stop
    let chunk := min f.chunk (Config.bufferBytes / size)
    let e := Sweep.rewound { Sweep.reset with
      step := some step, first := first, stop := stop, chunk := chunk, grid := ceilDiv (stop - first) chunk
      pacing := if f.pacing = .tick then some f.interval else none }
    { e with bands := e.bandTable }

/-! ### The cursor (R89, R95) -/

/-- Every grid chunk, or every seek position, of the lap has been taken (R89). -/
def Sweep.lapDone (e : Sweep) : Bool :=
  decide (e.grid = 0) ||
    match e.direction with
    | .ascending | .descending => decide (e.grid ≤ e.lo)
    | .fixed => false
    | .butterfly => decide (e.hi < e.lo)

/-- The index the next take uses, lap not done (R89). -/
def Sweep.nextIndex (e : Sweep) : Nat :=
  match e.direction with
  | .ascending | .descending => e.lo
  | .fixed => 0
  | .butterfly => if e.lowNext then e.lo else e.hi

/-- The cursor after a take (R89). A chunk taken lowers the remaining count; a seek lowers it only when made (R95). -/
def Sweep.stepped (e : Sweep) : Sweep :=
  let r := if e.isSeek then e.remaining else e.remaining - 1
  match e.direction with
  | .ascending | .descending => { e with lo := e.lo + 1, remaining := r }
  | .fixed => e
  | .butterfly =>
    if e.lowNext then { e with lo := e.lo + 1, lowNext := false, remaining := r }
    else { e with hi := e.hi - 1, lowNext := true, remaining := r }

/-- A take from the cursor: the index, and the engine after it. A continuous sweep that finds its lap done starts a new one;
another has nothing to take (R89). -/
def Sweep.takeIndex (e : Sweep) : Option (Nat × Sweep) :=
  let e := if e.lapDone && e.endless then e.rewound else e
  if e.lapDone then none else some (e.nextIndex, e.stepped)

/-- The LBA of a seek position: first + floor(i × (end - first) / n) (R95). -/
def Sweep.seekLba (e : Sweep) (i : Nat) : Nat := e.first + i * e.range / e.grid

/-- The next grid index as SLOT REPORT returns it (R87). Of a SEEK SWEEP with an empty range, which waits in its spin phase, it is the
grid count 0, where R87 says n (DESIGN CHOICE, log entry 42). -/
def Sweep.reportIndex (e : Sweep) : Nat :=
  if !e.running then 0
  else if e.lapDone then (if e.endless then 0 else e.grid)
  else e.nextIndex

/-! ### Takes (R90) -/

/-- An interrupted chunk of recovery. -/
def OpUnit.interruptedChunk (u : OpUnit) : Option Chunk :=
  match u.interrupted with
  | some (.write c) => some c
  | some (.read c) => some c
  | _ => none

/-- The interrupted chunk waits for a buffer: the slot is back in ACTIVE and the chunk is not in hand again (R90, R97). -/
def Slot.chunkWaiting (x : Slot) : Option Chunk :=
  if decide (x.state = .active) && !(x.sweep.hand.any fun h => h.again) then x.op.interruptedChunk else none

/-- A take: the chunk, whether it is the interrupted one, and the engine after it (R90). -/
def Slot.take (x : Slot) : Option (Chunk × Bool × Sweep) :=
  match x.chunkWaiting with
  | some c => some (c, true, x.sweep)
  | none =>
    match x.sweep.redo with
    | c :: rest => some (c, false, { x.sweep with redo := rest })
    | [] => x.sweep.takeIndex.map fun p => (x.sweep.gridChunk p.1, false, p.2)

/-- There is something to take by R90. -/
def Slot.canTake (x : Slot) : Bool := x.take.isSome

/-! ### The pool (R97 to R99) -/

/-- A buffer that nobody waits for becomes free. -/
def freeBuffer (s : State) : State := s.withPool { s.pool with free := s.pool.free + 1 }

/-- One buffer is lent to a slot, which makes its take (R97, R98): a WRITE chunk goes to the pattern unit to be filled (R100),
a READ chunk is prepared at once (R92). A slot that has no take to make, or holds two, leaves the buffer free. -/
def lend (i : Fin 16) (s : State) : State :=
  let x := s.slot i
  if x.sweep.movesChunks && decide (x.sweep.hand.length < Config.buffersPerSlot) then
    match x.take with
    | none => freeBuffer s
    | some (c, again, e) =>
      let h : InHand := { lending := s.pool.lendings, chunk := c, again := again, data := []
                          use := if e.isWrite then .filling else .prepared }
      let t := s.setSlot i { x with sweep := { e with hand := e.hand ++ [h] } }
      let t := t.withPool { t.pool with lendings := t.pool.lendings + 1 }
      if e.isWrite then t.withWork (t.work ++ [{ slot := i, lending := h.lending, check := false }]) else t
  else freeBuffer s

/-- The engine may issue and ask: the slot is ACTIVE, the phase is WORKING, no pause applies (R92, R97). -/
def State.mayWork (s : State) (i : Fin 16) : Bool :=
  decide ((s.slot i).state = .active) && decide ((s.slot i).exec.phase = .working) && !s.paused i

/-- The engine asks for a buffer (R97). -/
def State.wantsBuffer (s : State) (i : Fin 16) : Bool :=
  let x := s.slot i
  s.mayWork i && x.sweep.movesChunks && decide (x.sweep.hand.length < Config.buffersPerSlot)
    && !s.pool.waiting.contains i
    && (x.chunkWaiting.isSome || (!(x.sweep.hand.any fun h => decide (h.use = .prepared)) && x.canTake))

/-! ### Issue (R92) -/

/-- A band that a chunk is issued for starts running (R106). -/
def Band.issued (now : Nat) (b : Band) : Band :=
  if b.state = .notStarted then { b with state := .running now } else b

/-- Marks one chunk in hand as in flight. -/
def Sweep.sentOff (e : Sweep) (lending : Nat) : Sweep :=
  { e with hand := e.hand.map fun h => if h.lending = lending then { h with use := .inFlight, again := false } else h }

/-- The operation that moves a chunk of the sweep in progress. -/
def Sweep.chunkOp (e : Sweep) (c : Chunk) : Op := if e.isWrite then .write c else .read c

/-- Issues a prepared chunk in hand (R92, R106). The interrupted chunk's issue makes the interrupted operation absent (R78). -/
def issueChunk (i : Fin 16) (h : InHand) (s : State) : State :=
  let op := (s.slot i).sweep.chunkOp h.chunk
  let s := if h.again then s.modOp i fun u => { u with interrupted := none } else s
  let s := s.modSweep i fun e =>
    { e.sentOff h.lending with bands := e.bands.set h.chunk.band ((e.bands.get h.chunk.band).issued s.now) }
  issue i op h.data s

/-- Issues the next seek of the cursor (R92, R95). -/
def issueSeek (i : Fin 16) (s : State) : State :=
  match (s.slot i).sweep.takeIndex with
  | none => s
  | some (k, e) => issue i (.seek ((s.slot i).sweep.seekLba k)) [] (s.modSweep i fun _ => e)

/-- The oldest prepared chunk in hand. -/
def Sweep.prepared (e : Sweep) : Option InHand := e.hand.find? fun h => decide (h.use = .prepared)

/-- Issues the engine's next chunk or seek, where one is ready. -/
def issueNext (i : Fin 16) (s : State) : State :=
  if (s.slot i).sweep.isSeek then issueSeek i s
  else
    match (s.slot i).sweep.prepared with
    | none => s
    | some h => issueChunk i h s

/-- The engine issues what R92 and R94 let it issue now: first the interrupted seek or chunk, under either pacing; with none
interrupted, and drive pacing, the next chunk or seek. -/
def tryIssue (i : Fin 16) (s : State) : State :=
  let x := s.slot i
  if s.mayWork i && x.sweep.running && x.op.outstanding.isNone then
    match x.op.interrupted with
    | some (.seek lba) => issue i (.seek lba) [] (s.modOp i fun u => { u with interrupted := none })
    | some _ =>
      match x.sweep.hand.find? fun h => h.again && decide (h.use = .prepared) with
      | none => s
      | some h => issueChunk i h s
    | none => if x.sweep.pace.1 = .drive then issueNext i s else s
  else s

/-- The engine issues and asks until it can do neither (R92, R97, R98). A slot is lent two buffers at most, so four rounds
are enough. -/
def engineRounds : Nat → Fin 16 → State → State
  | 0, _, s => s
  | fuel + 1, i, s =>
    let s := tryIssue i s
    if s.wantsBuffer i then
      if 0 < s.pool.free then
        engineRounds fuel i (lend i (s.withPool { s.pool with free := s.pool.free - 1 }))
      else s.withPool { s.pool with waiting := s.pool.waiting ++ [i] }
    else s

/-- The engine of a slot goes on as far as it can. -/
def engineGo (i : Fin 16) (s : State) : State := engineRounds 4 i s

/-! ### Returns (R98, R99) -/

/-- One buffer returns to the pool: it is lent at once to the head of the wait list, which leaves the list and makes its
take, or becomes free (R98). -/
def returnBuffer (s : State) : State :=
  match s.pool.waiting with
  | [] => freeBuffer s
  | j :: rest => engineGo j (lend j (s.withPool { s.pool with waiting := rest }))

/-- So many buffers return, one after another. -/
def returnBuffers : Nat → State → State
  | 0, s => s
  | n + 1, s => returnBuffers n (returnBuffer s)

/-- Ends the pattern unit's work on some lendings of a slot (R99). -/
def endWork (i : Fin 16) (lendings : List Nat) (s : State) : State :=
  s.withWork (s.work.filter fun w => !(decide (w.slot = i) && lendings.contains w.lending))

/-- The chunks in hand that `p` names lose their buffers: their work ends and the buffers return (R99). -/
def dropChunks (i : Fin 16) (p : InHand → Bool) (s : State) : State :=
  let gone := (s.slot i).sweep.hand.filter p
  let s := s.modSweep i fun e => { e with hand := e.hand.filter fun h => !p h }
  returnBuffers gone.length (endWork i (gone.map InHand.lending) s)

/-- The slot leaves the buffer wait list; the others keep their order (R98). -/
def leaveBufferList (i : Fin 16) (s : State) : State :=
  s.withPool { s.pool with waiting := s.pool.waiting.filter fun j => decide (j ≠ i) }

/-! ### Bands (R106, R107) -/

/-- An expiry, or a pause that begins, voids a RUNNING band (R106). -/
def Band.stopped (b : Band) : Band :=
  match b.state with
  | .running _ => { b with state := .void }
  | _ => b

/-- Draining or stopping voids a RUNNING or NOT_STARTED band (R106). -/
def Band.drained (b : Band) : Band :=
  match b.state with
  | .running _ | .notStarted => { b with state := .void }
  | _ => b

/-- The RUNNING bands of a slot become VOID (R106). -/
def voidRunning (i : Fin 16) (s : State) : State := s.modSweep i fun e => { e with bands := e.bands.map Band.stopped }

/-- The band rate: counted sectors × 1,000 / band ms, band ms taken as 1 if less, held to 32 bits (R106, R107). -/
def bandRate (sectors ms : Nat) : Nat := min (sectors * 1000 / max 1 ms) Config.top32

/-- A band rate is folded into the worst band rate (R107). -/
def foldRate (rate : Nat) : Option Nat → Option Nat
  | none => some rate
  | some r => some (min r rate)

/-- The last completion of a chunk of a band has been taken, no remainder following: one fewer is to come, and the last one
makes a RUNNING band TIMED (R106, R107). -/
def bandCompletion (i : Fin 16) (b : Fin 16) (s : State) : State :=
  let band := (s.slot i).sweep.bands.get b
  let left := band.left - 1
  match band.state with
  | .running start =>
    if left = 0 then
      let s := s.modSweep i fun e => { e with bands := e.bands.set b { band with state := .timed, left := 0 } }
      s.modAcc i fun a => { a with worstBand := foldRate (bandRate band.sectors (s.now - start)) a.worstBand }
    else s.modSweep i fun e => { e with bands := e.bands.set b { band with left := left } }
  | _ => s.modSweep i fun e => { e with bands := e.bands.set b { band with left := left } }

/-! ### Ending a sweep (R91) -/

/-- The engine reports the sweep ended: nothing to take (an engine that drains takes nothing), nothing interrupted, nothing
outstanding, no buffer held or awaited; of a SEEK SWEEP, every seek made (R91, R95). -/
def State.sweepEnded (s : State) (i : Fin 16) : Bool :=
  let x := s.slot i
  decide (x.state = .active) && x.sweep.running
    && (decide (x.exec.phase = .draining)
      || (decide (x.exec.phase = .working) && (if x.sweep.isSeek then decide (x.sweep.remaining = 0) else !x.canTake)))
    && x.op.outstanding.isNone && x.op.interrupted.isNone
    && x.sweep.hand.isEmpty && !s.pool.waiting.contains i

/-- The engine of no sweep: kind NONE, nothing to redo, no pacing, every band VOID (R108). R87, R108 and R110 give no remaining count for
an engine whose sweep has ended or stopped, and SLOT REPORT returns it: it keeps the count it stood at (DESIGN CHOICE, log entry 41).
-/
def Sweep.retired (e : Sweep) : Sweep :=
  { e with step := none, redo := [], pacing := none, bands := Vector.replicate 16 Band.void }

/-- The engine stops; its buffers return and its work ends (R99, R108). -/
def stopEngine (i : Fin 16) (s : State) : State :=
  let s := s.modSweep i Sweep.retired
  dropChunks i (fun _ => true) (leaveBufferList i s)

/-- The engine drains (R91): it stops taking, forgets its redo list, returns the buffers of the chunks it has not issued,
leaves the wait list, stops its pacing, and drops an interrupted chunk that waits to be issued (R54, R94, R106). -/
def drainEngine (i : Fin 16) (s : State) : State :=
  let s := s.modExec i fun x => { x with phase := .draining, timer := none }
  let s := s.modOp i fun u => { u with interrupted := none }
  let s := s.modSweep i fun e => { e with redo := [], pacing := none, bands := e.bands.map Band.drained }
  dropChunks i (fun h => decide (h.use = .filling) || decide (h.use = .prepared)) (leaveBufferList i s)

end Sys2Proof.Machine
end

