-- ==== Sys2Proof/Machine/Lots.lean ====
section
/-! DEFINITION. The end of a run and its release (R5, R6, R9, R61), and the lot builder: numbers (R147), joins (R148), fills
(R149), waits (R150), drain (R151), refill (R156) and the duplicate serial check (R159). -/

namespace Sys2Proof.Machine

/-! ### Release -/

/-- What a slot lets go of when its run ends: power and spun, the outstanding operation, return state, interrupted operation
and off time, executor phase and step timer (R5, R61, R67, R78). Step index, counters, pass, dwell progress, tag and recovery
stage stay for SLOT REPORT (R61, R86). -/
def Slot.released (x : Slot) : Slot :=
  { x with
    powered := false
    spun := false
    exec := { x.exec with phase := .idle, timer := none }
    op := { x.op.closed with returnTo := none, interrupted := none, offTimer := none } }

/-- Ends a slot's run (R5): the release of `Slot.released` with the record change `f`, which sets the state; the engine's
buffers return and the slot leaves the buffer wait list; the commitment's fall triggers an admission evaluation (R23, R31). -/
def endRun (i : Fin 16) (f : Slot → Slot) (s : State) : State :=
  admission (stopEngine i (s.modSlot i fun x => f x.released))

/-- The slot leaves the lot-wait list; the others keep their order (R150). -/
def leaveLotList (i : Fin 16) (s : State) : State :=
  s.withLots { s.lots with waiting := s.lots.waiting.filter fun j => decide (j ≠ i) }

/-- A slot enters FAULTED with a reason, its outcome absent, and SLOT_FAULTED is raised with the refused serial if there is
one; DUPLICATE makes the identity absent (R6). -/
def faultSlot (i : Fin 16) (reason : Reason) (refused : Option (List Byte)) (s : State) : State :=
  let s := endRun i (fun x => { x with
    state := .faulted, reason := reason, outcome := none
    identity := if reason = .duplicate then none else x.identity }) s
  raise i.val (.slotFaulted reason refused) s

/-! ### Lots -/

/-- The lot has the key (profile, bin) (R146). -/
def Lot.hasKey (p : Fin 4) (b : Bin) (l : Lot) : Bool := decide (l.profile = p) && decide (l.bin = b)

/-- Every lot held (R146). -/
def LotBuilder.all (l : LotBuilder) : List Lot := l.manifest ++ l.full ++ l.opens

def LotBuilder.openLot (l : LotBuilder) (p : Fin 4) (b : Bin) : Option Lot := l.opens.find? (Lot.hasKey p b)

def LotBuilder.fullLot (l : LotBuilder) (p : Fin 4) (b : Bin) : Option Lot := l.full.find? (Lot.hasKey p b)

/-- The lot number after n, wrapping from 65,535 to 1 (R147). -/
def nextNumber (n : Nat) : Nat := if 65535 ≤ n then 1 else n + 1

/-- The first number from n on that no lot held bears (R147). At most 24 numbers are held, so 25 tries are enough. -/
def freeNumber : Nat → List Nat → Nat → Nat
  | 0, _, n => n
  | tries + 1, taken, n => if taken.contains n then freeNumber tries taken (nextNumber n) else n

/-- The number the next lot opened takes (R147). -/
def LotBuilder.numberToGive (l : LotBuilder) : Nat := freeNumber 25 (l.all.map Lot.number) l.next

/-- A new OPEN lot of a key, with the lot capacity of its profile and no members (R146, R147). -/
def State.newLot (s : State) (p : Fin 4) (b : Bin) : Lot :=
  { number := s.lots.numberToGive, profile := p, bin := b
    capacity := ((s.profileAt p).map Profile.lotCapacity).getD 1
    opened := s.line.time, closed := none, members := [] }

/-- Puts a lot back among the OPEN lots in place of the one with its number. -/
def LotBuilder.putOpen (l : LotBuilder) (x : Lot) : LotBuilder :=
  { l with opens := l.opens.map fun y => if y.number = x.number then x else y }

/-- Takes the OPEN lot with a number out of the OPEN lots. -/
def LotBuilder.dropOpen (l : LotBuilder) (number : Nat) : LotBuilder :=
  { l with opens := l.opens.filter fun y => decide (y.number ≠ number) }

/-- An OPEN lot leaves OPEN: into the manifest with LOT_CLOSED while the manifest holds fewer than 8, else FULL at the tail of
the full-lot order list with no notice (R149, R155). -/
def closeLot (x : Lot) (cause : CloseCause) (s : State) : State :=
  let l := s.lots.dropOpen x.number
  if l.manifest.length < Config.manifestLots then
    let s := s.withLots { l with manifest := l.manifest ++ [{ x with closed := some s.line.time }] }
    raise x.number (.lotClosed x.profile x.bin x.members.length cause) s
  else s.withLots { l with full := l.full ++ [x] }

/-- The member entry a slot makes, from its identity and the grade it keeps (R146, R148). -/
def Slot.member (i : Fin 16) (x : Slot) : Member :=
  { serial := (x.identity.map Identity.serial).getD []
    slot := i
    demerit := (x.grade.map Grade.demerit).getD 0
    time := (x.grade.map Grade.time).getD 0 }

/-- A slot joins an OPEN lot: the member entry goes to the tail, the slot to DONE with the lot's number, and the fill test
follows (R148, R149). -/
def joinLot (i : Fin 16) (x : Lot) (s : State) : State :=
  let y := { x with members := x.members ++ [(s.slot i).member i] }
  let s := s.modSlot i fun v => { v with state := .done, lotNumber := some x.number }
  let s := s.withLots (s.lots.putOpen y)
  if y.capacity ≤ y.members.length then closeLot y .filled s else s

/-- Opens a lot of a key; the next lot number is left one beyond the number given (R147). -/
def openNewLot (p : Fin 4) (b : Bin) (s : State) : State :=
  let x := s.newLot p b
  s.withLots { s.lots with opens := s.lots.opens ++ [x], next := nextNumber x.number }

/-- A slot joins the OPEN lot of its key, opened first if there is none (R148). -/
def joinKey (i : Fin 16) (p : Fin 4) (b : Bin) (s : State) : State :=
  match s.lots.openLot p b with
  | some x => joinLot i x s
  | none => joinLot i (s.newLot p b) (openNewLot p b s)

/-- A grade record reaches the lot builder (R148): the slot joins, or waits behind the FULL lot of its key with notice
LOT_WAIT (R150). -/
def giveGrade (i : Fin 16) (p : Fin 4) (b : Bin) (s : State) : State :=
  match s.lots.fullLot p b with
  | none => joinKey i p b s
  | some x =>
    let s := s.modSlot i fun v => { v with state := .lotWait }
    let s := s.withLots { s.lots with waiting := s.lots.waiting ++ [i] }
    raise i.val (.lotWait p b x.number s.lots.waiting.length) s

/-- A slot waits for a lot of the key: its profile and its bin are the key's (R150). -/
def Slot.waitsFor (p : Fin 4) (b : Bin) (x : Slot) : Bool :=
  decide (x.profile = some p) && decide (x.outcome = some (.bin b))

/-- Of the slots listed, those that wait for the key join in list order, until a lot of the key is FULL (R151 steps 2, 3). -/
def joinWaiters (p : Fin 4) (b : Bin) : List (Fin 16) → State → State
  | [], s => s
  | i :: rest, s =>
    if (s.lots.fullLot p b).isSome then s
    else if (s.slot i).waitsFor p b then joinWaiters p b rest (joinKey i p b (leaveLotList i s))
    else joinWaiters p b rest s

/-- The drain (R151), with as many rounds as `fuel` allows. -/
def drainRounds : Nat → State → State
  | 0, s => s
  | fuel + 1, s =>
    if s.lots.manifest.length < Config.manifestLots then
      match s.lots.full with
      | [] => s
      | x :: rest =>
        let s := s.withLots { s.lots with full := rest, manifest := s.lots.manifest ++ [{ x with closed := some s.line.time }] }
        let s := raise x.number (.lotClosed x.profile x.bin x.members.length .drain) s
        drainRounds fuel (joinWaiters x.profile x.bin s.lots.waiting s)
    else s

/-- The drain (R151). Each round fills one of the manifest's 8 places. -/
def drain (s : State) : State := drainRounds Config.manifestLots s

/-- The refill of a FULL lot made OPEN (R156): the slots of its key join in lot-wait order until the lot is full or none
waits. -/
def refill (p : Fin 4) (b : Bin) (number : Nat) : List (Fin 16) → State → State
  | [], s => s
  | i :: rest, s =>
    match s.lots.opens.find? fun y => decide (y.number = number) with
    | none => s
    | some x =>
      if (s.slot i).waitsFor p b then refill p b number rest (joinLot i x (leaveLotList i s))
      else refill p b number rest s

/-! ### Serials -/

def Lot.holds (serial : List Byte) (l : Lot) : Bool := l.members.any fun m => decide (m.serial = serial)

/-- The duplicate serial check of a slot's IDENT: a serial held by another slot's identity or by a member of any lot (R159). -/
def State.duplicate (s : State) (i : Fin 16) (serial : List Byte) : Bool :=
  (slotIds.any fun j => decide (j ≠ i) && decide ((s.slot j).identity.map Identity.serial = some serial))
    || s.lots.all.any (Lot.holds serial)

end Sys2Proof.Machine
end

