-- ==== Sys2Proof/Machine/Meetings.lean ====
section
/-! DEFINITION. Events that meet: whether a pause of a slot meets the event in progress (R62, R144), with what tells it, the result of
a sensor read (R116 to R118) and whether the line takes a request (R163, R177). -/

namespace Sys2Proof.Machine

/-! ### The line -/

/-- The tray ignores received bytes: while it drives the pair (R163), and between a restart's reply and the restart (R177). -/
def Line.deaf (l : Line) : Bool := l.driving || l.restartDue

/-! ### A sensor read -/

/-- The limit of a zone: setpoint plus margin, never above 95 °C (R118). -/
def ZoneSettings.limit (x : ZoneSettings) : Int := min ((x.setpoint : Int) + x.margin) Config.limitCeiling

/-- The number a temperature word stands for, high byte first, in two's complement (R116). -/
def wordTemp (hi lo : Byte) : Int := (hi ++ lo).toInt

/-- The temperature of a good read; a read that is not acknowledged, late or out of -160 to 600 has none (R116). -/
def goodRead (r : SensorRead) : Option Int :=
  match r with
  | .word hi lo => if -160 ≤ wordTemp hi lo ∧ wordTemp hi lo ≤ 600 then some (wordTemp hi lo) else none
  | .noAck | .late => none

/-- The read result in the record (R117). -/
def Zone.readTaken (r : Option Int) (z : Zone) : Zone :=
  match r with
  | some t => { z with temp := some t, miss := 0 }
  | none => { z with miss := min 3 (z.miss + 1) }

/-- The fault a period finds after its read (R117, R118): none in FAULT; SENSOR at the third miss; OVER at or above the
limit. -/
def Zone.finds (r : Option Int) (z : Zone) : Option ZoneReason :=
  if z.state = .fault then none
  else
    match r with
    | none => if z.miss = 3 then some .sensor else none
    | some t => if z.set.limit ≤ t then some .over else none

/-! ### Meeting -/

/-- A pause of the slot meets the event in progress: the command that waits next is a SLOT HOLD of the slot that the line will take, or
a control period that puts its zone in FAULT (R62, R144). That two events meet where the second waits next is the model's reading (log
entry 36). -/
def State.pauseMeets (s : State) (i : Fin 16) : Bool :=
  match s.pending with
  | .slotHold r :: _ => !s.line.deaf && decide (r.fields = [BitVec.ofNat 8 i.val])
  | .controlPeriod z read :: _ =>
    decide (z = zoneOf i) && (((s.zone z).readTaken (goodRead read)).finds (goodRead read)).isSome
  | _ => false

/-- What a request does that lifts a pause: it meets no command that waits, since the requests of a line come one after another. -/
def unmet (f : State → State) (s : State) : State := { f { s with pending := [] } with pending := s.pending }

/-- The entry of the slot's current step (R47, R135). -/
def State.stepEntry (s : State) (i : Fin 16) : StepEntry :=
  { slot := i, retests := (s.slot i).retests, index := (s.slot i).exec.index, counters := (s.slot i).exec.counters }

end Sys2Proof.Machine
end

