-- ==== Sys2Proof/Machine/Grade.lean ====
section
/-! DEFINITION. The grader: gates (R133, R134), measures (R137 to R140), demerit (R141), bin selection (R142), retest (R135)
and hand-over (R143). -/

namespace Sys2Proof.Machine

/-! ### Measures -/

/-- The cut of a measure (R137). -/
def cut (n : Nat) : Nat := min n 4095

/-- Reallocated growth (R138), by what is present when the run is graded: R138 names a HEALTH completed before any IDENT among the
cases of an absent value, and an IDENT that follows it makes both present (DESIGN CHOICE, log entry 38). -/
def growth : Option Nat → Option Nat → Nat
  | some start, some last => cut (last - start)
  | _, _ => 0

/-- Corrected sectors per million (R139). -/
def perMillion (c s : Nat) : Nat := if s = 0 then 0 else cut (c * 1000000 / s)

/-- The speed margin q (R140). -/
def speedMargin (rate : Option Nat) (nominal : Nat) : Nat :=
  match rate with
  | none => 1000
  | some r => min (1000 * r / nominal) 65535

/-- The speed shortfall (R140). -/
def shortfall (q : Nat) : Nat := 1000 - q

/-- The demerit of a run (R141). -/
def demerit (w : Weights) (nominal : Nat) (start : Option Nat) (a : Accum) : Nat :=
  w.u * cut a.u + w.k * cut a.k + w.m * cut a.m + w.w * cut a.w + w.r * growth start a.reallocEnd
    + w.p * perMillion a.c a.s + w.e * cut a.e + w.l * cut a.l + w.s * shortfall (speedMargin a.worstBand nominal)

/-- A bin entry's three limits hold (R142). -/
def BinEntry.admits (x : BinEntry) (d : Nat) (a : Accum) : Bool :=
  decide (d ≤ x.dmax) && decide (cut a.u ≤ x.umax) && decide (cut a.m + cut a.w ≤ x.wmax)

/-- The entry of a bin. -/
def Profile.entry (p : Profile) : Bin → Option BinEntry
  | .A => p.binA
  | .B => p.binB
  | .C => p.binC
  | .D => p.binD

/-- Bin selection: the first present entry, in the order A to D, whose limits hold (R142). -/
def Profile.select (p : Profile) (d : Nat) (a : Accum) : Option Bin :=
  [Bin.A, .B, .C, .D].find? fun x => (p.entry x).any fun e => e.admits d a

/-! ### Gates -/

/-- The step is a READ SWEEP with verify yes (R134). -/
def Step.verifies : Step → Bool
  | .readSweep _ v => v
  | _ => false

/-- The completion gate a run falls short of, EXPOSURE first (R134). -/
def gateMissed (p : Plan) (a : Accum) : Option Gate :=
  if a.exposure < p.exposure * 60 then some .exposure
  else if p.steps.any Step.verifies && decide (a.s = 0) then some .noData
  else none

/-! ### The verdict -/

/-- What the grader finds (R133 to R142). -/
inductive GradeResult where
  | incomplete
  | retest (gate : Gate)
  | selected (demerit : Nat) (bin : Option Bin)
  deriving DecidableEq, Repr

/-- The stages of a grading, in order: identity gate, completion gates, measures, demerit, bin selection (R132). -/
def judge (p : Plan) (f : Profile) (x : Slot) : GradeResult :=
  match x.identity with
  | none => .incomplete
  | some id =>
    match gateMissed p x.acc with
    | some g => if x.retests < f.retestLimit then .retest g else .incomplete
    | none =>
      let d := demerit f.weights f.nominalRate (some id.reallocStart) x.acc
      .selected d (f.select d x.acc)

/-- The slot record and executor after a retest, step 0 not yet begun (R135, R60). -/
def Slot.retested (x : Slot) : Slot :=
  { x with
    retests := x.retests + 1
    acc := Accum.zero
    exec := { x.exec with phase := .idle, index := 0, counters := x.exec.counters.map fun _ => 0, pass := 0, timer := none, dwell := 0 } }

/-- Ends a graded run in DONE (R143): outcome, reason, demerit and graded time are set, SLOT_GRADED is raised, the slot is
released. -/
def finishGrading (i : Fin 16) (v : Verdict) (reason : Reason) (grade : Option Grade) (s : State) : State :=
  let s := s.modSlot i fun x => { x with outcome := some v, reason := reason, grade := grade }
  let s := raise i.val (.slotGraded (.ended v) reason (grade.map Grade.demerit) (s.slot i).retests none) s
  endRun i (fun x => { x with state := .done }) s

/-- A plan position and a profile position that hold nothing; read only where a run names none. -/
def Plan.blank : Plan :=
  { name := [], spinCost := 0, runCost := 0, offTime := 0, exposure := 0, spinTimeout := 0, identTimeout := 0,
    healthTimeout := 0, writeTimeout := 0, readTimeout := 0, seekTimeout := 0, standbyTimeout := 0, steps := [] }

def Profile.blank : Profile :=
  { weights := { u := 0, k := 0, m := 0, w := 0, r := 0, p := 0, e := 0, l := 0, s := 0 }, nominalRate := 1
    lotCapacity := 1, retestLimit := 0, binA := none, binB := none, binC := none, binD := none }

/-- The profile the slot record names (R129). -/
def State.profileOf (s : State) (i : Fin 16) : Option Profile := (s.slot i).profile.bind s.profileAt

/-- One grading (R132). The answer's second part is yes when a retest restarts the run, whose step 0 is then to begin. -/
def gradeSlot (i : Fin 16) (s : State) : State × Bool :=
  match judge ((s.planOf i).getD Plan.blank) ((s.profileOf i).getD Profile.blank) (s.slot i) with
  | .retest g =>
    let s := s.modSlot i Slot.retested
    (raise i.val (.slotGraded .retest .none none (s.slot i).retests (some g)) s, true)
  | .incomplete => (finishGrading i .reject .incomplete none s, false)
  | .selected d none => (finishGrading i .reject .demerit (some { demerit := d, time := s.line.time }) s, false)
  | .selected d (some g) =>
    (giveGrade i ((s.slot i).profile.getD 0) g
      (finishGrading i (.bin g) .none (some { demerit := d, time := s.line.time }) s), false)

end Sys2Proof.Machine
end

