-- ==== Sys2Proof/Machine/Executor.lean ====
section
/-! DEFINITION. The step executor: beginning a step and its work (R48, R50 to R57), REPEAT (R49), the advance up to plan end
(R48, R60), and what makes an executor go on: a sweep's end, a pause that lifts (R58), a return from recovery (R59). -/

namespace Sys2Proof.Machine

/-! ### Beginning a step -/

/-- The step kinds that need the drive spun (chapter 3's step table). -/
def Step.needsSpun : Step → Bool
  | .ident | .health | .writeSweep _ | .readSweep _ _ | .seekSweep _ => true
  | .spin | .dwell _ | .standby | .repeatTo _ _ => false

/-- What the step timer is loaded with (R54). -/
def Step.timer : Step → Option Nat
  | .writeSweep f => if 0 < f.timeLimit then some (f.timeLimit * 1000) else none
  | .readSweep f _ => if 0 < f.timeLimit then some (f.timeLimit * 1000) else none
  | _ => none

/-- The pass number a WRITE SWEEP takes (R53). -/
def nextPass (p : Nat) : Nat := if 255 ≤ p then 1 else p + 1

/-- The sweep engine as a step's beginning leaves it: started by a sweep step, for the identity as it stands (R53, R55, R87); as it
was otherwise. No chunk is in hand then: every buffer of the sweep before it has returned (R91, R110). -/
def Slot.engineBegun (st : Step) (x : Slot) : Sweep :=
  if st.isSweep then
    { Sweep.started st ((x.identity.map Identity.capacity).getD 0) ((x.identity.map Identity.sectorSize).getD 0) with
      hand := x.sweep.hand }
  else x.sweep

/-- The values a step begins with: dwell progress 0, the step timer by R54, recovery stage 0 (R48); a WRITE SWEEP's pass number
and a sweep's engine, which stand still through a spin phase (R53, R55, R94, R110; log entry 17). -/
def Slot.begun (st : Step) (x : Slot) : Slot :=
  { x with
    exec := { x.exec with dwell := 0, timer := st.timer, pass := if st.isWriteSweep then nextPass x.exec.pass else x.exec.pass }
    op := { x.op with stage := 0 }
    sweep := x.engineBegun st }

def setPhase (i : Fin 16) (p : Phase) (s : State) : State := s.modExec i fun x => { x with phase := p }

/-- The spin-up a step opens with: the slot waits for power, its power kept as it is, and joins the admission pending list
(R50, R26). -/
def awaitPower (i : Fin 16) (s : State) : State :=
  admission (s.modSlot i fun x => { x with state := .waitPower, exec := { x.exec with phase := .spinUp } })

/-- A sweep's work begins: the engine, started with its step, goes on. The answer's second part is yes when the range is empty,
so that the sweep ends at once (R88, R95). -/
def startSweep (i : Fin 16) (s : State) : State × Bool :=
  if (s.slot i).sweep.range = 0 then (s, true) else (engineGo i s, false)

/-- The work of a step begins (R51 to R57). The answer's second part is yes when the step ends at once. -/
def startWork (i : Fin 16) (st : Step) (s : State) : State × Bool :=
  let s := setPhase i .working s
  match st with
  | .spin => (s, true)
  | .ident => (issue i .ident [] s, false)
  | .health => (issue i .health [] s, false)
  | .writeSweep _ | .readSweep _ _ | .seekSweep _ => startSweep i s
  | .dwell _ => (s, false)
  | .standby => if (s.slot i).spun then (issue i .standby [] s, false) else (s, true)
  | .repeatTo _ _ => (s, true)

/-- A step begins (R48). SPIN begins under a pause too (R50); another kind waits in WAITING while a pause applies, or where one meets
the event (`met`; R62, R144), and opens with a spin phase when it needs a spun drive that is not spun. The answer's second part is yes
when the step ends at once. -/
def beginStep (met : Bool) (i : Fin 16) (st : Step) (s : State) : State × Bool :=
  if st = .spin then
    let s := s.modSlot i (Slot.begun st)
    if (s.slot i).spun then (s, true) else (awaitPower i s, false)
  else if met || s.paused i then (setPhase i .waiting s, false)
  else
    let s := s.modSlot i (Slot.begun st)
    if st.needsSpun && !(s.slot i).spun then (awaitPower i s, false) else startWork i st s

/-! ### The advance -/

/-- The place of a REPEAT among the plan's REPEAT steps, and so of its counter. -/
def repeatPlace (steps : List Step) (index : Nat) : Nat :=
  ((steps.take index).filter fun st => match st with | .repeatTo _ _ => true | _ => false).length

/-- Resolves the REPEAT the index names (R49). -/
def resolveRepeat (place target count : Nat) (x : Executor) : Executor :=
  if x.counters.getD place 0 < count then
    { x with counters := x.counters.set place (x.counters.getD place 0 + 1), index := target }
  else { x with counters := x.counters.set place 0, index := x.index + 1 }

/-- The current step ends: nothing stays interrupted (R78), the step timer stops (R54), the engine is of no sweep (R87), and
the index moves to the next step (R48). -/
def Slot.stepOver (x : Slot) : Slot :=
  { x with
    exec := { x.exec with timer := none, index := x.exec.index + 1 }
    op := { x.op with interrupted := none }
    sweep := x.sweep.retired }

/-- The advance from the step the index names (R48): REPEAT steps are resolved until the index names another kind, which
begins, or the plan has been passed, which hands the slot to grading with the index at the last step (R60). A step that ends
at once, and a retest, go on to the step after. With `met` no step but SPIN begins; a retest sets it where a pause meets the event
(R144; log entry 37). -/
def walk : Nat → Bool → Fin 16 → State → State
  | 0, _, _, s => s
  | fuel + 1, met, i, s =>
    match s.stepAt i with
    | none =>
      let s := s.modExec i fun x => { x with phase := .idle, index := x.index - 1 }
      match gradeSlot i s with
      | (s, true) => walk fuel (met || s.pauseMeets i) i s
      | (s, false) => s
    | some (.repeatTo target count) =>
      walk fuel met i (s.modExec i (resolveRepeat (repeatPlace (s.stepsOf i) (s.slot i).exec.index) target count))
    | some st =>
      match beginStep met i st s with
      | (s, true) => walk fuel met i (s.modSlot i Slot.stepOver)
      | (s, false) => s

/-- More rounds than any advance takes: 31 repeat counters of at most 256 values each, 32 step indexes and 4 runs of one drive
(3 retests) make fewer than 2^256 (R47, R49, R136). -/
def walkFuel : Nat := 2 ^ 130 * 2 ^ 130

/-- The executor goes on from the step its index names. -/
def proceed (i : Fin 16) (s : State) : State := walk walkFuel false i s

/-- The current step ends and the executor advances (R48). -/
def nextStep (i : Fin 16) (s : State) : State := proceed i (s.modSlot i Slot.stepOver)

/-- The current DWELL ends by a credit, and the executor advances (R48, R56); where a pause meets the credit the next step waits in
WAITING (R62). -/
def dwellEnds (i : Fin 16) (s : State) : State := walk walkFuel (s.pauseMeets i) i (s.modSlot i Slot.stepOver)

/-- The step ends if the engine reports the sweep ended (R53, R54, R55, R91). -/
def endIfEnded (i : Fin 16) (s : State) : State := if s.sweepEnded i then nextStep i s else s

/-- The engine goes on after an event, and the step ends if that was all (R91, R92). -/
def sweepOn (i : Fin 16) (s : State) : State := endIfEnded i (engineGo i s)

/-! ### Going on -/

/-- The operation a step issues first, of the kinds that issue one (R51, R52, R57). -/
def Step.firstOp : Step → Option Op
  | .ident => some .ident
  | .health => some .health
  | .standby => some .standby
  | _ => none

/-- A step in WORKING goes on where the slot is ACTIVE and no pause applies (R58, R80, R82): a sweep's engine issues and asks as
R92 and R97 let it, whatever is outstanding, and the sweep may end; of another step, nothing outstanding, the interrupted operation
is issued again, or the first operation where none has been issued (R50). -/
def resumeWork (i : Fin 16) (s : State) : State :=
  let x := s.slot i
  if s.mayWork i then
    if x.sweep.running then sweepOn i s
    else if x.op.outstanding.isNone then
      match x.op.interrupted with
      | some op => issue i op [] (s.modOp i fun u => { u with interrupted := none })
      | none =>
        match (s.stepAt i).bind Step.firstOp with
        | some op => issue i op [] s
        | none => s
    else s
  else s

/-- A pause may have lifted (R58): in WAITING the next step begins, in WORKING the step goes on. -/
def pauseLifts (i : Fin 16) (s : State) : State :=
  if s.paused i then s
  else if decide ((s.slot i).state = .active) && decide ((s.slot i).exec.phase = .waiting) then proceed i s
  else resumeWork i s

/-- An interrupted chunk is dropped at a return during DRAINING, and the step ends if the engine reports it (R54, R80, R82). -/
def returnDraining (i : Fin 16) (s : State) : State :=
  endIfEnded i (s.modOp i fun u => { u with interrupted := none })

end Sys2Proof.Machine
end

