-- ==== Sys2Proof/Machine/Drive.lean ====
section
/-! DEFINITION. The drive operation unit's events: completions read into their cases (R69) and handled (R70 to R75), expiries
and the recovery ladder (R76 to R84), and the commands COMPLETION, DATA_CHUNK, TIMEOUT_EXPIRY and OFF_TIME_END. -/

namespace Sys2Proof.Machine

/-! ### The recovery ladder -/

/-- The interrupted operation after a stage is entered: the operation that expired, unless that is the ladder's own DRIVE
RESET (R78). -/
def OpUnit.interrupting (op : Op) (u : OpUnit) : Option Op := if op = .driveReset then u.interrupted else some op

/-- Raises ESCALATION for a stage (R84). -/
def raiseEscalation (i : Fin 16) (stage : EscalationStage) (op : Op) (cause : Cause) (s : State) : State :=
  raise i.val (.escalation stage op cause (s.slot i).exec.index (s.slot i).acc.e) s

/-- The slot record at stage 1: stage, interrupted operation, return state, RECOVERING (R79 steps 1, 2, 4, 5). -/
def Slot.stage1 (op : Op) (x : Slot) : Slot :=
  { x with
    state := .recovering
    op := { x.op with
      stage := 1
      interrupted := x.op.interrupting op
      returnTo := some (if x.state = .spinning then .spinning else .active) } }

/-- Stage 1 (R79): the expired operation's buffer returns, DRIVE RESET is issued, ESCALATION is raised. -/
def enterStage1 (i : Fin 16) (op : Op) (cause : Cause) (s : State) : State :=
  let s := s.modSlot i (Slot.stage1 op)
  let s := dropChunks i (fun h => decide (h.use = .inFlight)) s
  raiseEscalation i .one op cause (issue i .driveReset [] s)

/-- The chunks stage 2 hands back to the redo list: the checked chunk first, then those being filled or prepared (R81, R90). -/
def Sweep.handBack (e : Sweep) : List Chunk :=
  ((e.hand.filter fun h => decide (h.use = .checking)).map InHand.chunk)
    ++ ((e.hand.filter fun h => decide (h.use = .filling) || decide (h.use = .prepared)).map InHand.chunk)

/-- The slot record at stage 2 (R81 steps 1 to 6, buffers apart): hand-backs go to the head of the redo list unless the
executor is DRAINING (R90); power off, off timer loaded. -/
def Slot.stage2 (op : Op) (offTime : Nat) (x : Slot) : Slot :=
  { x with
    state := .cycling
    powered := false
    spun := false
    op := { x.op with stage := 2, interrupted := x.op.interrupting op, returnTo := none, offTimer := some (offTime * 1000) }
    sweep := if x.exec.phase = .draining then x.sweep else { x.sweep with redo := x.sweep.handBack ++ x.sweep.redo } }

/-- Stage 2 (R81). -/
def enterStage2 (i : Fin 16) (op : Op) (cause : Cause) (s : State) : State :=
  let offTime := ((s.planOf i).map Plan.offTime).getD 0
  let s := s.modSlot i (Slot.stage2 op offTime)
  let s := dropChunks i (fun _ => true) (leaveBufferList i s)
  raiseEscalation i .two op cause (admission s)

/-- A run ends in DONE with REJECT, no demerit, and SLOT_GRADED (R74, R83). -/
def rejectRun (i : Fin 16) (reason : Reason) (s : State) : State :=
  let s := endRun i (fun x => { x with state := .done, outcome := some .reject, reason := reason, grade := none }) s
  raise i.val (.slotGraded (.ended .reject) reason none (s.slot i).retests none) s

/-- The slot is in a state that can hold an operation (R3, R76). -/
def SlotState.holdsOp : SlotState → Bool
  | .spinning | .active | .recovering => true
  | _ => false

/-- An expiry of an operation (R76): it is absent, E rises, running bands are void (R106), and the ladder acts by the stage. -/
def expire (i : Fin 16) (op : Op) (cause : Cause) (s : State) : State :=
  let s := s.modOp i OpUnit.closed
  if (s.slot i).state.holdsOp then
    let s := voidRunning i (s.modAcc i fun a => { a with e := sat32 a.e 1 })
    if (s.slot i).op.stage = 0 then enterStage1 i op cause s
    else if (s.slot i).op.stage = 1 then enterStage2 i op cause s
    else rejectRun i .unresponsive (raiseEscalation i .last op cause s)
  else s

/-! ### Completions as read (R69) -/

/-- How a completion is taken (R69). -/
inductive Reading where
  | done
  | media (residual corrected : Nat)
  | aborted
  | interface
  deriving DecidableEq, Repr

/-- The sectors an operation moves. -/
def Op.count : Op → Nat
  | .write c => c.count
  | .read c => c.count
  | _ => 0

/-- The residual count of an ERROR MEDIA: at most the operation's count, and for a READ or WRITE at least 1 (R69). -/
def Op.residual (op : Op) (n : Nat) : Nat :=
  match op with
  | .write c => max 1 (min n c.count)
  | .read c => max 1 (min n c.count)
  | _ => 0

/-- The checks of an IDENT payload (R70). -/
def identPayload : Payload → Option (List Byte × Nat × Nat × Nat)
  | .ident serial capacity size realloc =>
    if (size = 512 ∨ size = 4096) ∧ 1 ≤ capacity ∧ capacity ≤ Config.capacityTop ∧ realloc ≤ Config.top32 ∧ serial.length = 20
    then some (serial, capacity, size, realloc) else none
  | _ => none

/-- The payload of a HEALTH completion (R69). A record that carries an IDENT payload carries none of HEALTH, so that its completion is
ERROR INTERFACE (DESIGN CHOICE, log entry 35). -/
def healthPayload : Payload → Option Nat
  | .health n => some n.toNat
  | _ => none

/-- The data chunk that has arrived for the READ in flight covers so many sectors (R69, R75). -/
def Slot.covers (x : Slot) (sectors : Nat) : Bool :=
  decide (sectors * ((x.identity.map Identity.sectorSize).getD 0)
    ≤ (((x.sweep.hand.find? fun h => decide (h.use = .inFlight)).map fun h => h.data.length).getD 0))

/-- A completion of an operation that was outstanding, read into its case (R69). The corrected count stands only for a READ,
at most the sectors transferred. -/
def readCompletion (x : Slot) (op : Op) (c : Completion) : Reading :=
  match c.status, c.error with
  | .error, .aborted => .aborted
  | .error, .interface => .interface
  | .error, .none => .interface
  | .error, .media =>
    match op with
    | .read k =>
      let r := op.residual c.residual
      if x.covers (k.count - r) then .media r (min c.corrected (k.count - r)) else .interface
    | _ => .media (op.residual c.residual) 0
  | .done, _ =>
    match op with
    | .read k => if x.covers k.count then .done else .interface
    | .ident => if (identPayload c.payload).isSome then .done else .interface
    | .health => if (healthPayload c.payload).isSome then .done else .interface
    | _ => .done

/-! ### Completions handled -/

/-- SPIN DONE (R70, R4): SPINNING → ACTIVE with spun yes, admission, and the executor goes on by its phase (R50, R82). -/
def spinDone (i : Fin 16) (s : State) : State :=
  if (s.slot i).state = .spinning then
    let s := admission (s.modSlot i fun x => { x with state := .active, spun := true })
    match (s.slot i).exec.phase with
    | .spinUp =>
      let s := s.modOp i fun u => { u with interrupted := none }
      match s.stepAt i with
      | some .spin => nextStep i s
      | _ => resumeWork i (setPhase i .working s)
    | .draining => returnDraining i s
    | .working => resumeWork i s
    | _ => s
  else s

/-- DRIVE RESET DONE (R80): the return state is restored, and the interrupted operation is issued again, waits, or is
dropped. -/
def driveResetDone (i : Fin 16) (s : State) : State :=
  if (s.slot i).state = .recovering then
    match (s.slot i).op.returnTo with
    | some .spinning =>
      let s := s.modSlot i fun x => { x with state := .spinning, op := { x.op with returnTo := none, interrupted := none } }
      issue i .spin [] s
    | _ =>
      let s := s.modSlot i fun x => { x with state := .active, op := { x.op with returnTo := none } }
      if (s.slot i).exec.phase = .draining then returnDraining i s else resumeWork i s
  else s

/-- IDENT DONE with a sound payload (R51, R71, R159): the identity is stored, the count at start kept where an identity was
there, and the step ends; a duplicate serial faults the slot (R6). -/
def identDone (i : Fin 16) (serial : List Byte) (capacity size realloc : Nat) (s : State) : State :=
  if s.duplicate i serial then faultSlot i .duplicate (some serial) s
  else
    let start := ((s.slot i).identity.map Identity.reallocStart).getD realloc
    nextStep i (s.modSlot i fun x =>
      { x with identity := some { serial := serial, capacity := capacity, sectorSize := size, reallocStart := start } })

/-- A READ chunk whose completion has been taken with so many sectors transferred: a verify READ with pass 1 or above is
handed to the pattern unit, any other is counted in S unless it verifies, and its buffer returns (R70, R101). -/
def readTransferred (i : Fin 16) (transferred : Nat) (s : State) : State :=
  let x := s.slot i
  if x.sweep.verifies && decide (0 < x.exec.pass) && decide (0 < transferred) then
    let gone := (x.sweep.hand.filter fun h => decide (h.use = .inFlight)).map InHand.lending
    let s := s.modSweep i fun e => { e with hand := e.hand.map fun h =>
      if h.use = .inFlight then { h with use := .checking, chunk := { h.chunk with count := transferred } } else h }
    s.withWork (s.work ++ gone.map fun n => { slot := i, lending := n, check := true })
  else
    let s := if x.sweep.verifies then s else s.modAcc i fun a => { a with s := sat64 a.s transferred }
    dropChunks i (fun h => decide (h.use = .inFlight)) s

/-- The remainder of a chunk after its failing sector joins the tail of the redo list, unless the executor is DRAINING; with no
remainder the chunk has completed for its band (R72, R90, R106). -/
def remainder (i : Fin 16) (c : Chunk) (transferred : Nat) (s : State) : State :=
  let n := c.count - (transferred + 1)
  if n = 0 then bandCompletion i c.band s
  else if (s.slot i).exec.phase = .draining then s
  else s.modSweep i fun e => { e with redo := e.redo ++ [{ c with first := c.first + (transferred + 1), count := n }] }

/-- A seek counted as made (R95, R96). -/
def seekMade (i : Fin 16) (s : State) : State := s.modSweep i fun e => { e with remaining := e.remaining - 1 }

/-- The seek limit of the sweep in progress. -/
def Sweep.seekLimit (e : Sweep) : Nat :=
  match e.step with
  | some (.seekSweep f) => f.limit
  | _ => 0

/-- A DONE completion of an operation other than SPIN and DRIVE RESET, in ACTIVE (R70). `ms` is the time from issue to
completion. -/
def workDone (i : Fin 16) (op : Op) (c : Completion) (ms : Nat) (s : State) : State :=
  match op with
  | .ident =>
    match identPayload c.payload with
    | some (serial, capacity, size, realloc) => identDone i serial capacity size realloc s
    | none => s
  | .health => nextStep i (s.modAcc i fun a => { a with reallocEnd := healthPayload c.payload })
  | .write k => sweepOn i (bandCompletion i k.band (dropChunks i (fun h => decide (h.use = .inFlight)) s))
  | .read k =>
    let s := s.modAcc i fun a => { a with c := sat64 a.c (min c.corrected k.count) }
    sweepOn i (readTransferred i k.count (bandCompletion i k.band s))
  | .seek _ =>
    let late := if (s.slot i).sweep.seekLimit < ms then 1 else 0
    sweepOn i (seekMade i (s.modAcc i fun a => { a with l := sat32 a.l late }))
  | .standby => nextStep i (s.modSlot i fun x => { x with spun := false })
  | .spin => s
  | .driveReset => s

/-- An ERROR MEDIA completion of a READ, WRITE or SEEK (R72). -/
def mediaError (i : Fin 16) (op : Op) (residual corrected : Nat) (s : State) : State :=
  let s := s.modAcc i fun a => { a with u := sat32 a.u 1, c := sat64 a.c corrected }
  match op with
  | .read k => sweepOn i (readTransferred i (k.count - residual) (remainder i k (k.count - residual) s))
  | .write k =>
    sweepOn i (dropChunks i (fun h => decide (h.use = .inFlight)) (remainder i k (k.count - residual) s))
  | .seek _ => sweepOn i (seekMade i s)
  | _ => s

/-- The operation unit takes a completion of the operation that was outstanding (R68 to R74). -/
def handle (i : Fin 16) (op : Op) (c : Completion) (ms : Nat) (s : State) : State :=
  let reading := readCompletion (s.slot i) op c
  let s := s.modOp i OpUnit.closed
  match reading with
  | .aborted => if (s.slot i).state.holdsOp then rejectRun i .driveRefused s else s
  | .interface => expire i op .interface s
  | .media residual corrected =>
    match op with
    | .read _ | .write _ | .seek _ => if (s.slot i).state = .active then mediaError i op residual corrected s else s
    | _ => expire i op .media s
  | .done =>
    match op with
    | .spin => spinDone i s
    | .driveReset => driveResetDone i s
    | _ => if (s.slot i).state = .active then workDone i op c ms s else s

/-- A completion record is matched by its tag (R68). -/
def completionArrives (i : Fin 16) (r : ChannelRecord) (s : State) : State :=
  match r with
  | .unreadable => s
  | .record c =>
    match (s.slot i).op.outstanding with
    | none => s
    | some op =>
      if c.tag = (s.slot i).op.tag then handle i op c (s.now - (s.slot i).op.issuedAt) s else s

/-- A data chunk is matched by its tag against an outstanding READ and written into its buffer (R68, R75). -/
def dataArrives (i : Fin 16) (tag : Byte) (data : List Byte) (s : State) : State :=
  match (s.slot i).op.outstanding with
  | some (.read _) =>
    if tag = (s.slot i).op.tag then
      s.modSweep i fun e => { e with hand := e.hand.map fun h => if h.use = .inFlight then { h with data := data } else h }
    else s
  | _ => s

/-- The timeout timer of the operation that bears `tag` reaches 0 (R76). Where its completion was taken first, or it was abandoned,
its timer has stopped and the expiry does not occur (R77), whatever has been issued since (log entry 40). -/
def timeoutEnds (i : Fin 16) (tag : Byte) (s : State) : State :=
  match (s.slot i).op.outstanding with
  | none => s
  | some op => if tag = (s.slot i).op.tag then expire i op .timeout s else s

/-- The off timer reaches 0 (R82): CYCLING → WAIT_POWER with the power off, and the slot joins the admission pending list.
Without a running off timer nothing happens. -/
def offTimeEnds (i : Fin 16) (s : State) : State :=
  if (s.slot i).op.offTimer.isSome && decide ((s.slot i).state = .cycling) then
    admission (s.modSlot i fun x => { x with state := .waitPower, powered := false, op := { x.op with offTimer := none } })
  else s

end Sys2Proof.Machine
end

