-- ==== Sys2Proof/Machine/Sweeps.lean ====
section
/-! DEFINITION. The events at the sweep engine and the pattern unit: the step timer (R54), the pacing tick (R93), fills (R100)
and checks (R101). -/

namespace Sys2Proof.Machine

/-- The step timer reaches 0 (R54): it counts only in WORKING, in ACTIVE and under no pause, so only there can it end; the
engine drains, and the step ends if nothing is left in flight. Of a step that has ended first the timer has stopped, whatever step
has begun since (R62; log entry 40). -/
def stepTimerEnds (e : StepEntry) (s : State) : State :=
  if (s.slot e.slot).exec.timer.isSome && decide (s.stepEntry e.slot = e) && s.mayWork e.slot then
    endIfEnded e.slot (drainEngine e.slot s)
  else s

/-- A missed tick (R93). -/
def missTick (i : Fin 16) (s : State) : State := s.modAcc i fun a => { a with l := sat32 a.l 1 }

/-- A tick that finds nothing outstanding and nothing interrupted has something to issue: a prepared chunk, or a seek not yet
taken. -/
def Sweep.ready (e : Sweep) : Bool := if e.isSeek then e.takeIndex.isSome else e.prepared.isSome

/-- A tick finds something still to take or in preparation (R93). -/
def Slot.inPreparation (x : Slot) : Bool :=
  x.canTake || (x.sweep.hand.any fun h => decide (h.use = .filling))

/-- The pacing timer reaches 0 (R93, R94): it is reloaded, and the tick issues the prepared chunk or the next seek, or is
missed, or finds nothing left to do. While an interrupted operation waits a tick is missed (R92). Of a step that has ended first the
timer has stopped (R94; log entry 40). -/
def pacingEnds (e : StepEntry) (s : State) : State :=
  let i := e.slot
  if (s.slot i).sweep.pacing.isSome && decide (s.stepEntry i = e) && s.mayWork i then
    let s := s.modSweep i fun e => { e with pacing := some e.pace.2 }
    let x := s.slot i
    if x.op.outstanding.isSome || x.op.interrupted.isSome then missTick i s
    else if x.sweep.ready then engineGo i (issueNext i s)
    else if x.inPreparation then missTick i s
    else s
  else s

/-- The pattern unit holds this piece of work of this slot. -/
def State.atWork (s : State) (i : Fin 16) (lending : Nat) (check : Bool) : Bool :=
  s.work.contains { slot := i, lending := lending, check := check }

/-- A fill ends (R100): the buffer holds the chunk's sectors, the chunk is prepared, and the engine goes on. A fill whose
lending no longer stands is no longer at work and is discarded. -/
def fillEnds (i : Fin 16) (lending : Nat) (s : State) : State :=
  if s.atWork i lending false then
    let x := s.slot i
    let size := (x.identity.map Identity.sectorSize).getD 0
    let s := endWork i [lending] s
    let s := s.modSweep i fun e => { e with hand := e.hand.map fun h =>
      if h.lending = lending then
        { h with use := .prepared
                 data := fillBytes e.pattern s.line.address i x.exec.pass size h.chunk.first h.chunk.count }
      else h }
    engineGo i s
  else s

/-- The classes a finished check found (R101, R104). -/
def checkClasses (i : Fin 16) (h : InHand) (s : State) : List SectorClass :=
  let x := s.slot i
  classifyAll x.sweep.pattern s.line.address i x.exec.pass ((x.identity.map Identity.sectorSize).getD 0)
    h.chunk.first h.chunk.count h.data

/-- How many sectors are of a class. -/
def countClass (c : SectorClass) (l : List SectorClass) : Nat := (l.filter fun x => decide (x = c)).length

/-- S, K, M and W rise by what a check found (R101). -/
def Accum.checked (sectors : Nat) (found : List SectorClass) (a : Accum) : Accum :=
  { a with
    s := sat64 a.s sectors
    k := sat32 a.k (countClass .corrupt found)
    m := sat32 a.m (countClass .misplaced found)
    w := sat32 a.w (countClass .stale found) }

/-- A check ends (R101): its sectors are counted, its buffer returns, the engine goes on and the step may end. A check whose
lending no longer stands is no longer at work and counts nothing. -/
def checkEnds (i : Fin 16) (lending : Nat) (s : State) : State :=
  if s.atWork i lending true then
    match (s.slot i).sweep.hand.find? fun h => decide (h.lending = lending) with
    | none => s
    | some h =>
      let s := s.modAcc i (Accum.checked h.chunk.count (checkClasses i h s))
      sweepOn i (dropChunks i (fun y => decide (y.lending = lending)) s)
  else s

end Sys2Proof.Machine
end

