-- ==== Sys2Proof/Machine/Slots.lean ====
section
/-! DEFINITION. The events at a slot's pins and channel: seat sense (R7, R8), removal (R9, R10), link beat (R11) and link loss
(R12); and the pauses of R16 and R17. -/

namespace Sys2Proof.Machine

/-- The raw seat-sense input takes a value (R7): the window starts when it comes to differ from seated and is cancelled when
it comes to equal it. -/
def seatSense (i : Fin 16) (raw : Bool) (s : State) : State :=
  if (s.slot i).raw = raw then s
  else s.modSlot i fun x => { x with raw := raw, window := if raw = x.seated then none else some Config.seatWindowMs }

/-- The record of an empty slot after removal (R10, R63, R86, R110): the power-on values, but for the link watch, the raw input
and the operation tag (with what was last sent on the channel). Every chunk in hand has been released before (R9). -/
def Slot.removed (x : Slot) : Slot :=
  { Slot.reset with
    raw := x.raw, linkUp := x.linkUp, silence := x.silence
    op := { OpUnit.reset with tag := x.op.tag, issuedAt := x.op.issuedAt, sent := x.op.sent, sentData := x.op.sentData }
    sweep := { Sweep.reset with hand := x.sweep.hand } }

/-- Unseated is taken (R9, R10): the slot releases everything, its record is cleared, SLOT_REMOVED is raised. -/
def remove (i : Fin 16) (s : State) : State :=
  let prior := (s.slot i).state
  let serial := (s.slot i).identity.map Identity.serial
  let s := endRun i (fun x => { x with state := .empty, seated := false, window := none }) (leaveLotList i s)
  raise i.val (.slotRemoved prior serial) (s.modSlot i Slot.removed)

/-- The debounce window ends with the raw input still differing (R7): seated takes the raw value; seated taken makes the slot
SEATED and raises SLOT_SEATED (R8), unseated taken removes the drive (R9). Without a running window nothing happens. -/
def seatWindowEnds (i : Fin 16) (s : State) : State :=
  let x := s.slot i
  if x.window.isSome && decide (x.raw ≠ x.seated) then
    if x.raw then
      raise i.val .slotSeated (s.modSlot i fun x => { x with seated := true, window := none, state := .seated })
    else remove i s
  else s

/-- A beat arrives (R11). -/
def beat (i : Fin 16) (s : State) : State :=
  s.modSlot i fun x => { x with linkUp := true, silence := some Config.silenceMs }

/-- The silence timer runs out (R11, R12): link_up becomes no, and a slot in a run state is FAULTED with LINK. Without a
running silence timer nothing happens. -/
def linkLost (i : Fin 16) (s : State) : State :=
  if (s.slot i).silence.isSome then
    let s := s.modSlot i fun x => { x with linkUp := false, silence := none }
    if (s.slot i).state.inRun then faultSlot i .link none s else s
  else s

/-- SLOT HOLD (R16): held becomes yes, a pause that begins voids running bands (R106), and admission is evaluated. -/
def hold (i : Fin 16) (s : State) : State :=
  admission (voidRunning i (s.modSlot i fun x => { x with held := true }))

/-- SLOT RELEASE (R16): held becomes no, admission is evaluated, and the executor resumes if no zone_hold applies. A
release meets no hold (log entry 36). -/
def releaseHold (i : Fin 16) (s : State) : State :=
  let paused := s.paused i
  let s := admission (s.modSlot i fun x => { x with held := false })
  if paused then unmet (pauseLifts i) s else s

/-- The REPEAT steps of a plan. -/
def Plan.repeats (p : Plan) : Nat :=
  (p.steps.filter fun st => match st with | .repeatTo _ _ => true | _ => false).length

/-- SLOT START accepted (R14): the record is prepared, the executor takes the values of a new run (R47), and step 0, a SPIN
step, places the slot on the admission pending list. -/
def startRun (i : Fin 16) (plan profile : Fin 4) (s : State) : State :=
  let repeats := ((s.planAt plan).map Plan.repeats).getD 0
  let s := s.modSlot i fun x => { x with
    plan := some plan, profile := some profile, identity := none, outcome := none, reason := .none, grade := none
    lotNumber := none, acc := Accum.zero, retests := 0, powered := false, spun := false
    exec := { Executor.reset with counters := List.replicate repeats 0 }
    op := { x.op.closed with stage := 0, returnTo := none, interrupted := none, offTimer := none } }
  awaitPower i s

/-- SLOT ABORT accepted (R15): DONE with ABORTED, the demerit and graded time absent, out of the lot-wait list. -/
def abortRun (i : Fin 16) (s : State) : State :=
  endRun i (fun x => { x with state := .done, outcome := some .aborted, reason := .none, grade := none }) (leaveLotList i s)

end Sys2Proof.Machine
end

