-- ==== Sys2Proof/Machine/Zones.lean ====
section
/-! DEFINITION. The zone controllers: settings (R111, R112), ZONE SET RUN, STOP and CLEAR (R113 to R115), the control period
(R116 to R123), the fault (R124) and the exposure credit (R125); and the start of a sensor read (R116). -/

namespace Sys2Proof.Machine

/-! ### Settings and working values -/

/-- The settings of a ZONE SET as sent, clamped and brought to the values held (R111, R112 check 3). -/
def ZoneSettings.taken (setpoint rate band margin kp kf fanMin : Nat) : ZoneSettings :=
  { setpoint := 4 * clamp 25 85 setpoint
    rate := 4 * clamp 1 20 rate
    band := 4 * clamp 1 5 band
    margin := 4 * clamp 2 15 margin
    kp := clamp 1 25 kp
    kf := clamp 1 25 kf
    fanMin := clamp 20 100 fanMin }

/-- The target: floor(target_fine / 60) in RAMP, the setpoint in SOAK, absent elsewhere (R111). -/
def Zone.target (z : Zone) : Option Int :=
  match z.state with
  | .ramp => some (z.fine.fdiv 60)
  | .soak => some z.set.setpoint
  | .off | .cool | .fault => none

/-- The heater of a zone is off: demand, duty and commitment are 0 (R113, R114, R122, R124), and with no demand the allowance is 0
(R33, R34; log entry 29). -/
def Zone.heaterOff (z : Zone) : Zone := { z with demand := 0, applied := 0, commit := 0, allowance := 0 }

/-- A zone changes and nothing else does. -/
def State.modZone (s : State) (z : Fin 4) (f : Zone → Zone) : State := s.setZone z (f (s.zone z))

/-! ### ZONE SET -/

/-- RUN carried out on a zone whose temperature is t (R113). -/
def Zone.run (t : Int) (z : Zone) : Zone :=
  { z.heaterOff with fine := t * 60, state := .ramp, inBand := false, noticed := false }

/-- STOP carried out on a zone (R114). -/
def Zone.stop (z : Zone) : Zone := { z.heaterOff with state := .cool, inBand := false, fan := 100 }

/-- CLEAR carried out on a zone (R115). -/
def Zone.cleared (z : Zone) : Zone := { z with state := .off, reason := .none, fan := z.set.fanMin }

/-- ZONE SET RUN (R113), settings clamped: refused in FAULT and with T absent (none); else the settings are stored, the ramp
starts, and a commitment that fell triggers an admission evaluation (R31). -/
def runZone (z : Fin 4) (set : ZoneSettings) (s : State) : Option State :=
  match (s.zone z).state, (s.zone z).temp with
  | .fault, _ => none
  | _, none => none
  | _, some t => some (admitIfChanged s.commits (s.modZone z fun x => Zone.run t { x with set := set }))

/-- ZONE SET STOP (R114), settings clamped: refused in FAULT; a zone already in COOL changes only its settings, R35's recompute
left out (DESIGN CHOICE, log entry 34); any other zone cools, and the allowances are computed anew (R35). -/
def stopZone (z : Fin 4) (set : ZoneSettings) (s : State) : Option State :=
  match (s.zone z).state with
  | .fault => none
  | .cool => some (s.modZone z fun x => { x with set := set })
  | _ => some (admitIfChanged s.commits (recomputeZones (s.modZone z fun x => Zone.stop { x with set := set })))

/-- The slots of a zone that is no longer in FAULT and that are not held resume, in number order (R17, R58, R115). -/
def liftZone (z : Fin 4) (s : State) : State := (zoneSlots z).foldl (fun t i => pauseLifts i t) s

/-- The two conditions of CLEAR in FAULT: the last read was good, and T is below the limit of the settings sent (R115). -/
def Zone.mayClear (set : ZoneSettings) (z : Zone) : Bool :=
  decide (z.miss = 0) && z.temp.any fun t => decide (t < set.limit)

/-- ZONE SET CLEAR (R115), settings clamped: accepted in FAULT alone, under its two conditions. -/
def clearZone (z : Fin 4) (set : ZoneSettings) (s : State) : Option State :=
  match (s.zone z).state with
  | .fault =>
    if (s.zone z).mayClear set then some (unmet (liftZone z) (s.modZone z fun x => Zone.cleared { x with set := set })) else none
  | _ => none

/-! ### The sensor read -/

/-- The bus carries one read at a time, of the zones in turn (R116): with the bus free the next zone's read begins. -/
def startRead (s : State) : State :=
  match s.bus.reading with
  | some _ => s
  | none => { s with bus := { reading := some s.bus.turn, turn := s.bus.turn + 1 } }

/-- A zone's read has ended: the bus is free if it carried it (R116). -/
def endRead (z : Fin 4) (s : State) : State :=
  if s.bus.reading = some z then { s with bus := { s.bus with reading := none } } else s

/-! ### The fault (R124) -/

/-- The zone record in FAULT (R124 steps 1 to 4). -/
def Zone.faulted (reason : ZoneReason) (z : Zone) : Zone :=
  { z.heaterOff with state := .fault, reason := reason, inBand := false, fan := 100 }

/-- A zone enters FAULT (R124): record, recompute with one admission evaluation where a commitment changed (R35), the pause of
its four slots with its voided bands (R17, R106), the notice. -/
def faultZone (z : Fin 4) (reason : ZoneReason) (s : State) : State :=
  let prior := (s.zone z).state
  let s := admitIfChanged s.commits (recomputeZones (s.modZone z (Zone.faulted reason)))
  let s := (zoneSlots z).foldl (fun t i => voidRunning i t) s
  raise z.val (.zoneFault reason (s.zone z).temp prior) s

/-! ### The period in OFF, RAMP, SOAK and COOL -/

/-- One period's move of target_fine toward 60 times the setpoint by the ramp rate (R119). -/
def moveFine (goal : Int) (rate : Nat) (fine : Int) : Int :=
  if fine < goal then min (fine + rate) goal else max (fine - rate) goal

/-- The target moves; on reaching 60 times the setpoint a RAMP zone is in SOAK (R119). -/
def Zone.ramped (z : Zone) : Zone :=
  if z.state = .ramp then
    let fine := moveFine ((z.set.setpoint : Int) * 60) z.set.rate z.fine
    if fine = (z.set.setpoint : Int) * 60 then { z with fine := fine, state := .soak, noticed := false }
    else { z with fine := fine }
  else z

/-- T lies within the band of the setpoint (R120). -/
def Zone.withinBand (z : Zone) : Bool := z.temp.any fun t => decide ((t - (z.set.setpoint : Int)).natAbs ≤ z.set.band)

/-- in_band by R120. -/
def Zone.banded (z : Zone) : Zone := { z with inBand := decide (z.state = .soak) && z.withinBand }

/-- The error e = target - T (R121). -/
def Zone.error (z : Zone) : Int := (z.target.getD 0) - (z.temp.getD 0)

/-- Demand and fan duty from the error (R121). -/
def Zone.driven (z : Zone) : Zone :=
  { z with
    demand := (max 0 (min 100 (z.error * z.set.kp))).toNat
    fan := (max (z.set.fanMin : Int) (min 100 (-z.error * z.set.kf))).toNat }

/-- The first in-band period of a SOAK raises ZONE_IN_BAND (R120). -/
def bandNotice (z : Fin 4) (s : State) : State :=
  let x := s.zone z
  if x.inBand && !x.noticed then
    raise z.val (.zoneInBand (x.temp.getD 0) x.set.setpoint) (s.modZone z fun y => { y with noticed := true })
  else s

/-- The dwell progress that ends a DWELL step (R56). -/
def State.dwellGoal (s : State) (i : Fin 16) : Option Nat :=
  match s.stepAt i with
  | some (.dwell m) => some (m * 60)
  | _ => none

/-- The slot gains a second's credit: in ACTIVE with held no (R125). -/
def Slot.credited (x : Slot) : Bool := decide (x.state = .active) && !x.held

/-- One exposure second to one slot, and to its DWELL, whose end is part of the period (R125). Where a pause meets
the period the step after the DWELL waits in WAITING (R62). -/
def credit (i : Fin 16) (s : State) : State :=
  if (s.slot i).credited then
    let s := s.modAcc i fun a => { a with exposure := sat32 a.exposure 1 }
    match s.dwellGoal i with
    | some goal =>
      if (s.slot i).exec.phase = .working then
        let s := s.modExec i fun x => { x with dwell := x.dwell + 1 }
        if goal ≤ (s.slot i).exec.dwell then dwellEnds i s else s
      else s
    | none => s
  else s

/-- The credits of a period (R125). -/
def creditZone (z : Fin 4) (s : State) : State :=
  if (s.zone z).inBand then (zoneSlots z).foldl (fun t i => credit i t) s else s

/-- A period in RAMP or SOAK (R119 to R121, R123, R125). -/
def heatedPeriod (z : Fin 4) (s : State) : State :=
  let s := bandNotice z (s.modZone z fun x => x.ramped.banded)
  let before := s.commits
  creditZone z (admitIfChanged before (allowZone z (s.modZone z Zone.driven)))

/-- A zone in COOL ends its cooling at 35 °C or below (R122). -/
def Zone.coolEnds (z : Zone) : Bool := z.temp.any fun t => decide (t ≤ Config.coolEnd)

/-- A period in OFF or COOL (R122). -/
def Zone.idlePeriod (z : Zone) : Zone :=
  match z.state with
  | .cool => if z.coolEnds then { z.heaterOff with state := .off, fan := z.set.fanMin } else { z.heaterOff with fan := 100 }
  | _ => { z.heaterOff with fan := z.set.fanMin }

/-- The control period of a zone, taken when its read ends (R116 to R125). -/
def zonePeriod (z : Fin 4) (read : SensorRead) (s : State) : State :=
  let s := (endRead z s).modZone z (Zone.readTaken (goodRead read))
  match (s.zone z).finds (goodRead read) with
  | some reason => faultZone z reason s
  | none =>
    match (s.zone z).state with
    | .fault => s
    | .off | .cool =>
      let before := s.commits
      admitIfChanged before (allowZone z (s.modZone z Zone.idlePeriod))
    | .ramp | .soak => heatedPeriod z s

end Sys2Proof.Machine
end

