-- ==== Sys2Proof/Machine/Reports.lean ====
section
/-! DEFINITION. The layouts of what the part sends: notices (R187), the SLOT REPORT, TRAY STATUS, LOT STATUS and LOT TAKE replies
(R189), the zone record (R185), the profile (R188), the plan header and steps as taken (R186). -/

namespace Sys2Proof.Machine

/-- A one-byte unsigned field (R180). -/
def byte (n : Nat) : List Byte := le 1 n

/-- An optional one-byte code or number, 0xFF while absent (R181). -/
def codeOr (f : α → Byte) : Option α → List Byte
  | none => [absentCode]
  | some x => [f x]

/-- A serial field of 20 bytes (R181). -/
def serialField (x : List Byte) : List Byte := padTo 20 x

/-- A serial behind its presence mark (R181). -/
def markedSerial : Option (List Byte) → List Byte
  | none => 0#8 :: serialField []
  | some x => 1#8 :: serialField x

/-- A plan name: its length and 16 bytes, those beyond the length 0 (R181). -/
def nameField (x : List Byte) : List Byte := byte x.length ++ padTo 16 x

/-! ### Notices (R187) -/

/-- The detail of a notice, before it is filled up to 22 bytes. -/
def Detail.bytes : Detail → List Byte
  | .slotSeated => []
  | .slotRemoved prior serial => [prior.code] ++ markedSerial serial
  | .slotGraded outcome reason d retests gate =>
    [outcome.code, reason.code] ++ marked 4 d ++ byte retests ++ [gateCode gate]
  | .slotFaulted reason serial => [reason.code] ++ markedSerial serial
  | .escalation stage op cause index expiries =>
    [stage.code, op.code, cause.code] ++ byte index ++ le 4 expiries
  | .zoneFault reason temp prior => [reason.code] ++ markedInt 2 temp ++ [prior.code]
  | .zoneInBand temp setpoint => leInt 2 temp ++ le 2 setpoint
  | .lotClosed p b members cause => byte p.val ++ [b.code] ++ byte members ++ [cause.code]
  | .lotWait p b lot position => byte p.val ++ [b.code] ++ le 2 lot ++ byte position

/-- The first 30 bytes of a POLL reply for an entry (R187). -/
def Notice.bytes (n : Notice) : List Byte :=
  [n.detail.code] ++ le 2 n.subject ++ byte n.count ++ le 4 n.time ++ padTo 22 n.detail.bytes

/-- The first 30 bytes of a POLL reply with the queue empty: kind NONE, the rest 0 (R187). -/
def noNotice : List Byte := List.replicate 30 0#8

/-! ### Status and slot report (R189) -/

/-- A zone's five bytes in TRAY STATUS. -/
def Zone.summary (z : Zone) : List Byte := [z.state.code, z.reason.code] ++ markedInt 2 z.temp

/-- The 79 bytes of TRAY STATUS (R175, R189). -/
def State.trayStatus (s : State) : List Byte :=
  byte s.line.address ++ [s.line.rate.code] ++ le 4 s.line.time ++ [s.trayFlags] ++ byte s.line.notices.length
    ++ le 2 s.power.budget ++ byte s.power.limit ++ (quadIds.flatMap fun z => le 2 (s.power.cost.get z))
    ++ le 2 s.committed ++ byte s.spinCount ++ byte s.power.reservation
    ++ (quadIds.flatMap fun z => (s.zone z).summary)
    ++ (slotIds.flatMap fun i => [(s.slot i).state.code, (s.lampOf i).code])
    ++ byte s.pool.free ++ byte s.pool.waiting.length ++ byte s.lots.manifest.length ++ byte s.lots.waiting.length

/-- Bits of byte 2 of a slot report (R189). -/
def State.slotBits (s : State) (i : Fin 16) : Byte :=
  let x := s.slot i
  BitVec.ofNat 8 (x.seated.toNat + 2 * x.linkUp.toNat + 4 * x.held.toNat + 8 * (s.zoneHold i).toNat + 16 * x.powered.toNat
    + 32 * x.spun.toNat)

/-- Identity mark, serial, capacity, sector size and reallocated count at start. -/
def identityField : Option Identity → List Byte
  | none => 0#8 :: List.replicate 32 0#8
  | some x => 1#8 :: (serialField x.serial ++ le 6 x.capacity ++ le 2 x.sectorSize ++ le 4 x.reallocStart)

/-- Demerit mark, demerit and graded time. -/
def gradeField : Option Grade → List Byte
  | none => 0#8 :: List.replicate 8 0#8
  | some g => 1#8 :: (le 4 g.demerit ++ le 4 g.time)

/-- The accumulators' part of a slot report, offsets 56 to 109. -/
def Accum.bytes (a : Accum) : List Byte :=
  le 4 a.u ++ le 4 a.k ++ le 4 a.m ++ le 4 a.w ++ le 4 a.e ++ le 4 a.l ++ le 8 a.s ++ le 8 a.c
    ++ marked 4 a.reallocEnd ++ marked 4 a.worstBand ++ le 4 a.exposure

/-- The executor's, operation unit's and engine's part of a slot report, offsets 124 to 150. -/
def Slot.workBytes (x : Slot) (waiting : Bool) : List Byte :=
  [x.exec.phase.code] ++ byte x.exec.index ++ byte x.exec.pass ++ le 4 x.exec.dwell
    ++ [x.op.tag] ++ codeOr Op.code x.op.outstanding ++ byte x.op.stage ++ codeOr Op.code x.op.interrupted
    ++ [x.sweep.kindCode] ++ le 6 x.sweep.reportIndex ++ le 6 x.sweep.remaining ++ byte x.sweep.hand.length
    ++ yesNo waiting ++ byte x.sweep.redo.length

/-- The fields of SLOT REPORT (R176, R189). -/
def State.slotReport (s : State) (i : Fin 16) : List Byte :=
  let x := s.slot i
  byte i.val ++ [x.state.code, s.slotBits i, (s.lampOf i).code] ++ codeOr (fun p : Fin 4 => BitVec.ofNat 8 p.val) x.plan
    ++ nameField (((s.planOf i).map Plan.name).getD []) ++ codeOr (fun p : Fin 4 => BitVec.ofNat 8 p.val) x.profile
    ++ identityField x.identity ++ x.acc.bytes ++ byte x.retests ++ codeOr Verdict.code x.outcome ++ [x.reason.code]
    ++ gradeField x.grade ++ le 2 (x.lotNumber.getD 0) ++ x.workBytes (s.pool.waiting.contains i)
    ++ byte x.exec.counters.length ++ x.exec.counters.flatMap byte

/-! ### Lots (R189) -/

/-- The three states of a lot held (R184, R185). -/
inductive LotState where
  | opened | full | closed
  deriving DecidableEq, Repr

def LotState.code : LotState → Byte
  | .opened => 0#8 | .full => 1#8 | .closed => 2#8

/-- DISCARDED, in the LOT EXCLUDE reply only (R184). -/
def discardedCode : Byte := 3#8

/-- A 9-byte summary of LOT STATUS (R189). -/
def Lot.summary (x : Lot) (state : LotState) : List Byte :=
  le 2 x.number ++ byte (x.profile.val + 4 * x.bin.code.toNat + 16 * state.code.toNat) ++ byte x.members.length
    ++ byte x.capacity ++ le 4 x.opened

/-- The OPEN lots in order of profile and, within a profile, of bin (R152). -/
def LotBuilder.opensInOrder (l : LotBuilder) : List Lot :=
  quadIds.flatMap fun p => [Bin.A, .B, .C, .D].flatMap fun b => l.opens.filter (Lot.hasKey p b)

/-- The fields of LOT STATUS (R152, R189). -/
def LotBuilder.status (l : LotBuilder) : List Byte :=
  byte (l.manifest.length + l.full.length + l.opensInOrder.length)
    ++ (l.manifest.flatMap fun x => x.summary .closed) ++ (l.full.flatMap fun x => x.summary .full)
    ++ (l.opensInOrder.flatMap fun x => x.summary .opened) ++ byte l.waiting.length ++ le 2 l.next

/-- A member entry of 29 bytes (R189). -/
def Member.bytes (m : Member) : List Byte := serialField m.serial ++ byte m.slot.val ++ le 4 m.demerit ++ le 4 m.time

/-- The fields of LOT TAKE for a manifest lot, from a first member on, at most 8 (R153, R189). -/
def Lot.takeBytes (x : Lot) (first : Nat) : List Byte :=
  le 2 x.number ++ byte x.profile.val ++ [x.bin.code] ++ byte x.capacity ++ [LotState.closed.code] ++ le 4 x.opened
    ++ le 4 (x.closed.getD 0) ++ byte x.members.length
    ++ ((x.members.drop first).take Config.membersPerReply).flatMap Member.bytes

/-! ### Settings as taken -/

/-- The 11 bytes of BUDGET SET in force (R36, R185). -/
def Power.inForce (p : Power) : List Byte := le 2 p.budget ++ byte p.limit ++ quadIds.flatMap fun z => le 2 (p.cost.get z)

/-- The zone record of the ZONE SET reply (R185). -/
def Zone.record (number : Fin 4) (z : Zone) : List Byte :=
  byte number.val ++ [z.state.code, z.reason.code] ++ markedInt 2 z.temp ++ byte z.miss ++ leInt 4 z.fine
    ++ markedInt 2 z.target ++ yesNo z.inBand ++ yesNo z.noticed ++ byte z.demand ++ byte z.applied ++ byte z.fan
    ++ le 2 z.commit ++ byte (z.set.setpoint / 4) ++ byte (z.set.rate / 4) ++ byte (z.set.band / 4) ++ byte (z.set.margin / 4)
    ++ byte z.set.kp ++ byte z.set.kf ++ byte z.set.fanMin

/-- A bin entry of 9 bytes (R188). -/
def binField : Option BinEntry → List Byte
  | none => List.replicate 9 0#8
  | some x => 1#8 :: (le 4 x.dmax ++ le 2 x.umax ++ le 2 x.wmax)

/-- The 52 bytes of a profile (R188). -/
def Profile.bytes (id : Fin 4) (f : Profile) : List Byte :=
  byte id.val ++ [f.weights.u, f.weights.k, f.weights.m, f.weights.w, f.weights.r, f.weights.p, f.weights.e, f.weights.l,
    f.weights.s].flatMap byte ++ le 4 f.nominalRate ++ byte f.lotCapacity ++ byte f.retestLimit
    ++ binField f.binA ++ binField f.binB ++ binField f.binC ++ binField f.binD

/-- The 35 bytes of a plan header (R186). -/
def Plan.headerBytes (p : Plan) : List Byte :=
  nameField p.name ++ byte p.spinCost ++ byte p.runCost ++ byte p.offTime ++ le 2 p.exposure ++ byte p.spinTimeout
    ++ le 2 p.identTimeout ++ le 2 p.healthTimeout ++ le 2 p.writeTimeout ++ le 2 p.readTimeout ++ le 2 p.seekTimeout
    ++ le 2 p.standbyTimeout

/-- Offsets 1 to 15 of a WRITE SWEEP or READ SWEEP entry (R186). -/
def SweepFields.bytes (f : SweepFields) (verify : Bool) : List Byte :=
  le 2 f.start ++ le 2 f.stop ++ byte f.chunk ++ [f.direction.code, f.pacing.code] ++ le 2 f.interval ++ [f.pattern.code]
    ++ yesNo f.continuous ++ yesNo verify ++ le 3 f.timeLimit

/-- Offsets 1 to 13 of a SEEK SWEEP entry (R186). -/
def SeekFields.bytes (f : SeekFields) : List Byte :=
  le 2 f.start ++ le 2 f.stop ++ le 4 f.count ++ le 2 f.limit ++ [f.pacing.code] ++ le 2 f.interval

/-- A 16-byte step entry (R184, R186); bytes a kind does not use are 0 (R181). -/
def Step.bytes (st : Step) : List Byte :=
  padTo 16 <| match st with
  | .spin => [1#8]
  | .ident => [2#8]
  | .health => [3#8]
  | .writeSweep f => 4#8 :: f.bytes false
  | .readSweep f verify => 5#8 :: f.bytes verify
  | .seekSweep f => 6#8 :: f.bytes
  | .dwell minutes => 7#8 :: le 2 minutes
  | .standby => [8#8]
  | .repeatTo target count => 9#8 :: (byte target ++ byte count)

end Sys2Proof.Machine
end

