-- ==== Sys2Proof/Machine/Loading.lean ====
section
/-! DEFINITION. Results and replies (R169, R183), and the loading of plans (R42 to R46) and profiles (R130, R131). -/

namespace Sys2Proof.Machine

/-! ### Replies -/

/-- The results of a request (R169); BAD_ARGUMENT carries the failing index. -/
inductive Result where
  | ok | malformed | badState | badArgument (index : Nat) | inUse | notFound | belowCommitted
  deriving DecidableEq, Repr

/-- Result codes (R183). -/
def Result.code : Result → Byte
  | .ok => 0#8 | .malformed => 1#8 | .badState => 2#8 | .badArgument _ => 3#8 | .inUse => 4#8 | .notFound => 5#8
  | .belowCommitted => 6#8

/-- A reply: its result and the fields after it. -/
structure Reply where
  result : Result
  fields : List Byte
  deriving DecidableEq, Repr

/-- A refusal with the fields of R183: the failing index for BAD_ARGUMENT, none otherwise. -/
def Reply.refuse (r : Result) : Reply :=
  { result := r
    fields := match r with
      | .badArgument index => byte index
      | _ => [] }

/-- An OK reply. -/
def Reply.ok (fields : List Byte) : Reply := { result := .ok, fields := fields }

/-- A request refused: the state is as it was (R169). -/
def refused (s : State) (r : Result) : State × Reply := (s, Reply.refuse r)

/-! ### Plan parts -/

/-- The fields WRITE SWEEP and READ SWEEP share, as sent, clamped by R44; none where a named field holds no code of R184. -/
def sweepFields? (e : List Byte) : Option SweepFields :=
  match Direction.ofNat? (fieldAt e 6 1), Pacing.ofNat? (fieldAt e 7 1), Pattern.ofNat? (fieldAt e 10 1),
      yesNo? (fieldAt e 11 1) with
  | some direction, some pacing, some pattern, some continuous =>
    some
      { start := clamp 0 1000 (fieldAt e 1 2)
        stop := clamp 0 1000 (fieldAt e 3 2)
        chunk := clamp 1 128 (fieldAt e 5 1)
        direction := direction
        pacing := pacing
        interval := clamp 1 1000 (fieldAt e 8 2)
        pattern := pattern
        continuous := continuous
        timeLimit := clamp 0 604800 (fieldAt e 13 3) }
  | _, _, _, _ => none

/-- The fields of SEEK SWEEP, clamped by R44. -/
def seekFields? (e : List Byte) : Option SeekFields :=
  (Pacing.ofNat? (fieldAt e 11 1)).map fun pacing =>
    { start := clamp 0 1000 (fieldAt e 1 2)
      stop := clamp 0 1000 (fieldAt e 3 2)
      count := clamp 1 1000000 (fieldAt e 5 4)
      limit := clamp 1 1000 (fieldAt e 9 2)
      pacing := pacing
      interval := clamp 1 1000 (fieldAt e 12 2) }

/-- A 16-byte step entry as taken: the kind's fields clamped by R44 (R43 checks 5 and 6, R186). -/
def step? (e : List Byte) : Option Step :=
  match fieldAt e 0 1 with
  | 1 => some .spin
  | 2 => some .ident
  | 3 => some .health
  | 4 => (sweepFields? e).map .writeSweep
  | 5 => (sweepFields? e).bind fun f => (yesNo? (fieldAt e 12 1)).map fun verify => .readSweep f verify
  | 6 => (seekFields? e).map .seekSweep
  | 7 => some (.dwell (clamp 1 10080 (fieldAt e 1 2)))
  | 8 => some .standby
  | 9 => some (.repeatTo (fieldAt e 1 1) (clamp 1 255 (fieldAt e 2 1)))
  | _ => none

/-- The `n` step entries of a part whose first has the plan index `place`, or the plan index of the first that names no known
step or named value (R43 check 5). -/
def steps? : Nat → List Byte → Nat → Except Nat (List Step)
  | 0, _, _ => .ok []
  | n + 1, bytes, place =>
    match step? (bytes.take 16) with
    | none => .error place
    | some st => (steps? n (bytes.drop 16) (place + 1)).map (st :: ·)

/-- A timeout of 100 to 60,000 ms (R44). -/
def timeoutMs (n : Nat) : Nat := clamp 100 60000 n

/-- The header of a part as taken: name by R181, numbers clamped by R44. It holds no steps. -/
def header (h : List Byte) : Plan :=
  { name := ((h.drop 1).take 16).take (min 16 (fieldAt h 0 1))
    spinCost := clamp 1 200 (fieldAt h 17 1)
    runCost := min (clamp 1 100 (fieldAt h 18 1)) (clamp 1 200 (fieldAt h 17 1))
    offTime := clamp 2 60 (fieldAt h 19 1)
    exposure := clamp 0 10080 (fieldAt h 20 2)
    spinTimeout := clamp 1 120 (fieldAt h 22 1)
    identTimeout := timeoutMs (fieldAt h 23 2)
    healthTimeout := timeoutMs (fieldAt h 25 2)
    writeTimeout := timeoutMs (fieldAt h 27 2)
    readTimeout := timeoutMs (fieldAt h 29 2)
    seekTimeout := timeoutMs (fieldAt h 31 2)
    standbyTimeout := timeoutMs (fieldAt h 33 2)
    steps := [] }

/-- Bytes of a plan header (R186). -/
def headerBytes : Nat := 35

/-- A part of a plan as its lengths and last-part mark give it (R43 check 2). -/
structure Part where
  index : Nat
  last : Bool
  head : Option Plan
  count : Nat
  entries : List Byte
  deriving DecidableEq, Repr

/-- The number of step entries in so many bytes: at most 12, of 16 bytes each (R182). -/
def entryCount (bytes : Nat) : Option Nat :=
  if bytes % 16 = 0 ∧ bytes / 16 ≤ Config.partSteps then some (bytes / 16) else none

/-- R43 check 2, with the last-part mark of R182; none is MALFORMED. -/
def part? (fields : List Byte) : Option Part :=
  if fields.length < 3 then none
  else
    let index := fieldAt fields 1 1
    let rest := fields.drop 3
    (yesNo? (fieldAt fields 2 1)).bind fun last =>
      if index = 0 then
        if rest.length < headerBytes then none
        else (entryCount (rest.length - headerBytes)).map fun n =>
          { index := index, last := last, head := some (header (rest.take headerBytes)), count := n
            entries := rest.drop headerBytes }
      else (entryCount rest.length).map fun n => { index := index, last := last, head := none, count := n, entries := rest }

/-- The staging image with a part taken into it (R42). -/
def Part.staged (p : Part) (image : Option Plan) (steps : List Step) : Plan :=
  match p.head, image with
  | some h, _ => { h with steps := steps }
  | none, some x => { x with steps := x.steps ++ steps }
  | none, none => { Plan.blank with steps := steps }

/-- The step breaks a condition of R45, `before` being the steps at lower indexes. -/
def Step.breaks (before : List Step) (st : Step) : Bool :=
  (before.isEmpty && !decide (st = .spin)) ||
    match st with
    | .writeSweep f => !before.contains .ident || (f.endless && decide (f.timeLimit = 0))
    | .readSweep f _ => !before.contains .ident || (f.endless && decide (f.timeLimit = 0))
    | .seekSweep _ => !before.contains .ident
    | .repeatTo target _ => decide (before.length ≤ target)
    | .spin | .ident | .health | .dwell _ | .standby => false

/-- The index of the first step from `before` on that breaks a condition (R45). -/
def firstBroken : List Step → List Step → Option Nat
  | _, [] => none
  | before, st :: rest => if st.breaks before then some before.length else firstBroken (before ++ [st]) rest

/-- The index validation refuses an image with, or none (R45). -/
def Plan.invalid (p : Plan) : Option Nat := if p.steps.isEmpty then some 0 else firstBroken [] p.steps

/-- The plan is in use: a slot naming it is in a run or in LOT_WAIT (R46). -/
def State.planInUse (s : State) (p : Fin 4) : Bool :=
  slotIds.any fun i => decide ((s.slot i).plan = some p) && (s.slot i).state.inUse

def State.stagingAt (s : State) (p : Fin 4) : Option Plan := s.staging.get p

def State.setStaging (s : State) (p : Fin 4) (x : Option Plan) : State := { s with staging := s.staging.set p x }

def State.setPlan (s : State) (p : Fin 4) (x : Option Plan) : State := { s with plans := s.plans.set p x }

/-- The OK reply to a part: plan id, steps staged or installed, the part's header and steps as taken (R185). -/
def partReply (id : Fin 4) (image : Plan) (p : Part) (steps : List Step) : Reply :=
  Reply.ok (byte id.val ++ byte image.steps.length ++ (p.head.map Plan.headerBytes).getD [] ++ steps.flatMap Step.bytes)

/-- A part that has passed R43's checks is staged, and the last part validated and installed (R42, R45, R46). -/
def takePart (id : Fin 4) (p : Part) (steps : List Step) (s : State) : State × Reply :=
  let image := p.staged (s.stagingAt id) steps
  if p.last then
    match image.invalid with
    | some index => refused s (.badArgument index)
    | none =>
      if s.planInUse id then refused s .inUse
      else ((s.setPlan id (some image)).setStaging id none, partReply id image p steps)
  else (s.setStaging id (some image), partReply id image p steps)

/-- The number of steps staged for an id; 0 where there is no image. -/
def State.stagedCount (s : State) (p : Fin 4) : Nat := ((s.stagingAt p).map fun x => x.steps.length).getD 0

/-- PLAN LOAD: the checks of R43 in their order, a body without a plan id before them (R169). -/
def planLoad (fields : List Byte) (s : State) : State × Reply :=
  if fields.length < 1 then refused s .malformed
  else
    match quadNo? (fieldAt fields 0 1) with
    | none => refused s (.badArgument 255)
    | some id =>
      match part? fields with
      | none => refused s .malformed
      | some p =>
        if p.index ≠ 0 ∧ (s.stagingAt id = none ∨ s.stagedCount id ≠ p.index) then refused s .badState
        else if Config.planSteps < p.index + p.count then refused s (.badArgument 32)
        else
          match steps? p.count p.entries p.index with
          | .error index => refused s (.badArgument index)
          | .ok steps => takePart id p steps s

/-! ### Profiles -/

/-- A bin entry as taken, its presence mark being 0 or 1 (R130 checks 3 and 4). -/
def binEntry? (e : List Byte) : Option (Option BinEntry) :=
  (yesNo? (fieldAt e 0 1)).map fun present =>
    if present then
      some { dmax := clamp 0 8608800 (fieldAt e 1 4), umax := clamp 0 4095 (fieldAt e 5 2), wmax := clamp 0 4095 (fieldAt e 7 2) }
    else none

/-- The 52 bytes of a profile as taken, or the index of the first bin entry whose mark is neither yes nor no (R130, R188). -/
def profile? (f : List Byte) : Except Nat Profile :=
  match binEntry? (f.drop 16), binEntry? (f.drop 25), binEntry? (f.drop 34), binEntry? (f.drop 43) with
  | none, _, _, _ => .error 13
  | _, none, _, _ => .error 14
  | _, _, none, _ => .error 15
  | _, _, _, none => .error 16
  | some a, some b, some c, some d =>
    .ok
      { weights :=
          { u := fieldAt f 1 1, k := fieldAt f 2 1, m := fieldAt f 3 1, w := fieldAt f 4 1, r := fieldAt f 5 1
            p := fieldAt f 6 1, e := fieldAt f 7 1, l := fieldAt f 8 1, s := fieldAt f 9 1 }
        nominalRate := clamp 1 1000000 (fieldAt f 10 4)
        lotCapacity := clamp 1 48 (fieldAt f 14 1)
        retestLimit := clamp 0 3 (fieldAt f 15 1)
        binA := a, binB := b, binC := c, binD := d }

/-- Bytes of a profile (R188). -/
def profileBytes : Nat := 52

/-- A profile is in use: a slot naming it is in a run or in LOT_WAIT, or a lot of it is OPEN or FULL (R131). -/
def State.profileInUse (s : State) (p : Fin 4) : Bool :=
  (slotIds.any fun i => decide ((s.slot i).profile = some p) && (s.slot i).state.inUse)
    || (s.lots.opens ++ s.lots.full).any fun x => decide (x.profile = p)

def State.setProfile (s : State) (p : Fin 4) (x : Option Profile) : State := { s with profiles := s.profiles.set p x }

/-- PROFILE LOAD: the checks of R130 in their order, a body without a profile id before them (R169). -/
def profileLoad (fields : List Byte) (s : State) : State × Reply :=
  if fields.length < 1 then refused s .malformed
  else
    match quadNo? (fieldAt fields 0 1) with
    | none => refused s (.badArgument 0)
    | some id =>
      if fields.length ≠ profileBytes then refused s .malformed
      else
        match profile? fields with
        | .error index => refused s (.badArgument index)
        | .ok f =>
          if s.profileInUse id then refused s .inUse
          else (s.setProfile id (some f), Reply.ok (f.bytes id))

end Sys2Proof.Machine
end

