-- ==== Sys2Proof/Machine/Requests.lean ====
section
/-! DEFINITION. The handlers of the requests: from the field bytes after tag and kind, each gives the state after the request
and the reply's result and fields. A refused request leaves the state as it was (R169). -/

namespace Sys2Proof.Machine

/-! ### Length and slot checks -/

/-- The length check of R169 and R182: a body of another length than the kind's is refused with MALFORMED. -/
def withLength (n : Nat) (fields : List Byte) (s : State) (k : State × Reply) : State × Reply :=
  if fields.length = n then k else refused s .malformed

/-- A request whose one field is a slot number (R15, R16, R176): outside 0 to 15 BAD_ARGUMENT, index 0. -/
def withSlot (fields : List Byte) (s : State) (k : Fin 16 → State × Reply) : State × Reply :=
  withLength 1 fields s <|
    match slotNo? (fieldAt fields 0 1) with
    | none => refused s (.badArgument 0)
    | some i => k i

/-! ### Line requests -/

/-- POLL (R174, R187): the head entry leaves the queue as the reply is formed. -/
def pollAnswered (s : State) : State × Reply :=
  match s.line.notices with
  | [] => (s, Reply.ok (noNotice ++ byte 0 ++ [s.trayFlags]))
  | n :: rest =>
    (s.withLine { s.line with notices := rest }, Reply.ok (n.bytes ++ byte rest.length ++ [s.trayFlags]))

def poll (fields : List Byte) (s : State) : State × Reply := withLength 0 fields s (pollAnswered s)

/-- TRAY STATUS (R171, R175): the flags are returned as they stood and then cleared. -/
def trayStatus (fields : List Byte) (s : State) : State × Reply :=
  withLength 0 fields s
    (s.withLine { s.line with noticesLost := false, powerUp := false }, Reply.ok s.trayStatus)

/-- TRAY RESTART addressed to this tray (R177): accepted in every tray condition; the restart is due when the reply has been
sent. -/
def trayRestart (fields : List Byte) (s : State) : State × Reply :=
  withLength 0 fields s (s.withLine { s.line with restartDue := true }, Reply.ok [])

/-! ### Power and zones -/

/-- The fields of BUDGET SET clamped (R36, R185). -/
def budgetFields (f : List Byte) (p : Power) : Power :=
  { p with
    budget := clamp 0 2000 (fieldAt f 0 2)
    limit := clamp 1 8 (fieldAt f 2 1)
    cost := #v[clamp 10 400 (fieldAt f 3 2), clamp 10 400 (fieldAt f 5 2), clamp 10 400 (fieldAt f 7 2),
      clamp 10 400 (fieldAt f 9 2)] }

/-- BUDGET SET with clamped values (R37): refused below the drive commitments or the spin count, with the values in force;
else stored, the allowances recomputed, admission evaluated. -/
def budgetTaken (p : Power) (s : State) : State × Reply :=
  if p.budget < s.driveTotal ∨ p.limit < s.spinCount then
    (s, { result := .belowCommitted, fields := s.power.inForce })
  else (admission (recomputeZones (s.withPower p)), Reply.ok p.inForce)

def budgetSet (fields : List Byte) (s : State) : State × Reply :=
  withLength 11 fields s (budgetTaken (budgetFields fields s.power) s)

/-- ZONE SET actions (R184). -/
inductive ZoneAction where
  | run | stop | clear
  deriving DecidableEq, Repr

def ZoneAction.code : ZoneAction → Byte
  | .run => 0#8 | .stop => 1#8 | .clear => 2#8

def ZoneAction.ofNat? : Nat → Option ZoneAction
  | 0 => some .run | 1 => some .stop | 2 => some .clear | _ => none

/-- The seven settings of a ZONE SET as taken (R112, R185). -/
def zoneSettings (f : List Byte) : ZoneSettings :=
  ZoneSettings.taken (fieldAt f 2 1) (fieldAt f 3 1) (fieldAt f 4 1) (fieldAt f 5 1) (fieldAt f 6 1) (fieldAt f 7 1)
    (fieldAt f 8 1)

/-- A ZONE SET's action carried out, or none where the zone's state or T refuses it (R112 check 4). -/
def ZoneAction.act (a : ZoneAction) (z : Fin 4) (set : ZoneSettings) (s : State) : Option State :=
  match a with
  | .run => runZone z set s
  | .stop => stopZone z set s
  | .clear => clearZone z set s

/-- ZONE SET (R112): the checks in their order; the reply is the zone record after the action. -/
def zoneSet (fields : List Byte) (s : State) : State × Reply :=
  withLength 9 fields s <|
    match quadNo? (fieldAt fields 0 1) with
    | none => refused s (.badArgument 0)
    | some z =>
      match ZoneAction.ofNat? (fieldAt fields 1 1) with
      | none => refused s (.badArgument 1)
      | some a =>
        match a.act z (zoneSettings fields) s with
        | none => refused s .badState
        | some t => (t, Reply.ok ((t.zone z).record z))

/-! ### Slots -/

/-- The state and outcome in which SLOT START is accepted (R13 check 2). -/
def Slot.startable (x : Slot) : Bool :=
  decide (x.state = .seated)
    || (decide (x.state = .done) && (decide (x.outcome = some .reject) || decide (x.outcome = some .aborted)))

/-- SLOT START (R13, R14). -/
def slotStart (fields : List Byte) (s : State) : State × Reply :=
  withLength 3 fields s <|
    match slotNo? (fieldAt fields 0 1), quadNo? (fieldAt fields 1 1), quadNo? (fieldAt fields 2 1) with
    | none, _, _ => refused s (.badArgument 0)
    | _, none, _ => refused s (.badArgument 1)
    | _, _, none => refused s (.badArgument 2)
    | some i, some p, some f =>
      if !(s.slot i).startable then refused s .badState
      else if !(s.slot i).linkUp then refused s .badState
      else if (s.planAt p).isNone || (s.profileAt f).isNone then refused s .notFound
      else (startRun i p f s, Reply.ok [])

/-- SLOT HOLD (R16). -/
def slotHold (fields : List Byte) (s : State) : State × Reply := withSlot fields s fun i => (hold i s, Reply.ok [])

/-- SLOT RELEASE (R16). -/
def slotRelease (fields : List Byte) (s : State) : State × Reply :=
  withSlot fields s fun i => (releaseHold i s, Reply.ok [])

/-- SLOT ABORT (R15). -/
def slotAbort (fields : List Byte) (s : State) : State × Reply :=
  withSlot fields s fun i =>
    if (s.slot i).state.inUse then (abortRun i s, Reply.ok []) else refused s .badState

/-- SLOT REPORT (R176). -/
def slotReport (fields : List Byte) (s : State) : State × Reply :=
  withSlot fields s fun i => (s, Reply.ok (s.slotReport i))

/-! ### Lots -/

/-- LOT STATUS (R152). -/
def lotStatus (fields : List Byte) (s : State) : State × Reply := withLength 0 fields s (s, Reply.ok s.lots.status)

/-- The head lot leaves the manifest and the drain follows (R154). -/
def takeHead (s : State) : State := drain (s.withLots { s.lots with manifest := s.lots.manifest.drop 1 })

/-- LOT TAKE (R153, R154): the checks in their order; the reply's content is formed before the lot is removed. -/
def lotTake (fields : List Byte) (s : State) : State × Reply :=
  withLength 4 fields s <|
    let number := fieldAt fields 0 2
    let first := fieldAt fields 2 1
    match yesNo? (fieldAt fields 3 1), s.lots.manifest with
    | none, _ => refused s (.badArgument 2)
    | some _, [] => refused s .notFound
    | some take, x :: _ =>
      if number ≠ 0 ∧ number ≠ x.number then refused s .notFound
      else if take = true ∧ number = 0 then refused s (.badArgument 0)
      else if x.members.length < first then refused s (.badArgument 1)
      else (if take then takeHead s else s, Reply.ok (x.takeBytes first))

/-- The state a lot stands in after a request: OPEN, FULL, CLOSED, or none where it is not held. -/
def LotBuilder.stateOf (l : LotBuilder) (number : Nat) : Option LotState :=
  if l.opens.any fun x => decide (x.number = number) then some .opened
  else if l.full.any fun x => decide (x.number = number) then some .full
  else if l.manifest.any fun x => decide (x.number = number) then some .closed
  else none

/-- LOT CLOSE (R155). -/
def lotClose (fields : List Byte) (s : State) : State × Reply :=
  withLength 2 fields s <|
    match quadNo? (fieldAt fields 0 1), Bin.ofNat? (fieldAt fields 1 1) with
    | none, _ => refused s (.badArgument 0)
    | some _, none => refused s (.badArgument 1)
    | some p, some b =>
      match s.lots.openLot p b, s.lots.fullLot p b with
      | none, none => refused s .notFound
      | _, some _ => refused s .badState
      | some x, none =>
        let state := if s.lots.manifest.length < Config.manifestLots then LotState.closed else .full
        (closeLot x .close s, Reply.ok (le 2 x.number ++ [state.code]))

/-- Removes the first member with a serial; the later members keep their order (R156). -/
def dropMember (serial : List Byte) : List Member → List Member
  | [] => []
  | m :: rest => if m.serial = serial then rest else m :: dropMember serial rest

/-- The slot that holds an excluded drive (R157). -/
def State.excludedSlot (s : State) (serial : List Byte) (number : Nat) : Option (Fin 16) :=
  slotIds.find? fun i => decide ((s.slot i).state = .done) && decide ((s.slot i).identity.map Identity.serial = some serial)
    && decide ((s.slot i).lotNumber = some number)

/-- The slot of an excluded drive turns to REJECT (R157, R5). -/
def excludeSlot (i : Option (Fin 16)) (s : State) : State :=
  match i with
  | none => s
  | some i => s.modSlot i fun x => { x with outcome := some .reject, reason := .demerit, lotNumber := none }

/-- An OPEN lot left with no members is discarded (R156). -/
def discardEmpty (number : Nat) (s : State) : State :=
  s.withLots { s.lots with opens := s.lots.opens.filter fun x => decide (x.number ≠ number) || !x.members.isEmpty }

/-- The exclusion of a serial found in a lot that is OPEN or FULL (R156, R157): the member leaves; a FULL lot becomes OPEN and
is refilled; an OPEN lot left empty is discarded; the slot still holding the drive turns to REJECT. -/
def exclude (serial : List Byte) (x : Lot) (full : Bool) (s : State) : State × Reply :=
  let y := { x with members := dropMember serial x.members }
  let slot := s.excludedSlot serial x.number
  let s := excludeSlot slot s
  let before := s.lots.waiting.length
  let s :=
    if full then
      let l := { s.lots with full := s.lots.full.filter fun z => decide (z.number ≠ x.number), opens := s.lots.opens ++ [y] }
      refill x.profile x.bin x.number s.lots.waiting (s.withLots l)
    else s.withLots (s.lots.putOpen y)
  let joined := before - s.lots.waiting.length
  let s := discardEmpty x.number s
  (s, Reply.ok (le 2 x.number ++ [((s.lots.stateOf x.number).map LotState.code).getD discardedCode] ++ byte joined
    ++ codeOr (fun i : Fin 16 => BitVec.ofNat 8 i.val) slot))

/-- LOT EXCLUDE (R156). -/
def lotExclude (serial : List Byte) (s : State) : State × Reply :=
  withLength 20 serial s <|
    match s.lots.opens.find? (Lot.holds serial), s.lots.full.find? (Lot.holds serial) with
    | some x, _ => exclude serial x false s
    | none, some x => exclude serial x true s
    | none, none => refused s (if s.lots.manifest.any (Lot.holds serial) then .badState else .notFound)

end Sys2Proof.Machine
end

