-- ==== Sys2Proof/Machine/Reset.lean ====
section
/-! DEFINITION. TRAY RESTART at every block (R21, R40, R63, R86, R110, R128, R145, R161, R177) and power-on reset (R20, R39, R63,
R86, R110, R127, R145, R161, R162, R179). -/

namespace Sys2Proof.Machine

/-- A slot after TRAY RESTART (R21, R63, R86, R110): the power-on values, but for seated, the seat window, the link watch and the
operation tag, which are kept (with the raw input and what was last sent on the channel). -/
def Slot.restarted (x : Slot) : Slot :=
  { Slot.reset with
    state := if x.seated then .seated else .empty
    seated := x.seated, raw := x.raw, window := x.window, linkUp := x.linkUp, silence := x.silence
    op := { OpUnit.reset with tag := x.op.tag, issuedAt := x.op.issuedAt, sent := x.op.sent, sentData := x.op.sentData } }

/-- A zone after TRAY RESTART (R128, R40): OFF, the settings, T, miss count and target_fine kept. -/
def Zone.restarted (z : Zone) : Zone :=
  { z.heaterOff with
    state := .off, reason := .none, inBand := false, noticed := false, fan := z.set.fanMin }

/-- The line interface after TRAY RESTART (R177): the notice queue and the framer are emptied, NOTICES_LOST is cleared, the rest
is kept. -/
def Line.restarted (l : Line) : Line := { l with held := [], notices := [], noticesLost := false, restartDue := false }

/-- TRAY RESTART is taken by every block, as one event (R177). Plans, profiles, budget, costs, pointer, lots and the sensor bus
are kept. -/
def restart (s : State) : State :=
  { s with
    line := s.line.restarted
    power := { s.power with reservation := 0 }
    staging := Vector.replicate 4 none
    slots := s.slots.map Slot.restarted
    zones := s.zones.map Zone.restarted
    pool := { s.pool with free := Config.buffers, waiting := [] }
    work := []
    lots := { s.lots with waiting := [] } }

/-- The address latched from the five address straps: 0 is taken as 31 (R162). -/
def latchedAddress (a : BitVec 5) : Nat := if a = 0#5 then 31 else a.toNat

/-- The rate latched from the two rate straps (R162). -/
def latchedRate : RateStrap → Rate
  | .first => .r115200
  | .second => .r460800
  | .third => .r921600
  | .fourth => .r115200

/-- A slot right after power-on reset with its raw input as the pin stands: the window starts at once where it shows a drive
(R20). -/
def Slot.poweredOn (raw : Bool) : Slot :=
  { Slot.reset with raw := raw, window := if raw then some Config.seatWindowMs else none }

/-- Power-on reset with the straps as they stand (R20, R162). The commands that wait and the seat pins are outside the part. -/
def powerOn (address : BitVec 5) (rate : RateStrap) (s : State) : State :=
  { State.reset with
    pending := s.pending
    line := Line.reset (latchedAddress address) (latchedRate rate)
    slots := s.slots.map fun x => Slot.poweredOn x.raw }

end Sys2Proof.Machine
end

