-- ==== Sys2Proof/Machine/Line.lean ====
section
/-! DEFINITION. The line: CRC (R165), reply frames (R164, R168, R183), the taking of requests by kind and address (R167 to R170),
the receive framer (R163, R166) and the end of a reply (R163, R177). -/

namespace Sys2Proof.Machine

/-! ### CRC -/

/-- One bit of the CRC register: generator x^16 + x^12 + x^5 + 1 (R165). -/
def crcBit (c : BitVec 16) : BitVec 16 := if c.msb then (c <<< 1) ^^^ 0x1021#16 else c <<< 1

/-- One byte enters the register, most significant bit first (R165). -/
def crcByte (c : BitVec 16) (b : Byte) : BitVec 16 :=
  let c := c ^^^ (b ++ 0#8)
  crcBit (crcBit (crcBit (crcBit (crcBit (crcBit (crcBit (crcBit c)))))))

/-- The CRC over some bytes, from the initial value 65,535 (R165). -/
def crc (bytes : List Byte) : BitVec 16 := bytes.foldl crcByte 0xFFFF#16

/-- The CRC bytes as sent: high byte first (R165). -/
def crcBytes (bytes : List Byte) : List Byte := [(crc bytes).extractLsb' 8 8, (crc bytes).extractLsb' 0 8]

/-- A whole frame of an address byte and a body (R164, R183). -/
def frame (address : Byte) (body : List Byte) : List Byte :=
  let covered := [address] ++ byte body.length ++ body
  [Config.startByte] ++ covered ++ crcBytes covered

/-- The reply frame of a tray: address 128 + tray address, the request's tag, its kind as received, result and fields (R168). -/
def replyFrame (address : Nat) (tag kind : Byte) (r : Reply) : List Byte :=
  frame (BitVec.ofNat 8 (128 + address)) ([tag, kind, r.result.code] ++ r.fields)

/-! ### Taking a request -/

/-- The tray begins to reply: it drives the pair, and the framer drops what it holds (R166, R168). -/
def respond (tag kind : Byte) (p : State × Reply) : State :=
  p.1.withLine { p.1.line with held := [], driving := true, reply := replyFrame p.1.line.address tag kind p.2 }

/-- One request is taken whole: addressed to this tray it is answered; broadcast it is carried out without a reply, or discarded
where its only purpose is its reply (R167 to R170). The frame has ended, so the framer is in HUNT. -/
def taken (kind : Byte) (discards : Bool) (r : Req) (handler : List Byte → State → State × Reply) (s : State) : State :=
  if s.line.deaf then s
  else
    let s := s.withLine { s.line with held := [] }
    if r.broadcast then if discards then s else (handler r.fields s).1
    else respond r.tag kind (handler r.fields s)

/-- TRAY RESTART (R177): broadcast it is taken at once; addressed it is answered and then due. -/
def trayRestartHandler (broadcast : Bool) (fields : List Byte) (s : State) : State × Reply :=
  if broadcast then withLength 0 fields s (restart s, Reply.ok []) else trayRestart fields s

/-- LOT TAKE with take no is discarded when broadcast (R170). -/
def takesNothing (fields : List Byte) : Bool := decide (fields[3]? ≠ some 1#8)

/-- A body with an action byte at its second field (ZONE SET), where the fields leave it out. -/
def withAction (a : ZoneAction) (r : Req) : Req := { r with fields := r.fields.take 1 ++ [a.code] ++ r.fields.drop 1 }

/-- A body with a take mark at its end (LOT TAKE), where the fields leave it out. -/
def withTake (mark : Byte) (r : Req) : Req := { r with fields := r.fields ++ [mark] }

def pollTaken (r : Req) (s : State) : State := taken 0x01#8 true r poll s
def trayStatusTaken (r : Req) (s : State) : State := taken 0x02#8 true r trayStatus s
def trayRestartTaken (r : Req) (s : State) : State := taken 0x03#8 false r (trayRestartHandler r.broadcast) s
def planLoadTaken (r : Req) (s : State) : State := taken 0x10#8 false r planLoad s
def profileLoadTaken (r : Req) (s : State) : State := taken 0x11#8 false r profileLoad s
def budgetSetTaken (r : Req) (s : State) : State := taken 0x12#8 false r budgetSet s
def zoneSetTaken (r : Req) (s : State) : State := taken 0x13#8 false r zoneSet s
def slotStartTaken (r : Req) (s : State) : State := taken 0x20#8 false r slotStart s
def slotHoldTaken (r : Req) (s : State) : State := taken 0x21#8 false r slotHold s
def slotReleaseTaken (r : Req) (s : State) : State := taken 0x22#8 false r slotRelease s
def slotAbortTaken (r : Req) (s : State) : State := taken 0x23#8 false r slotAbort s
def slotReportTaken (r : Req) (s : State) : State := taken 0x24#8 true r slotReport s
def lotStatusTaken (r : Req) (s : State) : State := taken 0x30#8 true r lotStatus s
def lotTakeTaken (r : Req) (s : State) : State := taken 0x31#8 (takesNothing r.fields) r lotTake s
def lotCloseTaken (r : Req) (s : State) : State := taken 0x32#8 false r lotClose s
def lotExcludeTaken (r : Req) (s : State) : State := taken 0x33#8 false r lotExclude s

/-- A kind that names no request is refused with MALFORMED, the kind byte returned as received (R169, R182). -/
def unknownKind (_fields : List Byte) (s : State) : State × Reply := refused s .malformed

/-- A request is taken by its kind byte (R183). -/
def requestTaken (kind : Byte) (r : Req) (s : State) : State :=
  match kind.toNat with
  | 0x01 => pollTaken r s
  | 0x02 => trayStatusTaken r s
  | 0x03 => trayRestartTaken r s
  | 0x10 => planLoadTaken r s
  | 0x11 => profileLoadTaken r s
  | 0x12 => budgetSetTaken r s
  | 0x13 => zoneSetTaken r s
  | 0x20 => slotStartTaken r s
  | 0x21 => slotHoldTaken r s
  | 0x22 => slotReleaseTaken r s
  | 0x23 => slotAbortTaken r s
  | 0x24 => slotReportTaken r s
  | 0x30 => lotStatusTaken r s
  | 0x31 => lotTakeTaken r s
  | 0x32 => lotCloseTaken r s
  | 0x33 => lotExcludeTaken r s
  | _ => taken kind false r unknownKind s

/-! ### The receive framer (R166) -/

/-- What one byte makes of the bytes held. -/
inductive Framed where
  | holding (held : List Byte)
  | discarded (again : List Byte)
  | request (broadcast : Bool) (body : List Byte)
  deriving DecidableEq, Repr

/-- A complete frame's address is taken or discarded (R167); none is a discard. -/
def addressTaken (own : Nat) (address : Byte) : Option Bool :=
  if address = 0#8 then some true else if address.toNat = own then some false else none

/-- A complete frame: its CRC and then its address are tested (R166, R167). `held` begins with the start byte. -/
def frameComplete (own : Nat) (held : List Byte) : Framed :=
  let covered := (held.drop 1).take (held.length - 3)
  if crcBytes covered = held.drop (held.length - 2) then
    match addressTaken own (covered.headD 0#8) with
    | some broadcast => .request broadcast (covered.drop 2)
    | none => .discarded (held.drop 1)
  else .discarded (held.drop 1)

/-- One byte is examined (R166): HUNT with nothing held, ADDRESS with one byte, LENGTH with two, BODY and CRC beyond. A length byte
out of its range is examined again with the address, as the CRC byte that ends a bad frame is in R166's example (DEDUCED, log
entry 39). -/
def examine (own : Nat) (held : List Byte) (b : Byte) : Framed :=
  match held with
  | [] => if b = Config.startByte then .holding [b] else .holding []
  | [x] => .holding [x, b]
  | [x, y] => if 2 ≤ b.toNat ∧ b.toNat ≤ 250 then .holding [x, y, b] else .discarded [y, b]
  | x :: y :: n :: rest =>
    let all := x :: y :: n :: (rest ++ [b])
    if all.length = n.toNat + 5 then frameComplete own all else .holding all

def State.setHeld (s : State) (held : List Byte) : State := s.withLine { s.line with held := held }

/-- The body of a request is taken: tag, kind, fields (R164). A body holds at least two bytes. -/
def bodyTaken (broadcast : Bool) (body : List Byte) (s : State) : State :=
  match body with
  | tag :: kind :: fields => requestTaken kind { broadcast := broadcast, tag := tag, fields := fields } s
  | _ => s

/-- A broadcast TRAY RESTART, whose taking leaves no byte held (R177). -/
def restarts (broadcast : Bool) (body : List Byte) : Bool := broadcast && decide (body.drop 1 = [0x03#8])

/-- The framer goes through the bytes to examine again and then the characters that arrive (R163, R166), in as many rounds as
`fuel` allows. Once the tray replies the characters that follow are ignored. -/
def framer : Nat → List Byte → List LineChar → State → State
  | 0, _, _, s => s
  | _ + 1, [], [], s => s
  | fuel + 1, [], .byte b :: rest, s => framer fuel [b] rest s
  | fuel + 1, [], .badStop :: rest, s => framer fuel (s.line.held.drop 1) rest (s.setHeld [])
  | fuel + 1, b :: again, rest, s =>
    match examine s.line.address s.line.held b with
    | .holding held => framer fuel again rest (s.setHeld held)
    | .discarded bytes => framer fuel (bytes ++ again) rest (s.setHeld [])
    | .request broadcast body =>
      let s := bodyTaken broadcast body (s.setHeld [])
      if s.line.deaf then s
      else framer fuel (if restarts broadcast body then [] else again) rest s

/-- Characters arrive at the framer (R163, R166). Every discard lets go of one byte for good, and between two discards each byte
is moved at most twice, so the rounds are enough. -/
def received (chars : List LineChar) (s : State) : State :=
  if s.line.deaf then s
  else framer (2 * (s.line.held.length + chars.length + 2) ^ 2) [] chars s

/-! ### The end of a reply -/

/-- The stop bit of the reply's last byte has been sent (R163): the pair is released, and the framer begins in HUNT (R166). -/
def replySent (s : State) : State :=
  if s.line.driving then s.withLine { s.line with driving := false, reply := [], held := [] } else s

/-- The restart that a reply answered is taken (R177): the reply has ended, so the pair is released. With none due nothing
happens. -/
def restartTaken (s : State) : State := if s.line.restartDue then restart (replySent s) else s

end Sys2Proof.Machine
end

