-- ==== Sys2Proof/Machine/Timebase.lean ====
section
/-! DEFINITION. Time: the 1 ms timebase, whose tick is what a step does with no command waiting (the table has no row for it; log
entry 2), and tray time (R175). -/

namespace Sys2Proof.Machine

/-- The timers of a slot count down by 1 ms. The step and pacing timers count only in ACTIVE, in WORKING and under no pause
(R54, R93, R94); a timer stands at 0 until it is taken. -/
def Slot.counted (working : Bool) (x : Slot) : Slot :=
  { x with
    window := x.window.map (· - 1)
    silence := x.silence.map (· - 1)
    op := { x.op with timer := x.op.timer.map (· - 1), offTimer := x.op.offTimer.map (· - 1) }
    exec := if working then { x.exec with timer := x.exec.timer.map (· - 1) } else x.exec
    sweep := if working then { x.sweep with pacing := x.sweep.pacing.map (· - 1) } else x.sweep }

/-- One millisecond passes for every timer. -/
def countDown (s : State) : State :=
  slotIds.foldl (fun t i => t.modSlot i (Slot.counted (t.mayWork i))) { s with now := s.now + 1 }

/-- An event of a slot is taken where its timer stands at 0. -/
def due (p : Slot → Bool) (event : Fin 16 → State → State) (i : Fin 16) (s : State) : State :=
  if p (s.slot i) then event i s else s

/-- The timers of a slot that stand at 0 are taken: seat window, silence, timeout, off, step, pacing. One that an earlier event
has stopped or loaded anew is not. -/
def takeDue (i : Fin 16) (s : State) : State :=
  let s := due (fun x => decide (x.window = some 0)) seatWindowEnds i s
  let s := due (fun x => decide (x.silence = some 0)) linkLost i s
  let s := due (fun x => decide (x.op.timer = some 0)) (fun j t => timeoutEnds j (t.slot j).op.tag t) i s
  let s := due (fun x => decide (x.op.offTimer = some 0)) offTimeEnds i s
  let s := due (fun x => decide (x.exec.timer = some 0)) (fun j t => stepTimerEnds (t.stepEntry j) t) i s
  due (fun x => decide (x.sweep.pacing = some 0)) (fun j t => pacingEnds (t.stepEntry j) t) i s

/-- One tick of the 1 ms timebase: every timer counts, and those that reach 0 are taken, slot by slot in number order. -/
def tick (s : State) : State := refreshLamps (slotIds.foldl (fun t i => takeDue i t) (countDown s))

/-- One second of tray time (R175). -/
def trayTime (s : State) : State := s.withLine { s.line with time := sat32 s.line.time 1 }

end Sys2Proof.Machine
end

