-- ==== Sys2Proof/Machine/DriveCommands.lean ====
section
/-! DEFINITION. The meanings of the commands of a slot's run: its channel, its timers and the pattern unit. -/

namespace Sys2Proof.Machine

/-- COMPLETION (R68 to R74). -/
def execCompletion (slot : Fin 16) (c : ChannelRecord) (s : State) : Host.Outcome State Fault Refusal :=
  completed (completionArrives slot c s)

/-- DATA_CHUNK (R68, R75). -/
def execDataChunk (slot : Fin 16) (tag : Byte) (data : List Byte) (s : State) : Host.Outcome State Fault Refusal :=
  completed (dataArrives slot tag data s)

/-- TIMEOUT_EXPIRY (R76 to R84). -/
def execTimeoutExpiry (timer : OpTimer) (s : State) : Host.Outcome State Fault Refusal :=
  completed (timeoutEnds timer.slot timer.tag s)

/-- OFF_TIME_END (R82). -/
def execOffTimeEnd (slot : Fin 16) (s : State) : Host.Outcome State Fault Refusal :=
  completed (offTimeEnds slot s)

/-- STEP_TIMER_EXPIRY (R54). -/
def execStepTimerExpiry (step : StepEntry) (s : State) : Host.Outcome State Fault Refusal :=
  completed (stepTimerEnds step s)

/-- PACING_TICK (R93, R94). -/
def execPacingTick (step : StepEntry) (s : State) : Host.Outcome State Fault Refusal :=
  completed (pacingEnds step s)

/-- FILL_COMPLETION (R100). -/
def execFillCompletion (slot : Fin 16) (lending : Nat) (s : State) : Host.Outcome State Fault Refusal :=
  completed (fillEnds slot lending s)

/-- CHECK_COMPLETION (R101). -/
def execCheckCompletion (slot : Fin 16) (lending : Nat) (s : State) : Host.Outcome State Fault Refusal :=
  completed (checkEnds slot lending s)

end Sys2Proof.Machine
end

