-- ==== Sys2Proof/Machine/LineCommands.lean ====
section
/-! DEFINITION. The meanings of the commands of the line interface. -/

namespace Sys2Proof.Machine

/-- POLL (R174). -/
def execPoll (r : Req) (s : State) : Host.Outcome State Fault Refusal :=
  completed (pollTaken r s)

/-- TRAY_STATUS (R175). -/
def execTrayStatus (r : Req) (s : State) : Host.Outcome State Fault Refusal :=
  completed (trayStatusTaken r s)

/-- FRAME_DISCARDED (R166): characters arrive at the framer, which discards, re-examines and takes what they hold. -/
def execFrameDiscarded (chars : List LineChar) (s : State) : Host.Outcome State Fault Refusal :=
  completed (received chars s)

/-- REPLY_SENT (R163, R168): the stop bit of the reply's last byte has been sent. -/
def execReplySent (s : State) : Host.Outcome State Fault Refusal :=
  completed (replySent s)

/-- TRAY_TIME_TICK (R175). -/
def execTrayTimeTick (s : State) : Host.Outcome State Fault Refusal :=
  completed (trayTime s)

end Sys2Proof.Machine
end

