-- ==== Sys2Proof/Machine/LoadCommands.lean ====
section
/-! DEFINITION. The meanings of the commands that load plans and profiles. -/

namespace Sys2Proof.Machine

/-- PLAN_LOAD (R42 to R46). -/
def execPlanLoad (r : Req) (s : State) : Host.Outcome State Fault Refusal :=
  completed (planLoadTaken r s)

/-- PROFILE_LOAD (R130, R131). -/
def execProfileLoad (r : Req) (s : State) : Host.Outcome State Fault Refusal :=
  completed (profileLoadTaken r s)

end Sys2Proof.Machine
end

