-- ==== Sys2Proof/Machine/LotCommands.lean ====
section
/-! DEFINITION. The meanings of the commands of the lot builder. -/

namespace Sys2Proof.Machine

/-- LOT_STATUS (R152). -/
def execLotStatus (r : Req) (s : State) : Host.Outcome State Fault Refusal :=
  completed (lotStatusTaken r s)

/-- LOT_TAKE with take no (R153). -/
def execLotTake (r : Req) (s : State) : Host.Outcome State Fault Refusal :=
  completed (lotTakeTaken (withTake 0#8 r) s)

/-- LOT_TAKE with take yes (R153, R154). -/
def execLotTakeTakeYes (r : Req) (s : State) : Host.Outcome State Fault Refusal :=
  completed (lotTakeTaken (withTake 1#8 r) s)

/-- LOT_CLOSE (R155). -/
def execLotClose (r : Req) (s : State) : Host.Outcome State Fault Refusal :=
  completed (lotCloseTaken r s)

/-- LOT_EXCLUDE (R156, R157). -/
def execLotExclude (r : Req) (s : State) : Host.Outcome State Fault Refusal :=
  completed (lotExcludeTaken r s)

end Sys2Proof.Machine
end

