-- ==== Sys2Proof/Machine/ResetCommands.lean ====
section
/-! DEFINITION. The meanings of the commands of the two resets. -/

namespace Sys2Proof.Machine

/-- POWER_ON_RESET (R20, R162): every block takes its power-on values. -/
def execPowerOnReset (address : BitVec 5) (rate : RateStrap) (s : State) : Host.Outcome State Fault Refusal :=
  completed (powerOn address rate s)

/-- TRAY_RESTART (R177): accepted and answered OK, the restart then due; broadcast, taken at once. -/
def execTrayRestart (r : Req) (s : State) : Host.Outcome State Fault Refusal :=
  completed (trayRestartTaken r s)

/-- TRAY_RESTART_TAKEN (R177): the restart whose reply has been sent is taken. -/
def execTrayRestartTaken (s : State) : Host.Outcome State Fault Refusal :=
  completed (restartTaken s)

end Sys2Proof.Machine
end

