-- ==== Sys2Proof/Machine/SlotCommands.lean ====
section
/-! DEFINITION. The meanings of the commands of one slot: its requests, its pins and its link. -/

namespace Sys2Proof.Machine

/-- SLOT_START (R13, R14). -/
def execSlotStart (r : Req) (s : State) : Host.Outcome State Fault Refusal :=
  completed (slotStartTaken r s)

/-- SLOT_HOLD (R16). -/
def execSlotHold (r : Req) (s : State) : Host.Outcome State Fault Refusal :=
  completed (slotHoldTaken r s)

/-- SLOT_RELEASE (R16). -/
def execSlotRelease (r : Req) (s : State) : Host.Outcome State Fault Refusal :=
  completed (slotReleaseTaken r s)

/-- SLOT_ABORT (R15). -/
def execSlotAbort (r : Req) (s : State) : Host.Outcome State Fault Refusal :=
  completed (slotAbortTaken r s)

/-- SLOT_REPORT (R176). -/
def execSlotReport (r : Req) (s : State) : Host.Outcome State Fault Refusal :=
  completed (slotReportTaken r s)

/-- SEAT_SENSE_CHANGE (R7). -/
def execSeatSenseChange (slot : Fin 16) (raw : Bool) (s : State) : Host.Outcome State Fault Refusal :=
  completed (seatSense slot raw s)

/-- SEAT_WINDOW_END (R7 to R10). -/
def execSeatWindowEnd (slot : Fin 16) (s : State) : Host.Outcome State Fault Refusal :=
  completed (seatWindowEnds slot s)

/-- LINK_BEAT (R11). -/
def execLinkBeat (slot : Fin 16) (s : State) : Host.Outcome State Fault Refusal :=
  completed (beat slot s)

/-- LINK_LOSS (R11, R12). -/
def execLinkLoss (slot : Fin 16) (s : State) : Host.Outcome State Fault Refusal :=
  completed (linkLost slot s)

end Sys2Proof.Machine
end

