-- ==== Sys2Proof/Machine/ZoneCommands.lean ====
section
/-! DEFINITION. The meanings of the commands of the power budget unit's settings, the zones and the sensor bus. -/

namespace Sys2Proof.Machine

/-- BUDGET_SET (R36, R37). -/
def execBudgetSet (r : Req) (s : State) : Host.Outcome State Fault Refusal :=
  completed (budgetSetTaken r s)

/-- ZONE_SET_RUN (R112, R113). -/
def execZoneSetRun (r : Req) (s : State) : Host.Outcome State Fault Refusal :=
  completed (zoneSetTaken (withAction .run r) s)

/-- ZONE_SET_STOP (R112, R114). -/
def execZoneSetStop (r : Req) (s : State) : Host.Outcome State Fault Refusal :=
  completed (zoneSetTaken (withAction .stop r) s)

/-- ZONE_SET_CLEAR (R112, R115). -/
def execZoneSetClear (r : Req) (s : State) : Host.Outcome State Fault Refusal :=
  completed (zoneSetTaken (withAction .clear r) s)

/-- SENSOR_READ_START (R116). -/
def execSensorReadStart (s : State) : Host.Outcome State Fault Refusal :=
  completed (startRead s)

/-- CONTROL_PERIOD (R116 to R125). -/
def execControlPeriod (zone : Fin 4) (read : SensorRead) (s : State) : Host.Outcome State Fault Refusal :=
  completed (zonePeriod zone read s)

end Sys2Proof.Machine
end

