-- ==== Sys2Proof/Machine/Dispatch.lean ====
section
/-! DEFINITION. One arm for each command of the table: a call of its meaning. -/

namespace Sys2Proof.Machine

def exec (i : Instr) (s : State) : Host.Outcome State Fault Refusal :=
  match i with
  | .powerOnReset address rate => Sys2Proof.Machine.execPowerOnReset address rate s
  | .poll r => Sys2Proof.Machine.execPoll r s
  | .trayStatus r => Sys2Proof.Machine.execTrayStatus r s
  | .trayRestart r => Sys2Proof.Machine.execTrayRestart r s
  | .trayRestartTaken => Sys2Proof.Machine.execTrayRestartTaken s
  | .planLoad r => Sys2Proof.Machine.execPlanLoad r s
  | .profileLoad r => Sys2Proof.Machine.execProfileLoad r s
  | .budgetSet r => Sys2Proof.Machine.execBudgetSet r s
  | .zoneSetRun r => Sys2Proof.Machine.execZoneSetRun r s
  | .zoneSetStop r => Sys2Proof.Machine.execZoneSetStop r s
  | .zoneSetClear r => Sys2Proof.Machine.execZoneSetClear r s
  | .slotStart r => Sys2Proof.Machine.execSlotStart r s
  | .slotHold r => Sys2Proof.Machine.execSlotHold r s
  | .slotRelease r => Sys2Proof.Machine.execSlotRelease r s
  | .slotAbort r => Sys2Proof.Machine.execSlotAbort r s
  | .slotReport r => Sys2Proof.Machine.execSlotReport r s
  | .lotStatus r => Sys2Proof.Machine.execLotStatus r s
  | .lotTake r => Sys2Proof.Machine.execLotTake r s
  | .lotTakeTakeYes r => Sys2Proof.Machine.execLotTakeTakeYes r s
  | .lotClose r => Sys2Proof.Machine.execLotClose r s
  | .lotExclude r => Sys2Proof.Machine.execLotExclude r s
  | .frameDiscarded chars => Sys2Proof.Machine.execFrameDiscarded chars s
  | .seatSenseChange slot raw => Sys2Proof.Machine.execSeatSenseChange slot raw s
  | .seatWindowEnd slot => Sys2Proof.Machine.execSeatWindowEnd slot s
  | .linkBeat slot => Sys2Proof.Machine.execLinkBeat slot s
  | .linkLoss slot => Sys2Proof.Machine.execLinkLoss slot s
  | .completion slot c => Sys2Proof.Machine.execCompletion slot c s
  | .dataChunk slot tag data => Sys2Proof.Machine.execDataChunk slot tag data s
  | .timeoutExpiry timer => Sys2Proof.Machine.execTimeoutExpiry timer s
  | .offTimeEnd slot => Sys2Proof.Machine.execOffTimeEnd slot s
  | .stepTimerExpiry step => Sys2Proof.Machine.execStepTimerExpiry step s
  | .pacingTick step => Sys2Proof.Machine.execPacingTick step s
  | .fillCompletion slot lending => Sys2Proof.Machine.execFillCompletion slot lending s
  | .checkCompletion slot lending => Sys2Proof.Machine.execCheckCompletion slot lending s
  | .sensorReadStart => Sys2Proof.Machine.execSensorReadStart s
  | .controlPeriod zone read => Sys2Proof.Machine.execControlPeriod zone read s
  | .replySent => Sys2Proof.Machine.execReplySent s
  | .trayTimeTick => Sys2Proof.Machine.execTrayTimeTick s

end Sys2Proof.Machine
end

