-- ==== Sys2Proof/Safety.lean ====
section
/-! DEFINITION. The laws of the part that every step keeps: buffers (R97), notices (R172), power (R24, R25), the record's power
and seat (R3), zones (R111), lots and their wait list (R146, R150), serials (R158), plan and profile stores (R41, R129); what the
events of a run never touch; and the words the statements share, such as a request's answer and how an executor goes on (R58). -/

namespace Sys2Proof.Machine

/-! ### The laws -/

/-- The buffers held by all slots. -/
def State.buffersHeld (s : State) : Nat := (slotIds.map fun i => (s.slot i).sweep.hand.length).sum

/-- Free buffers plus buffers held number 24, and no slot holds more than 2 (R97). -/
def BufferLaw (s : State) : Prop :=
  s.pool.free + s.buffersHeld = 24 ∧ ∀ i, (s.slot i).sweep.hand.length ≤ 2

/-- Two entries share kind and subject (R172). -/
def Notice.clashes (a b : Notice) : Prop := a.subject = b.subject ∧ a.detail.code = b.detail.code

/-- At most 24 entries, no two of one kind and subject, each count from 1 to 255 (R172). -/
def NoticeLaw (s : State) : Prop :=
  s.line.notices.length ≤ 24 ∧ s.line.notices.Pairwise (fun a b => ¬ a.clashes b) ∧
    ∀ n ∈ s.line.notices, 1 ≤ n.count ∧ n.count ≤ 255

/-- The run cost is no greater than the spin cost (R41). -/
def Plan.costsOrdered (p : Plan) : Prop := p.runCost ≤ p.spinCost

/-- Committed power never exceeds the tray budget (R24) and the spin count never the concurrency limit (R25); with it the order
of the costs of every plan held, which both rest on. -/
def PowerLaw (s : State) : Prop :=
  s.committed ≤ s.power.budget ∧ s.spinCount ≤ s.power.limit ∧
    (∀ p x, s.planAt p = some x → x.costsOrdered) ∧ ∀ p x, s.stagingAt p = some x → x.costsOrdered

/-- The states in which powered is yes whatever the run (R3). -/
def SlotState.poweredYes : SlotState → Bool
  | .spinning | .active | .recovering => true
  | _ => false

/-- The states in which powered is no whatever the run (R3); in WAIT_POWER it may be either. -/
def SlotState.poweredNo : SlotState → Bool
  | .empty | .seated | .cycling | .lotWait | .done | .faulted => true
  | _ => false

/-- What a slot's state fixes in its record (R3): seat, power, and spun only with power. -/
structure Slot.Sound (x : Slot) : Prop where
  seat : x.seated = true ↔ x.state ≠ .empty
  on : x.state.poweredYes = true → x.powered = true
  off : x.state.poweredNo = true → x.powered = false
  spun : x.spun = true → x.powered = true

/-- Every slot record is sound, and the lot-wait list holds only slots in LOT_WAIT (R3). -/
def RecordLaw (s : State) : Prop :=
  (∀ i, (s.slot i).Sound) ∧ ∀ i ∈ s.lots.waiting, (s.slot i).state = .lotWait

/-- The held settings lie in the ranges of chapter 6's table of settings. -/
structure ZoneSettings.Sound (x : ZoneSettings) : Prop where
  setpoint : 100 ≤ x.setpoint ∧ x.setpoint ≤ 340
  rate : 4 ≤ x.rate ∧ x.rate ≤ 80
  band : 4 ≤ x.band ∧ x.band ≤ 20
  margin : 8 ≤ x.margin ∧ x.margin ≤ 60
  kp : 1 ≤ x.kp ∧ x.kp ≤ 25
  kf : 1 ≤ x.kf ∧ x.kf ≤ 25
  fanMin : 20 ≤ x.fanMin ∧ x.fanMin ≤ 100

/-- The working values lie in the ranges of R111, and the duties keep to R122 and R123. -/
structure Zone.Sound (cost : Nat) (z : Zone) : Prop where
  settings : z.set.Sound
  temp : ∀ t, z.temp = some t → -160 ≤ t ∧ t ≤ 600
  miss : z.miss ≤ 3
  fine : -9600 ≤ z.fine ∧ z.fine ≤ 36000
  reason : z.reason = .none ↔ z.state ≠ .fault
  heated : z.state = .ramp ∨ z.state = .soak → z.temp.isSome = true
  band : z.inBand = true → z.state = .soak
  demand : z.demand ≤ 100
  duty : z.applied ≤ z.demand
  fan : z.fan ≤ 100
  commit : z.commit ≤ cost
  cold : z.state = .off ∨ z.state = .cool ∨ z.state = .fault → z.demand = 0 ∧ z.applied = 0 ∧ z.commit = 0

/-- Every zone record is sound beside its heater cost of 10 to 400 (R111, R123). -/
def ZoneLaw (s : State) : Prop :=
  (∀ z : Fin 4, 10 ≤ s.power.cost.get z ∧ s.power.cost.get z ≤ 400) ∧ ∀ z, (s.zone z).Sound (s.power.cost.get z)

/-- The manifest holds at most 8 lots (R146). -/
def ManifestLaw (s : State) : Prop := s.lots.manifest.length ≤ 8

/-- Every lot held, of the manifest, FULL or OPEN, bears a number of its own; at most one lot of a key is OPEN or FULL; a lot holds no
more members than its capacity, and an OPEN lot at least one and fewer than it; numbers lie in 1 to 65,535 (R146, R147, R152). -/
structure LotLaw (s : State) : Prop where
  manifest : ManifestLaw s
  numbers : (s.lots.all.map Lot.number).Nodup
  keys : ((s.lots.opens ++ s.lots.full).map fun x => (x.profile, x.bin)).Nodup
  range : 1 ≤ s.lots.next ∧ s.lots.next ≤ 65535 ∧ ∀ x ∈ s.lots.all, 1 ≤ x.number ∧ x.number ≤ 65535
  held : ∀ x ∈ s.lots.all, x.members.length ≤ x.capacity
  opens : ∀ x ∈ s.lots.opens, 1 ≤ x.members.length ∧ x.members.length < x.capacity
  capacity : ∀ p f, s.profileAt p = some f → 1 ≤ f.lotCapacity

/-- The lot-wait list (R150): each slot in LOT_WAIT stands on it once and no other slot does; a slot on it keeps its identity and
waits behind a FULL lot of its key; and lots are FULL only while the manifest holds 8. -/
structure LotWaitLaw (s : State) : Prop where
  once : s.lots.waiting.Nodup
  states : ∀ i, i ∈ s.lots.waiting ↔ (s.slot i).state = .lotWait
  behind : ∀ i ∈ s.lots.waiting, (s.slot i).identity.isSome = true ∧
    ∃ p b, (s.slot i).profile = some p ∧ (s.slot i).outcome = some (.bin b) ∧ (s.lots.fullLot p b).isSome = true
  full : s.lots.full ≠ [] → s.lots.manifest.length = 8

/-- The serial of the drive a slot has identified. -/
def Slot.serial (x : Slot) : Option (List Byte) := x.identity.map Identity.serial

/-- A drive serial appears at most once across slot identities and lot members (R158): identities differ, members differ, and an
identity equal to a member's serial is that of the drive graded into that lot, still in its slot. -/
structure SerialLaw (s : State) : Prop where
  slots : ∀ i j, i ≠ j → (s.slot i).serial.isSome = true → (s.slot i).serial ≠ (s.slot j).serial
  members : (s.lots.all.flatMap fun x => x.members.map Member.serial).Nodup
  same : ∀ i, ∀ x ∈ s.lots.all, ∀ m ∈ x.members, (s.slot i).serial = some m.serial →
    (s.slot i).state = .done ∧ (s.slot i).lotNumber = some x.number

/-- The header fields of a plan lie in the ranges of R41 and R44. -/
structure Plan.HeaderSound (p : Plan) : Prop where
  name : p.name.length ≤ 16
  spinCost : 1 ≤ p.spinCost ∧ p.spinCost ≤ 200
  runCost : 1 ≤ p.runCost ∧ p.runCost ≤ 100 ∧ p.runCost ≤ p.spinCost
  offTime : 2 ≤ p.offTime ∧ p.offTime ≤ 60
  exposure : p.exposure ≤ 10080
  spinTimeout : 1 ≤ p.spinTimeout ∧ p.spinTimeout ≤ 120
  identTimeout : 100 ≤ p.identTimeout ∧ p.identTimeout ≤ 60000
  healthTimeout : 100 ≤ p.healthTimeout ∧ p.healthTimeout ≤ 60000
  writeTimeout : 100 ≤ p.writeTimeout ∧ p.writeTimeout ≤ 60000
  readTimeout : 100 ≤ p.readTimeout ∧ p.readTimeout ≤ 60000
  seekTimeout : 100 ≤ p.seekTimeout ∧ p.seekTimeout ≤ 60000
  standbyTimeout : 100 ≤ p.standbyTimeout ∧ p.standbyTimeout ≤ 60000

/-- The fields WRITE SWEEP and READ SWEEP share lie in the ranges of R44. -/
structure SweepFields.Sound (f : SweepFields) : Prop where
  start : f.start ≤ 1000
  stop : f.stop ≤ 1000
  chunk : 1 ≤ f.chunk ∧ f.chunk ≤ 128
  interval : 1 ≤ f.interval ∧ f.interval ≤ 1000
  timeLimit : f.timeLimit ≤ 604800

/-- The fields of SEEK SWEEP lie in the ranges of R44. -/
structure SeekFields.Sound (f : SeekFields) : Prop where
  start : f.start ≤ 1000
  stop : f.stop ≤ 1000
  count : 1 ≤ f.count ∧ f.count ≤ 1000000
  limit : 1 ≤ f.limit ∧ f.limit ≤ 1000
  interval : 1 ≤ f.interval ∧ f.interval ≤ 1000

/-- The fields of a step lie in the ranges of R44; a REPEAT target is any byte. -/
def Step.Sound : Step → Prop
  | .spin | .ident | .health | .standby => True
  | .writeSweep f => f.Sound
  | .readSweep f _ => f.Sound
  | .seekSweep f => f.Sound
  | .dwell minutes => 1 ≤ minutes ∧ minutes ≤ 10080
  | .repeatTo target count => target ≤ 255 ∧ 1 ≤ count ∧ count ≤ 255

/-- The fields of a profile lie in the ranges of R129. -/
structure Profile.Sound (f : Profile) : Prop where
  weights : ∀ w ∈ [f.weights.u, f.weights.k, f.weights.m, f.weights.w, f.weights.r, f.weights.p, f.weights.e, f.weights.l,
    f.weights.s], w ≤ 255
  nominalRate : 1 ≤ f.nominalRate ∧ f.nominalRate ≤ 1000000
  lotCapacity : 1 ≤ f.lotCapacity ∧ f.lotCapacity ≤ 48
  retestLimit : f.retestLimit ≤ 3
  bins : ∀ b e, f.entry b = some e → e.dmax ≤ 8608800 ∧ e.umax ≤ 4095 ∧ e.wmax ≤ 4095

/-- Loaded plans hold 1 to 32 steps that validation lets pass (R41, R45), staging images at most 32 steps (R42), and all their
headers and all profiles lie in their ranges (R44, R129). -/
def StoreLaw (s : State) : Prop :=
  (∀ p x, s.planAt p = some x → x.HeaderSound ∧ (∀ st ∈ x.steps, st.Sound) ∧ 1 ≤ x.steps.length ∧
        x.steps.length ≤ 32 ∧ x.invalid = none) ∧
    (∀ p x, s.stagingAt p = some x → x.HeaderSound ∧ (∀ st ∈ x.steps, st.Sound) ∧ x.steps.length ≤ 32) ∧
    ∀ p f, s.profileAt p = some f → f.Sound

/-! ### Requests at the line -/

/-- The state as the blocks find it when a request's frame has ended: the framer holds nothing (R166). -/
def State.hunting (s : State) : State := s.withLine { s.line with held := [] }

/-- A request with its effect done, leaving `u`: addressed to this tray the tray drives its reply frame onto the line, broadcast it
says nothing (R168, R170). -/
def State.replied (u : State) (r : Req) (kind : Byte) (reply : Reply) : State :=
  if r.broadcast then u
  else u.withLine { u.line with held := [], driving := true, reply := replyFrame u.line.address r.tag kind reply }

/-- The command completes: its effect leaves `u`, and `reply` is sent where the request was addressed. -/
def Answers (c : Instr) (r : Req) (kind : Byte) (reply : Reply) (s u : State) : Prop :=
  exec c s = .next (refreshLamps (u.replied r kind reply))

/-- The kind byte and the field bytes of a request row, with whether it is broadcast and its tag; none for the other rows (R183,
R185). -/
def requestOf : Instr → Option (Byte × Req)
  | .poll r => some (0x01#8, r)
  | .trayStatus r => some (0x02#8, r)
  | .trayRestart r => some (0x03#8, r)
  | .planLoad r => some (0x10#8, r)
  | .profileLoad r => some (0x11#8, r)
  | .budgetSet r => some (0x12#8, r)
  | .zoneSetRun r => some (0x13#8, withAction .run r)
  | .zoneSetStop r => some (0x13#8, withAction .stop r)
  | .zoneSetClear r => some (0x13#8, withAction .clear r)
  | .slotStart r => some (0x20#8, r)
  | .slotHold r => some (0x21#8, r)
  | .slotRelease r => some (0x22#8, r)
  | .slotAbort r => some (0x23#8, r)
  | .slotReport r => some (0x24#8, r)
  | .lotStatus r => some (0x30#8, r)
  | .lotTake r => some (0x31#8, withTake 0#8 r)
  | .lotTakeTakeYes r => some (0x31#8, withTake 1#8 r)
  | .lotClose r => some (0x32#8, r)
  | .lotExclude r => some (0x33#8, r)
  | .powerOnReset _ _ | .trayRestartTaken | .frameDiscarded _ | .seatSenseChange _ _ | .seatWindowEnd _ | .linkBeat _
  | .linkLoss _ | .completion _ _ | .dataChunk _ _ _ | .timeoutExpiry _ | .offTimeEnd _ | .stepTimerExpiry _ | .pacingTick _
  | .fillCompletion _ _ | .checkCompletion _ _ | .sensorReadStart | .controlPeriod _ _ | .replySent | .trayTimeTick => none

/-- The characters of the frame a request row travels in, to this tray or to all (R164). -/
def requestChars (own : Nat) (kind : Byte) (r : Req) : List LineChar :=
  (frame (if r.broadcast then 0#8 else BitVec.ofNat 8 own) ([r.tag, kind] ++ r.fields)).map .byte

/-! ### What an event leaves alone -/

/-- The pins and switches of a slot that no run event moves: seat, debounce, link watch, held. -/
def Slot.SamePins (x y : Slot) : Prop :=
  y.seated = x.seated ∧ y.raw = x.raw ∧ y.window = x.window ∧ y.linkUp = x.linkUp ∧ y.silence = x.silence ∧ y.held = x.held

/-- What the events of runs, with every admission, lending, grading and lot join they cause, leave as it was: the commands that
wait, the timebase, the line interface but for its notices, the sensor bus, the budget, limit and heater costs, the three stores,
the zones, and the pins of every slot. -/
structure Untouched (s t : State) : Prop where
  pending : t.pending = s.pending
  now : t.now = s.now
  line : t.line = { s.line with notices := t.line.notices, noticesLost := t.line.noticesLost }
  bus : t.bus = s.bus
  budget : t.power.budget = s.power.budget
  limit : t.power.limit = s.power.limit
  cost : t.power.cost = s.power.cost
  plans : t.plans = s.plans
  staging : t.staging = s.staging
  profiles : t.profiles = s.profiles
  zones : t.zones = s.zones
  pins : ∀ i, (s.slot i).SamePins (t.slot i)

/-- Two states agree on every block but some slots: all of the state that is not a slot or a lamp. -/
structure SameOutsideSlots (s t : State) : Prop where
  pending : t.pending = s.pending
  now : t.now = s.now
  line : t.line = s.line
  bus : t.bus = s.bus
  power : t.power = s.power
  plans : t.plans = s.plans
  staging : t.staging = s.staging
  profiles : t.profiles = s.profiles
  zones : t.zones = s.zones
  pool : t.pool = s.pool
  work : t.work = s.work
  lots : t.lots = s.lots

/-- An operation unit that has issued an operation without data (R65). -/
def OpUnit.sending (op : Op) (now timeout : Nat) (u : OpUnit) : OpUnit :=
  { u with
    tag := u.tag + 1#8, outstanding := some op, issuedAt := now, timer := some timeout
    sent := some (u.tag + 1#8, op), sentData := [] }

/-- No timer of the slot that runs stands below `n` (R7, R11, R54, R64, R93). -/
def Slot.TimersFrom (n : Nat) (x : Slot) : Prop :=
  ∀ k, x.window = some k ∨ x.silence = some k ∨ x.op.timer = some k ∨ x.op.offTimer = some k ∨ x.exec.timer = some k ∨
    x.sweep.pacing = some k → n ≤ k

/-- How the executor of a slot in ACTIVE goes on where it stood when a pause has lifted (R58), from `v` to `u`: in WAITING the next
step begins, here a HEALTH step of a spun drive; in WORKING the interrupted operation is issued again, or the first operation of a
step that has issued none, or the next seek of a DRIVE-PACED sweep; with an operation in flight nothing is issued. -/
structure Resumes (i : Fin 16) (plan : Plan) (v u : State) : Prop where
  waiting : (v.slot i).exec.phase = .waiting → (v.slot i).spun = true →
    plan.steps[(v.slot i).exec.index]? = some .health →
    u = v.setSlot i { v.slot i with
      exec := { (v.slot i).exec with phase := .working, dwell := 0, timer := none }
      op := { (v.slot i).op.sending .health v.now plan.healthTimeout with stage := 0 } }
  interrupted : (v.slot i).exec.phase = .working → (v.slot i).sweep.step = none → (v.slot i).op.outstanding = none →
    (v.slot i).op.interrupted = some .standby →
    u = v.setSlot i { v.slot i with
      op := { (v.slot i).op.sending .standby v.now plan.standbyTimeout with interrupted := none } }
  firstOp : (v.slot i).exec.phase = .working → (v.slot i).sweep.step = none → (v.slot i).op.outstanding = none →
    (v.slot i).op.interrupted = none → plan.steps[(v.slot i).exec.index]? = some .ident →
    u = v.setSlot i { v.slot i with op := (v.slot i).op.sending .ident v.now plan.identTimeout }
  inFlight : (v.slot i).exec.phase = .working → (v.slot i).sweep.step = none → (v.slot i).op.outstanding.isSome = true → u = v
  seeks : ∀ f : SeekFields, (v.slot i).exec.phase = .working → (v.slot i).sweep.step = some (.seekSweep f) → f.pacing = .drive →
    (v.slot i).op.outstanding = none → (v.slot i).op.interrupted = none → (v.slot i).sweep.lowNext = true →
    (v.slot i).sweep.lo ≤ (v.slot i).sweep.hi → 0 < (v.slot i).sweep.grid →
    u = v.setSlot i { v.slot i with
      sweep := { (v.slot i).sweep with lo := (v.slot i).sweep.lo + 1, lowNext := false }
      op := (v.slot i).op.sending
        (.seek ((v.slot i).sweep.first +
          (v.slot i).sweep.lo * ((v.slot i).sweep.stop - (v.slot i).sweep.first) / (v.slot i).sweep.grid))
        v.now plan.seekTimeout }

/-- What an admission evaluation leaves alone: everything but the pointer, the reservation and the slots that wait for power. -/
structure AdmissionOnly (s t : State) : Prop where
  untouched : Untouched s t
  line : t.line = s.line
  pool : t.pool = s.pool
  work : t.work = s.work
  lots : t.lots = s.lots
  slots : ∀ i, (s.slot i).state ≠ .waitPower → t.slot i = s.slot i

/-- A zone takes an allowance (R34 steps 4 and 5): its duty is the smaller of its demand and the allowance's limit, and its commitment
the duty's share of the heater cost, rounded up. -/
def Zone.allowed (z : Zone) (cost allowance : Nat) : Zone :=
  { z with
    allowance := allowance, applied := min z.demand (allowance * 100 / cost)
    commit := (cost * min z.demand (allowance * 100 / cost) + 99) / 100 }

/-- The heater pool of R33: the budget less the drive commitments less the reservation, 0 when negative. -/
def heaterPoolOf (budget : Nat) (s : State) : Nat := budget - s.driveTotal - s.power.reservation

/-- The number of zones of `l` that demand heat (R33). -/
def demandersIn (l : List (Fin 4)) (s : State) : Nat :=
  (l.filter fun z => ((s.zone z).state = .ramp ∨ (s.zone z).state = .soak) ∧ 0 < (s.zone z).demand).length

/-- The allowance of a zone in a recompute (R35): the share where it demands heat, 0 otherwise. -/
def Zone.shareOf (z : Zone) (share : Nat) : Nat :=
  if (z.state = .ramp ∨ z.state = .soak) ∧ 0 < z.demand then share else 0

/-- The bytes of a PLAN LOAD part (R185, R186). -/
def partBytes (id : Fin 4) (index : Nat) (last : Bool) (head : Option Plan) (steps : List Step) : List Byte :=
  [BitVec.ofNat 8 id.val, BitVec.ofNat 8 index, BitVec.ofNat 8 last.toNat] ++ ((head.map Plan.headerBytes).getD [])
    ++ steps.flatMap Step.bytes

/-- The settings of a ZONE SET as held: clamped, and in quarter degrees (R111, R112, the table of settings). -/
def settingsOf (setpoint rate band margin kp kf fanMin : Byte) : ZoneSettings :=
  { setpoint := 4 * max 25 (min 85 setpoint.toNat), rate := 4 * max 1 (min 20 rate.toNat), band := 4 * max 1 (min 5 band.toNat)
    margin := 4 * max 2 (min 15 margin.toNat), kp := max 1 (min 25 kp.toNat), kf := max 1 (min 25 kf.toNat)
    fanMin := max 20 (min 100 fanMin.toNat) }

end Sys2Proof.Machine
end

