-- ==== Sys2Proof/WellFormed.lean ====
section
/-! DEFINITION. Which commands the line and the channels can carry at all. exec is total: it takes ill-formed commands too. -/

namespace Sys2Proof

/-- A request's fields fit one frame body of at most 250 bytes, left of which tag, kind and `extra` bytes the command
itself fixes are taken (R164). -/
def Req.wf (extra : Nat) (r : Req) : Bool := decide (r.fields.length + 2 + extra ≤ 250)

/-- The checks of a command: a request fits its frame (R164); a ZONE SET or a LOT TAKE leaves room for its action byte or
take mark; a data chunk fits one buffer (section 5.4). -/
def Instr.wf : Instr → Bool
  | .powerOnReset _ _ => true
  | .poll r => r.wf 0
  | .trayStatus r => r.wf 0
  | .trayRestart r => r.wf 0
  | .trayRestartTaken => true
  | .planLoad r => r.wf 0
  | .profileLoad r => r.wf 0
  | .budgetSet r => r.wf 0
  | .zoneSetRun r => r.wf 1
  | .zoneSetStop r => r.wf 1
  | .zoneSetClear r => r.wf 1
  | .slotStart r => r.wf 0
  | .slotHold r => r.wf 0
  | .slotRelease r => r.wf 0
  | .slotAbort r => r.wf 0
  | .slotReport r => r.wf 0
  | .lotStatus r => r.wf 0
  | .lotTake r => r.wf 1
  | .lotTakeTakeYes r => r.wf 1
  | .lotClose r => r.wf 0
  | .lotExclude r => r.wf 0
  | .frameDiscarded _ => true
  | .seatSenseChange _ _ => true
  | .seatWindowEnd _ => true
  | .linkBeat _ => true
  | .linkLoss _ => true
  | .completion _ _ => true
  | .dataChunk _ _ data => decide (data.length ≤ Config.bufferBytes)
  | .timeoutExpiry _ => true
  | .offTimeEnd _ => true
  | .stepTimerExpiry _ => true
  | .pacingTick _ => true
  | .fillCompletion _ _ => true
  | .checkCompletion _ _ => true
  | .sensorReadStart => true
  | .controlPeriod _ _ => true
  | .replySent => true
  | .trayTimeTick => true

end Sys2Proof
end

