-- ==== Sys2Proof/Certificates/Slice0/Obligations.lean ====
section
/-! DEFINITION. The statements for the provers. Each docstring names the rules of the spec it formalises, or says that it is the
model's own choice and names the log entry. Where a statement gives what a command leaves as it was, the lamp chain is left out
of it: EveryCommandCompletes says what the chain shows. -/

open Sys2Proof Sys2Proof.Machine

/-! ### The queue, completion, time -/

/-- A step takes the command at the front of the queue, on the state with the queue's rest. -/
def Obligations.StepTakesFront : Prop :=
  ∀ (c : Instr) (rest : List Instr) (s : State), s.pending = c :: rest → step s = exec c { s with pending := rest }

/-- Every command completes, leaves the queue as it was, and leaves the lamp chain showing the code of every slot (R18, R19).
That a command completes which cannot arise is the model's choice (log entry 7), and so is that power-on reset leaves the
commands that wait (log entry 1). -/
def Obligations.EveryCommandCompletes : Prop :=
  ∀ (c : Instr) (s : State), ∃ t, exec c s = .next t ∧ t.pending = s.pending ∧ ∀ i : Fin 16,
    t.lamps.get i =
      match (t.slot i).state with
      | .empty => .off
      | .seated => .ready
      | .waitPower | .spinning | .active | .recovering | .cycling =>
        if (t.slot i).held || decide ((t.zone (zoneOf i)).state = .fault) then .paused else .testing
      | .lotWait => .hold
      | .done =>
        match (t.slot i).outcome with
        | some (.bin b) => .bin b
        | some .reject => .reject
        | _ => .alert
      | .faulted => .alert

/-- With no command waiting, and no timer about to end, a step is one millisecond (the model's choice, log entry 2): the seat
window, silence, operation and off timers count down, the step and pacing timers only where the slot is ACTIVE, in WORKING and
under no pause, and nothing else changes.
With no command waiting and one timer of one slot about to end, a step is the end of that timer, as its own command takes it, on
the state so counted (the same choice); the plans being in range (StoreLawKept), so that a timer loaded anew runs on. -/
def Obligations.IdleTickCounts : Prop :=
  (∀ s : State, s.pending = [] →
    (∀ i : Fin 16, ∀ n,
      (s.slot i).window = some n ∨ (s.slot i).silence = some n ∨ (s.slot i).op.timer = some n ∨
        (s.slot i).op.offTimer = some n ∨ (s.slot i).exec.timer = some n ∨ (s.slot i).sweep.pacing = some n → 2 ≤ n) →
    ∃ t, step s = .next t ∧ t.now = s.now + 1 ∧ SameOutsideSlots s { t with now := s.now } ∧
      ∀ i : Fin 16, t.slot i =
        { s.slot i with
          window := (s.slot i).window.map (· - 1)
          silence := (s.slot i).silence.map (· - 1)
          op := { (s.slot i).op with timer := (s.slot i).op.timer.map (· - 1), offTimer := (s.slot i).op.offTimer.map (· - 1) }
          exec := if s.mayWork i then { (s.slot i).exec with timer := (s.slot i).exec.timer.map (· - 1) } else (s.slot i).exec
          sweep :=
            if s.mayWork i then { (s.slot i).sweep with pacing := (s.slot i).sweep.pacing.map (· - 1) }
            else (s.slot i).sweep }) ∧
  ∀ (s : State) (i : Fin 16), s.pending = [] → StoreLaw s → (∀ j : Fin 16, j ≠ i → (s.slot j).TimersFrom 2) →
    let x := s.slot i
    ∃ u : State, u.now = s.now + 1 ∧ u.lamps = s.lamps ∧ SameOutsideSlots s { u with now := s.now } ∧
      (∀ j : Fin 16, u.slot j =
        { s.slot j with
          window := (s.slot j).window.map (· - 1)
          silence := (s.slot j).silence.map (· - 1)
          op := { (s.slot j).op with timer := (s.slot j).op.timer.map (· - 1), offTimer := (s.slot j).op.offTimer.map (· - 1) }
          exec := if s.mayWork j then { (s.slot j).exec with timer := (s.slot j).exec.timer.map (· - 1) } else (s.slot j).exec
          sweep :=
            if s.mayWork j then { (s.slot j).sweep with pacing := (s.slot j).sweep.pacing.map (· - 1) }
            else (s.slot j).sweep }) ∧
      (x.window = some 1 → Slot.TimersFrom 2 { x with window := none } → step s = exec (.seatWindowEnd i) u) ∧
      (x.silence = some 1 → Slot.TimersFrom 2 { x with silence := none } → step s = exec (.linkLoss i) u) ∧
      (x.op.timer = some 1 → (s.planOf i).isSome = true → Slot.TimersFrom 2 { x with op := { x.op with timer := none } } →
        step s = exec (.timeoutExpiry ⟨i, x.op.tag⟩) u) ∧
      (x.op.offTimer = some 1 → Slot.TimersFrom 2 { x with op := { x.op with offTimer := none } } →
        step s = exec (.offTimeEnd i) u) ∧
      (s.mayWork i = true → x.exec.timer = some 1 → Slot.TimersFrom 2 { x with exec := { x.exec with timer := none } } →
        step s = exec (.stepTimerExpiry (s.stepEntry i)) u) ∧
      (s.mayWork i = true → x.sweep.pacing = some 1 →
        Slot.TimersFrom 2 { x with sweep := { x.sweep with pacing := none } } → step s = exec (.pacingTick (s.stepEntry i)) u)

/-! ### The two resets -/

/-- Power-on reset (R20, R39, R63, R86, R110, R127, R145, R161, R162, R179): every block takes its power-on values, the straps
are latched, and each seat window runs where the raw input shows a drive. The commands that wait and the raw seat pins, which
lie outside the part, stay (log entries 1 and 3). -/
def Obligations.PowerOnResetSets : Prop :=
  ∀ (a : BitVec 5) (r : RateStrap) (s : State), ∃ t, exec (.powerOnReset a r) s = .next t ∧
    t.line.address = (if a = 0#5 then 31 else a.toNat) ∧
    t.line.rate = (match r with | .first => .r115200 | .second => .r460800 | .third => .r921600 | .fourth => .r115200) ∧
    t.line = { State.reset.line with address := t.line.address, rate := t.line.rate } ∧
    (∀ i : Fin 16, t.slot i =
      { Slot.reset with raw := (s.slot i).raw, window := if (s.slot i).raw then some 500 else none }) ∧
    SameOutsideSlots { State.reset with pending := s.pending, line := t.line } t

/-- TRAY RESTART of a well-formed body (R177): addressed, it is answered OK and is then due, and no block has changed;
broadcast, it is taken at once.
The restart that is due is taken by every block as one event (R21, R40, R63, R86, R110, R128, R145, R161, R177). Kept: the
latched address and rate, tray time, POWER_UP, budget, limit, costs and pointer, plans, profiles, lots, the sensor bus, and of a
slot its seat, seat window, link watch and operation tag (that the sensor bus stays is the model's reading, log entry 31). Each
zone is OFF, its settings, temperature, miss count and target_fine kept. That the restart releases the pair where REPLY_SENT has
not is the model's reading (log entry 32). -/
def Obligations.TrayRestart : Prop :=
  (∀ (r : Req) (s : State), s.line.deaf = false → r.fields = [] →
     ∃ t, exec (.trayRestart r) s = .next t ∧
       (r.broadcast = false →
         t.line = { s.line with
           held := [], restartDue := true, driving := true
           reply := replyFrame s.line.address r.tag 0x03#8 (Reply.ok []) } ∧
         SameOutsideSlots s { t with line := s.line } ∧ t.slots = s.slots) ∧
       (r.broadcast = true → ∃ u, exec .trayRestartTaken (s.withLine { s.line with restartDue := true }) = .next u ∧ t = u)) ∧
  (∀ s : State, s.line.restartDue = true → ∃ t, exec .trayRestartTaken s = .next t ∧
     t.pending = s.pending ∧ t.now = s.now ∧ t.bus = s.bus ∧ t.plans = s.plans ∧ t.profiles = s.profiles ∧
     t.line.address = s.line.address ∧ t.line.rate = s.line.rate ∧ t.line.time = s.line.time ∧
     t.line.powerUp = s.line.powerUp ∧ t.line.notices = [] ∧ t.line.noticesLost = false ∧ t.line.held = [] ∧
     t.line.driving = false ∧ t.line.restartDue = false ∧
     t.power = { s.power with reservation := 0 } ∧ t.lots = { s.lots with waiting := [] } ∧
     (∀ p : Fin 4, t.stagingAt p = none) ∧ t.work = [] ∧ t.pool.free = 24 ∧ t.pool.waiting = [] ∧
     (∀ i : Fin 16, ∃ op, op.tag = (s.slot i).op.tag ∧ op.outstanding = none ∧ op.timer = none ∧ op.stage = 0 ∧
       op.returnTo = none ∧ op.interrupted = none ∧ op.offTimer = none ∧
       t.slot i = { Slot.reset with
         state := if (s.slot i).seated then .seated else .empty, seated := (s.slot i).seated, raw := (s.slot i).raw
         window := (s.slot i).window, linkUp := (s.slot i).linkUp, silence := (s.slot i).silence, op := op }) ∧
     ∀ z : Fin 4, t.zone z = { s.zone z with
       state := .off, reason := .none, inBand := false, noticed := false, demand := 0, applied := 0, commit := 0, allowance := 0
       fan := (s.zone z).set.fanMin })

/-! ### The line -/

/-- POLL of a well-formed body (R174, R187): the head entry leaves the queue and is returned with the number left and the flags;
an empty queue gives NONE. Nothing else changes. -/
def Obligations.PollTakesHead : Prop :=
  ∀ (r : Req) (s : State), s.line.deaf = false → r.broadcast = false → r.fields = [] →
    match s.line.notices with
    | [] => Answers (.poll r) r 0x01#8 (Reply.ok (List.replicate 31 0#8 ++ [s.trayFlags])) s s.hunting
    | n :: rest =>
      Answers (.poll r) r 0x01#8 (Reply.ok (n.bytes ++ [BitVec.ofNat 8 rest.length, s.trayFlags])) s
          (s.hunting.withLine { s.hunting.line with notices := rest }) ∧
        n.bytes.length = 30

/-- TRAY STATUS of a well-formed body (R171, R175): its reply of 79 bytes shows the tray as it stood; the two flags are then
cleared, and nothing else changes. -/
def Obligations.TrayStatusClearsFlags : Prop :=
  ∀ (r : Req) (s : State), s.line.deaf = false → r.broadcast = false → r.fields = [] →
    Answers (.trayStatus r) r 0x02#8 (Reply.ok s.trayStatus) s
        (s.hunting.withLine { s.hunting.line with noticesLost := false, powerUp := false }) ∧
      s.trayStatus.length = 79 ∧
      s.trayStatus[6]? = some (BitVec.ofNat 8
        (s.line.noticesLost.toNat + 2 * s.line.powerUp.toNat + 4 * s.zoneFaulted.toNat + 8 * s.lotWaiting.toNat))

/-- SLOT REPORT and LOT STATUS of a well-formed body (R152, R176), and LOT TAKE with take no that passes its checks (R153),
return what stands and change nothing. -/
def Obligations.ReportsChangeNothing : Prop :=
  ∀ (r : Req) (s : State), s.line.deaf = false → r.broadcast = false →
    (∀ i : Fin 16, r.fields = [BitVec.ofNat 8 i.val] →
      Answers (.slotReport r) r 0x24#8 (Reply.ok (s.slotReport i)) s s.hunting ∧
        (s.slotReport i).length = 152 + (s.slot i).exec.counters.length) ∧
    (r.fields = [] → Answers (.lotStatus r) r 0x30#8 (Reply.ok s.lots.status) s s.hunting) ∧
    (∀ (x : Lot) (rest : List Lot) (first : Nat), s.lots.manifest = x :: rest → first ≤ x.members.length → first < 256 →
      x.number < 65536 → (r.fields = le 2 x.number ++ le 1 first ∨ r.fields = le 2 0 ++ le 1 first) →
      Answers (.lotTake r) r 0x31#8 (Reply.ok (x.takeBytes first)) s s.hunting)

/-- A request whose handler refuses it (R169) changes no record, list or timer and raises no notice; addressed, it is answered
with a reply that carries the result.
A body of another length than its kind's is refused with MALFORMED (R169, R182): the request changes nothing and the reply
carries the result. PLAN LOAD and PROFILE LOAD, whose length checks stand elsewhere, refuse a body without an id so. -/
def Obligations.RefusedRequests : Prop :=
  (∀ (c : Instr) (kind : Byte) (r : Req) (s : State) (handler : List Byte → State → State × Reply), s.line.deaf = false →
     requestOf c = some (kind, r) →
     (kind, handler) ∈ [(0x01#8, poll), (0x02#8, trayStatus), (0x03#8, trayRestart), (0x10#8, planLoad), (0x11#8, profileLoad),
       (0x12#8, budgetSet), (0x13#8, zoneSet), (0x20#8, slotStart), (0x21#8, slotHold), (0x22#8, slotRelease),
       (0x23#8, slotAbort), (0x24#8, slotReport), (0x30#8, lotStatus), (0x31#8, lotTake), (0x32#8, lotClose),
       (0x33#8, lotExclude)] →
     (handler r.fields s.hunting).2.result ≠ .ok →
     Answers c r kind (handler r.fields s.hunting).2 s s.hunting) ∧
  (∀ (fields : List Byte) (s : State),
     ∀ handler ∈ [poll, trayStatus, trayRestart, planLoad, profileLoad, budgetSet, zoneSet, slotStart, slotHold, slotRelease,
       slotAbort, slotReport, lotStatus, lotTake, lotClose, lotExclude],
       (handler fields s).2.result ≠ .ok → (handler fields s).1 = s) ∧
  (∀ (c : Instr) (kind : Byte) (r : Req) (s : State), s.line.deaf = false → r.broadcast = false →
     requestOf c = some (kind, r) →
     (∀ n, (kind, n) ∈ [(0x01#8, 0), (0x02#8, 0), (0x03#8, 0), (0x12#8, 11), (0x13#8, 9), (0x20#8, 3), (0x21#8, 1), (0x22#8, 1),
       (0x23#8, 1), (0x24#8, 1), (0x30#8, 0), (0x31#8, 4), (0x32#8, 2), (0x33#8, 20)] →
       r.fields.length ≠ n → Answers c r kind (Reply.refuse .malformed) s s.hunting) ∧
     (kind = 0x10#8 ∨ kind = 0x11#8 → r.fields = [] → Answers c r kind (Reply.refuse .malformed) s s.hunting))

/-- While the tray drives the pair the bytes that arrive are ignored (R163), and no request is taken between the reply to TRAY
RESTART and the restart (R177): a request, or characters, change nothing (how far this reaches is the model's reading, log entry
9). A request whose only purpose is its reply is discarded when broadcast (R170): no notice is removed and no flag cleared; the
frame's end leaves the framer in HUNT, and nothing else changes. -/
def Obligations.RequestsIgnored : Prop :=
  (∀ (c : Instr) (s : State), (s.line.driving = true ∨ s.line.restartDue = true) →
     ((requestOf c).isSome ∨ ∃ chars, c = .frameDiscarded chars) → exec c s = .next (refreshLamps s)) ∧
  (∀ (c : Instr) (r : Req) (s : State), s.line.deaf = false → r.broadcast = true →
     (c = .poll r ∨ c = .trayStatus r ∨ c = .slotReport r ∨ c = .lotStatus r ∨ (c = .lotTake r ∧ r.fields.length = 3)) →
     exec c s = .next (refreshLamps s.hunting))

/-- The stop bit of a reply's last byte releases the pair (R163); nothing else changes, but that the framer begins in HUNT
(R166).
A second of tray time (R175): it counts up by 1 and stops at 4,294,967,295; nothing else changes. -/
def Obligations.ReplySentAndTrayTime : Prop :=
  (∀ s : State, s.line.driving = true → ∃ t, exec .replySent s = .next t ∧
     t.line = { s.line with driving := false, reply := [], held := [] } ∧ SameOutsideSlots s { t with line := s.line } ∧
     t.slots = s.slots) ∧
  (∀ s : State, ∃ t, exec .trayTimeTick s = .next t ∧
     t.line.time = (if s.line.time < 4294967295 then s.line.time + 1 else 4294967295) ∧
     (s.line.time ≤ 4294967295 → s.line.time ≤ t.line.time) ∧
     SameOutsideSlots s { t with line := s.line } ∧ t.line = { s.line with time := t.line.time } ∧ t.slots = s.slots)

/-- The frame of a request, received from HUNT character by character, is taken as exactly the request its row stands for, for
this tray or broadcast (R164 to R168). That FRAME_DISCARDED carries characters, and takes a request found whole among them, is
the model's reading (log entry 10). -/
def Obligations.FramedRequestTaken : Prop :=
  ∀ (c : Instr) (kind : Byte) (r : Req) (s : State), s.line.deaf = false → s.line.held = [] → 1 ≤ s.line.address →
    s.line.address ≤ 31 → c.wf = true → requestOf c = some (kind, r) →
    exec (.frameDiscarded (requestChars s.line.address kind r)) s = exec c s

/-- A whole frame that is for another tray, or whose CRC is wrong, is discarded (R166, R167): where no byte after its first is
the start value, nothing is left of it and nothing changes. A character without a stop bit, or a byte that is not the start
value, is dropped in HUNT (R163, R166). That FRAME_DISCARDED carries the characters that arrive is the model's reading (log
entry 10). -/
def Obligations.FrameDiscardedWhole : Prop :=
  ∀ s : State, s.line.deaf = false → s.line.held = [] →
    (∀ (address : Byte) (body : List Byte) (hi lo : Byte), 2 ≤ body.length → body.length ≤ 250 →
      (∀ b ∈ [address, BitVec.ofNat 8 body.length] ++ body ++ [hi, lo], b ≠ 0xC5#8) →
      ([hi, lo] ≠ crcBytes ([address, BitVec.ofNat 8 body.length] ++ body) ∨ (address ≠ 0#8 ∧ address.toNat ≠ s.line.address)) →
      exec (.frameDiscarded (([0xC5#8, address, BitVec.ofNat 8 body.length] ++ body ++ [hi, lo]).map .byte)) s
        = .next (refreshLamps s)) ∧
    (∀ (address length : Byte), (length.toNat < 2 ∨ 250 < length.toNat) → address ≠ 0xC5#8 → length ≠ 0xC5#8 →
      exec (.frameDiscarded ([0xC5#8, address, length].map .byte)) s = .next (refreshLamps s)) ∧
    exec (.frameDiscarded [.badStop]) s = .next (refreshLamps s) ∧
    ∀ b : Byte, b ≠ 0xC5#8 → exec (.frameDiscarded [.byte b]) s = .next (refreshLamps s)

/-- A raise of a notice (R172, R173): it merges into the entry of its kind and subject, or is appended to a queue of fewer than
24, or is dropped with NOTICES_LOST set. -/
def Obligations.RaiseMergesAppendsOrDrops : Prop :=
  ∀ (subject : Nat) (d : Detail) (s : State), ∃ q lost, raise subject d s = s.withLine { s.line with notices := q, noticesLost := lost } ∧
    ((∀ n ∈ s.line.notices, ¬ (n.subject = subject ∧ n.detail.code = d.code)) →
      if s.line.notices.length < 24 then
        q = s.line.notices ++ [{ subject := subject, count := 1, time := s.line.time, detail := d }] ∧ lost = s.line.noticesLost
      else q = s.line.notices ∧ lost = true) ∧
    ∀ (before after : List Notice) (n : Notice), s.line.notices = before ++ n :: after →
      (∀ m ∈ before, ¬ (m.subject = subject ∧ m.detail.code = d.code)) → n.subject = subject → n.detail.code = d.code →
      q = before ++ { n with count := min (n.count + 1) 255, detail := d } :: after ∧ lost = s.line.noticesLost

/-! ### What only some commands change -/

/-- The latched tray address and line rate hold until the next power-on reset (R162): no other command, and no tick, moves them.
-/
def Obligations.AddressAndRateHold : Prop :=
  ∀ s t : State, step s = .next t → (∀ a r rest, s.pending ≠ .powerOnReset a r :: rest) →
    t.line.address = s.line.address ∧ t.line.rate = s.line.rate

/-- Of the commands but power-on reset and the characters of the line, PLAN LOAD alone changes a loaded plan, PROFILE LOAD a
profile, BUDGET SET the budget, the limit and the heater costs, ZONE SET a zone's settings, TRAY_TIME_TICK the tray time, the
two link commands a link_up, the end of a seat window a seat, and TRAY STATUS clears POWER_UP. -/
def Obligations.SettingsChangeOnlyByTheirCommands : Prop :=
  ∀ (c : Instr) (s t : State), exec c s = .next t → (∀ a r, c ≠ .powerOnReset a r) → (∀ chars, c ≠ .frameDiscarded chars) →
    ((∀ r, c ≠ .planLoad r) → t.plans = s.plans) ∧
    ((∀ r, c ≠ .profileLoad r) → t.profiles = s.profiles) ∧
    ((∀ r, c ≠ .budgetSet r) →
      t.power.budget = s.power.budget ∧ t.power.limit = s.power.limit ∧ t.power.cost = s.power.cost) ∧
    ((∀ r, c ≠ .zoneSetRun r ∧ c ≠ .zoneSetStop r ∧ c ≠ .zoneSetClear r) → ∀ z : Fin 4, (t.zone z).set = (s.zone z).set) ∧
    (c ≠ .trayTimeTick → t.line.time = s.line.time) ∧
    ((∀ i, c ≠ .linkBeat i ∧ c ≠ .linkLoss i) → ∀ i : Fin 16, (t.slot i).linkUp = (s.slot i).linkUp) ∧
    ((∀ i, c ≠ .seatWindowEnd i) → ∀ i : Fin 16, (t.slot i).seated = (s.slot i).seated) ∧
    ((∀ r, c ≠ .trayStatus r) → t.line.powerUp = s.line.powerUp)

/-- The events of a run, with every admission, lending, grading and lot join they cause, leave alone what `Untouched` lists. -/
def Obligations.RunEventsLeaveTheRest : Prop :=
  ∀ (c : Instr) (i : Fin 16) (s : State),
    ((∃ r, c = .completion i r) ∨ (∃ tag data, c = .dataChunk i tag data) ∨ (∃ tag, c = .timeoutExpiry ⟨i, tag⟩) ∨ c = .offTimeEnd i ∨
      (∃ e, c = .stepTimerExpiry e) ∨ (∃ e, c = .pacingTick e) ∨ (∃ n, c = .fillCompletion i n) ∨ ∃ n, c = .checkCompletion i n) →
    ∃ t, exec c s = .next t ∧ Untouched s t

/-! ### The laws every step keeps -/

/-- Free buffers and buffers held always number 24, and no slot holds more than 2 (R97). -/
def Obligations.BufferLawKept : Prop := ∀ s t : State, BufferLaw s → step s = .next t → BufferLaw t

/-- The notice queue holds at most 24 entries, no two of one kind and subject, each counted from 1 to 255 (R172). -/
def Obligations.NoticeLawKept : Prop := ∀ s t : State, NoticeLaw s → step s = .next t → NoticeLaw t

/-- Committed power never exceeds the tray budget (R24), nor the spin count the concurrency limit (R25), with run costs at most
spin costs (R41). -/
def Obligations.PowerLawKept : Prop := ∀ s t : State, PowerLaw s → step s = .next t → PowerLaw t

/-- A slot's state fixes its seat and power, spun stays with power, and only slots in LOT_WAIT stand on the lot-wait list (R3).
-/
def Obligations.RecordLawKept : Prop := ∀ s t : State, RecordLaw s → step s = .next t → RecordLaw t

/-- Every zone record keeps the ranges of R111, and its duties those of R122 and R123. -/
def Obligations.ZoneLawKept : Prop := ∀ s t : State, ZoneLaw s → step s = .next t → ZoneLaw t

/-- Lot numbers are distinct, at most one lot of a key is OPEN or FULL, no lot passes its capacity, and the manifest holds at
most 8 (R146, R147). -/
def Obligations.LotLawKept : Prop := ∀ s t : State, LotLaw s → step s = .next t → LotLaw t

/-- The loaded plans and profiles stay sound: in their ranges, of 1 to 32 steps, passing validation (R41, R44, R45, R129). -/
def Obligations.StoreLawKept : Prop := ∀ s t : State, StoreLaw s → step s = .next t → StoreLaw t

/-- The lot-wait list holds just the slots in LOT_WAIT, each once and behind a FULL lot of its key, while the manifest holds 8
(R150); and a drive serial appears at most once across slot identities and lots (R158). Both rest on the laws of lots and
records (LotLawKept, RecordLawKept). -/
def Obligations.LotWaitAndSerialLawsKept : Prop :=
  ∀ s t : State, LotLaw s → RecordLaw s → LotWaitLaw s → SerialLaw s → step s = .next t → LotWaitLaw t ∧ SerialLaw t

/-- The part right after reset keeps every law. -/
def Obligations.ResetKeepsTheLaws : Prop :=
  BufferLaw State.reset ∧ NoticeLaw State.reset ∧ PowerLaw State.reset ∧ RecordLaw State.reset ∧ ZoneLaw State.reset ∧
    LotLaw State.reset ∧ StoreLaw State.reset ∧ LotWaitLaw State.reset ∧ SerialLaw State.reset

/-! ### Slots -/

/-- The raw seat-sense input takes a value (R7): the window of 500 ms starts where it comes to differ from seated, and is
cancelled where it comes to equal it. Nothing else changes.
A beat sets link_up and restarts the silence timer of 50 ms, in whatever state the slot is in (R11). -/
def Obligations.SeatSenseAndLinkBeat : Prop :=
  (∀ (i : Fin 16) (raw : Bool) (s : State), ∃ t, exec (.seatSenseChange i raw) s = .next t ∧ SameOutsideSlots s t ∧
     (∀ j : Fin 16, j ≠ i → t.slot j = s.slot j) ∧
     t.slot i =
       if (s.slot i).raw = raw then s.slot i
       else { s.slot i with raw := raw, window := if raw = (s.slot i).seated then none else some 500 }) ∧
  (∀ (i : Fin 16) (s : State), ∃ t, exec (.linkBeat i) s = .next t ∧ SameOutsideSlots s t ∧
     (∀ j : Fin 16, j ≠ i → t.slot j = s.slot j) ∧ t.slot i = { s.slot i with linkUp := true, silence := some 50 })

/-- The window ends with a drive at the raw input of a slot without one (R7, R8): the slot is SEATED and SLOT_SEATED is raised.
A window that does not run, or a raw input that equals seated, ends in nothing (the model's choice, log entry 7). -/
def Obligations.SeatedTaken : Prop :=
  ∀ (i : Fin 16) (s : State), ∃ t, exec (.seatWindowEnd i) s = .next t ∧
    ((s.slot i).window.isSome = true → (s.slot i).raw = true → (s.slot i).seated = false →
      t.slot i = { s.slot i with seated := true, window := none, state := .seated } ∧
      (∀ j : Fin 16, j ≠ i → t.slot j = s.slot j) ∧ t.line = s.line.raised i.val .slotSeated ∧
      SameOutsideSlots s { t with line := s.line }) ∧
    ((s.slot i).window = none ∨ (s.slot i).raw = (s.slot i).seated → t = refreshLamps s)

/-- The window ends with no drive at the raw input of a seated slot (R9, R10): the record takes its power-on values, but for the
link watch and the operation tag; SLOT_REMOVED carries the prior state and serial; the slot is out of the buffer and lot-wait
lists, and no lot changes. Admission has been evaluated: another evaluation repeats its result (R31). -/
def Obligations.UnseatedTaken : Prop :=
  ∀ (i : Fin 16) (s : State), (s.slot i).window.isSome = true → (s.slot i).raw = false → (s.slot i).seated = true →
    ∃ t op, exec (.seatWindowEnd i) s = .next t ∧
      Untouched (s.modSlot i fun x => { x with seated := false, window := none, held := false }) t ∧
      t.slot i = { Slot.reset with linkUp := (s.slot i).linkUp, silence := (s.slot i).silence, op := op } ∧
      op = { OpUnit.reset with tag := (s.slot i).op.tag, issuedAt := op.issuedAt, sent := op.sent, sentData := op.sentData } ∧
      t.line = s.line.raised i.val (.slotRemoved (s.slot i).state ((s.slot i).identity.map Identity.serial)) ∧
      t.lots = { s.lots with waiting := s.lots.waiting.filter fun j => decide (j ≠ i) } ∧ i ∉ t.pool.waiting ∧
      admission t = t

/-- The silence timer runs out (R11, R12): link_up becomes no, and a slot in a run is FAULTED with LINK, released by R5 and R6,
with SLOT_FAULTED raised; its plan, profile, identity and accumulators stay. Admission has been evaluated then: another
evaluation repeats its result (R31). -/
def Obligations.LinkLossActs : Prop :=
  ∀ (i : Fin 16) (s : State), (s.slot i).silence.isSome = true → ∃ t, exec (.linkLoss i) s = .next t ∧
    Untouched (s.modSlot i fun x => { x with linkUp := false, silence := none }) t ∧
    ((s.slot i).state ∈ [SlotState.empty, .seated, .lotWait, .done, .faulted] →
      SameOutsideSlots s t ∧ (∀ j : Fin 16, j ≠ i → t.slot j = s.slot j) ∧
      t.slot i = { s.slot i with linkUp := false, silence := none }) ∧
    ((s.slot i).state ∈ [SlotState.waitPower, .spinning, .active, .recovering, .cycling] →
      t.lots = s.lots ∧ i ∉ t.pool.waiting ∧ t.line = s.line.raised i.val (.slotFaulted .link none) ∧ admission t = t ∧
      ∃ e : Sweep, e.step = none ∧ e.redo = [] ∧ e.hand = [] ∧ e.pacing = none ∧
        t.slot i = { s.slot i with
          linkUp := false, silence := none, state := .faulted, reason := .link, outcome := none, powered := false, spun := false
          exec := { (s.slot i).exec with phase := .idle, timer := none }
          op := { (s.slot i).op with
            outstanding := none, timer := none, returnTo := none, interrupted := none, offTimer := none }
          sweep := e })

/-- SLOT START that passes its checks (R13, R14): the record is prepared, the executor starts at step 0, and the slot waits for
spin-up, or has been granted it by the evaluation that follows (R31), whose result is what the request leaves. A slot that was
not waiting for power is left alone. -/
def Obligations.SlotStartAccepted : Prop :=
  ∀ (i : Fin 16) (p f : Fin 4) (plan : Plan) (r : Req) (s : State), s.line.deaf = false →
    r.fields = [BitVec.ofNat 8 i.val, BitVec.ofNat 8 p.val, BitVec.ofNat 8 f.val] →
    ((s.slot i).state = .seated ∨
      ((s.slot i).state = .done ∧ ((s.slot i).outcome = some .reject ∨ (s.slot i).outcome = some .aborted))) →
    (s.slot i).linkUp = true → s.planAt p = some plan → (s.profileAt f).isSome = true →
    ∃ u, Answers (.slotStart r) r 0x20#8 (Reply.ok []) s u ∧
      u = admission (s.hunting.setSlot i { s.slot i with
        state := .waitPower, plan := some p, profile := some f, identity := none, outcome := none, reason := .none, grade := none
        lotNumber := none, acc := Accum.zero, retests := 0, powered := false, spun := false
        exec := { phase := .spinUp, index := 0, pass := 0, timer := none, dwell := 0
                  counters := List.replicate plan.repeats 0 }
        op := { (s.slot i).op with
          outstanding := none, timer := none, stage := 0, returnTo := none, interrupted := none, offTimer := none } }) ∧
      Untouched s.hunting u ∧ u.line = s.hunting.line ∧
      u.lots = s.lots ∧ (∀ j : Fin 16, j ≠ i → (s.slot j).state ≠ .waitPower → u.slot j = s.slot j) ∧
      ∃ state powered op, u.slot i = { s.slot i with
          state := state, plan := some p, profile := some f, identity := none, outcome := none, reason := .none, grade := none
          lotNumber := none, acc := Accum.zero, retests := 0, powered := powered, spun := false
          exec := { phase := .spinUp, index := 0, pass := 0, timer := none, dwell := 0
                    counters := List.replicate plan.repeats 0 }
          op := op } ∧
        op.stage = 0 ∧ op.returnTo = none ∧ op.interrupted = none ∧ op.offTimer = none ∧
        ((state = .waitPower ∧ powered = false ∧ op.outstanding = none ∧ op.timer = none ∧ op.tag = (s.slot i).op.tag) ∨
          (state = .spinning ∧ powered = true ∧ op.outstanding = some .spin ∧ op.timer = some (plan.spinTimeout * 1000) ∧
            op.tag = (s.slot i).op.tag + 1#8))

/-- The checks of SLOT START in their order (R13): the first that fails gives the refusal, and nothing changes. -/
def Obligations.SlotStartRefused : Prop :=
  ∀ (a b c : Byte) (r : Req) (s : State), s.line.deaf = false → r.fields = [a, b, c] →
    (16 ≤ a.toNat → Answers (.slotStart r) r 0x20#8 (Reply.refuse (.badArgument 0)) s s.hunting) ∧
    (a.toNat < 16 → 4 ≤ b.toNat → Answers (.slotStart r) r 0x20#8 (Reply.refuse (.badArgument 1)) s s.hunting) ∧
    (a.toNat < 16 → b.toNat < 4 → 4 ≤ c.toNat →
      Answers (.slotStart r) r 0x20#8 (Reply.refuse (.badArgument 2)) s s.hunting) ∧
    ∀ (i : Fin 16) (p f : Fin 4), a.toNat = i.val → b.toNat = p.val → c.toNat = f.val →
      ((s.slot i).state ∉ [SlotState.seated, .done] ∨
          ((s.slot i).state = .done ∧ (s.slot i).outcome ≠ some .reject ∧ (s.slot i).outcome ≠ some .aborted) ∨
          (s.slot i).linkUp = false →
        Answers (.slotStart r) r 0x20#8 (Reply.refuse .badState) s s.hunting) ∧
      ((s.slot i).state = .seated ∨
            ((s.slot i).state = .done ∧ ((s.slot i).outcome = some .reject ∨ (s.slot i).outcome = some .aborted)) →
        (s.slot i).linkUp = true → (s.planAt p = none ∨ s.profileAt f = none) →
        Answers (.slotStart r) r 0x20#8 (Reply.refuse .notFound) s s.hunting)

/-- SLOT HOLD and SLOT RELEASE set held in every state and are answered OK; a slot outside 0 to 15 is refused (R16). A hold
voids the slot's running bands (R106); each is followed by an admission evaluation (R31), and but for the slots that wait for
power every record stays. A release that lifts the pause of a slot in ACTIVE has its executor go on where it stood (R58). -/
def Obligations.SlotHoldAndRelease : Prop :=
  (∀ (i : Fin 16) (r : Req) (s : State), s.line.deaf = false → r.fields = [BitVec.ofNat 8 i.val] →
     (∃ u, Answers (.slotHold r) r 0x21#8 (Reply.ok []) s u ∧
       u = admission (s.hunting.setSlot i { s.slot i with
         held := true, sweep := { (s.slot i).sweep with bands := (s.slot i).sweep.bands.map Band.stopped } }) ∧
       Untouched (s.hunting.modSlot i fun x => { x with held := true }) u ∧ u.lots = s.lots ∧
       (∀ j : Fin 16, j ≠ i → (s.slot j).state ≠ .waitPower → u.slot j = s.slot j) ∧
       ((s.slot i).state ≠ .waitPower →
         u.slot i = { s.slot i with
           held := true, sweep := { (s.slot i).sweep with bands := (s.slot i).sweep.bands.map Band.stopped } })) ∧
     ∃ u, Answers (.slotRelease r) r 0x22#8 (Reply.ok []) s u ∧
       Untouched (s.hunting.modSlot i fun x => { x with held := false }) u ∧
       ((s.zone (zoneOf i)).state = .fault → (s.slot i).state ≠ .waitPower → u.slot i = { s.slot i with held := false }) ∧
       let v := admission (s.hunting.setSlot i { s.slot i with held := false })
       ((s.slot i).held = false ∨ (s.zone (zoneOf i)).state = .fault ∨ (s.slot i).state ≠ .active → u = v) ∧
       ∀ plan, (s.slot i).held = true → (s.zone (zoneOf i)).state ≠ .fault → (s.slot i).state = .active →
         s.planOf i = some plan → Resumes i plan v u) ∧
  ∀ (a : Byte) (r : Req) (s : State), s.line.deaf = false → 16 ≤ a.toNat → r.fields = [a] →
    Answers (.slotHold r) r 0x21#8 (Reply.refuse (.badArgument 0)) s s.hunting ∧
      Answers (.slotRelease r) r 0x22#8 (Reply.refuse (.badArgument 0)) s s.hunting

/-- SLOT ABORT (R15): in a run, or in LOT_WAIT, the slot ends in DONE with ABORTED and reason NONE, released by R5, with no
notice, and admission has been evaluated: another evaluation repeats its result (R31). In any other state it is refused with
BAD_STATE, and a slot outside 0 to 15 with BAD_ARGUMENT. -/
def Obligations.SlotAbortEndsTheRun : Prop :=
  (∀ (i : Fin 16) (r : Req) (s : State), s.line.deaf = false → r.fields = [BitVec.ofNat 8 i.val] →
     ((s.slot i).state ∈ [SlotState.waitPower, .spinning, .active, .recovering, .cycling, .lotWait] →
       ∃ u, Answers (.slotAbort r) r 0x23#8 (Reply.ok []) s u ∧ Untouched s.hunting u ∧ u.line = s.hunting.line ∧
         admission u = u ∧
         u.lots = { s.lots with waiting := s.lots.waiting.filter fun j => decide (j ≠ i) } ∧ i ∉ u.pool.waiting ∧
         ∃ e : Sweep, e.step = none ∧ e.redo = [] ∧ e.hand = [] ∧ e.pacing = none ∧
           u.slot i = { s.slot i with
             state := .done, outcome := some .aborted, reason := .none, grade := none, powered := false, spun := false
             exec := { (s.slot i).exec with phase := .idle, timer := none }
             op := { (s.slot i).op with
               outstanding := none, timer := none, returnTo := none, interrupted := none, offTimer := none }
             sweep := e }) ∧
     ((s.slot i).state ∈ [SlotState.empty, .seated, .done, .faulted] →
       Answers (.slotAbort r) r 0x23#8 (Reply.refuse .badState) s s.hunting)) ∧
  ∀ (a : Byte) (r : Req) (s : State), s.line.deaf = false → 16 ≤ a.toNat → r.fields = [a] →
    Answers (.slotAbort r) r 0x23#8 (Reply.refuse (.badArgument 0)) s s.hunting

/-! ### Power -/

/-- The admission evaluation (R27, R28): with no place for spin-up, or no candidate, nothing is granted and nothing reserved; a
candidate that fits is granted and the evaluation begins again; one that does not is not passed over, and its need is reserved.
The candidate is the slot in WAIT_POWER, held no, that comes first after the pointer.
The parts of a grant (R29): the pointer moves to the slot, which goes to SPINNING with its power on and SPIN issued under a new
tag with the plan's timeout; nothing else changes. -/
def Obligations.AdmissionEvaluation : Prop :=
  (∀ s : State,
     (s.power.limit ≤ s.spinCount → admission s = s.setReservation 0) ∧
     (s.spinCount < s.power.limit →
       ((∀ i : Fin 16, (s.slot i).state = .waitPower → (s.slot i).held = true) → admission s = s.setReservation 0) ∧
       ∀ i : Fin 16, (s.slot i).state = .waitPower → (s.slot i).held = false →
         (∀ j : Fin 16, (s.slot j).state = .waitPower → (s.slot j).held = false →
           (i - s.power.pointer - 1).val ≤ (j - s.power.pointer - 1).val) →
         (s.committed + (s.spinCost i - s.driveCommit i) ≤ s.power.budget → admission s = admission (grant i s)) ∧
         (s.power.budget < s.committed + (s.spinCost i - s.driveCommit i) →
           admission s = s.setReservation (s.spinCost i - s.driveCommit i)))) ∧
  (∀ (i : Fin 16) (plan : Plan) (s : State), s.planOf i = some plan →
     grant i s = (s.setSlot i { s.slot i with
         state := .spinning, powered := true
         op := { (s.slot i).op with
           tag := (s.slot i).op.tag + 1#8, outstanding := some .spin, issuedAt := s.now
           timer := some (plan.spinTimeout * 1000), sent := some ((s.slot i).op.tag + 1#8, .spin), sentData := [] } }).withPower
       { s.power with pointer := i })

/-- BUDGET SET (R36, R37): clamped, it is refused with BELOW_COMMITTED and the values in force where the budget lies below the
drive commitments or the limit below the spin count; else it is stored, every zone takes the share of R35, and what the request
leaves is the result of an admission evaluation (R31). -/
def Obligations.BudgetSetTakenOrRefused : Prop :=
  ∀ (r : Req) (s : State), s.line.deaf = false → r.fields.length = 11 →
    let budget := min 2000 (fieldAt r.fields 0 2)
    let limit := max 1 (min 8 (fieldAt r.fields 2 1))
    let cost : Fin 4 → Nat := fun z => max 10 (min 400 (fieldAt r.fields (3 + 2 * z.val) 2))
    let share := heaterPoolOf budget s / demandersIn [0, 1, 2, 3] s
    (budget < s.driveTotal ∨ limit < s.spinCount →
      Answers (.budgetSet r) r 0x12#8
        { result := .belowCommitted
          fields := le 2 s.power.budget ++ le 1 s.power.limit ++ [0, 1, 2, 3].flatMap fun z => le 2 (s.power.cost.get z) }
        s s.hunting) ∧
    (s.driveTotal ≤ budget → s.spinCount ≤ limit →
      ∃ v u, Answers (.budgetSet r) r 0x12#8
          (Reply.ok (le 2 budget ++ le 1 limit ++ [0, 1, 2, 3].flatMap fun z => le 2 (cost z))) s u ∧
        u = admission v ∧ AdmissionOnly v u ∧ v = { s.hunting with power := v.power, zones := v.zones } ∧
        v.power.budget = budget ∧ v.power.limit = limit ∧ v.power.pointer = s.power.pointer ∧
        ∀ z : Fin 4, v.power.cost.get z = cost z ∧ v.zone z = (s.zone z).allowed (cost z) ((s.zone z).shareOf share))

/-! ### Loading -/

/-- A PLAN LOAD part that is not the last (R42 to R44): a first part discards what was staged and stages its header and steps, a
part at the number of steps staged appends its own; the plan loaded stays as it was. Every part in range is staged as it was
sent.
Numeric fields out of their ranges are clamped (R44): every header of 35 bytes, sent alone, and every entry of 16 bytes whose
kind and named values are known, sent behind staged steps, is staged with its fields brought into range, and the reply shows
them so. A name length above 16 is taken as 16, and bytes a kind does not use are not read (R181). -/
def Obligations.PlanPartStaged : Prop :=
  (∀ (id : Fin 4) (head : Plan) (steps : List Step) (r : Req) (s : State), s.line.deaf = false →
    (∀ st ∈ steps, st.Sound) → steps.length ≤ 12 →
    (head.HeaderSound → head.steps = steps → r.fields = partBytes id 0 false (some head) steps →
      ∃ u, Answers (.planLoad r) r 0x10#8
          (Reply.ok ([BitVec.ofNat 8 id.val, BitVec.ofNat 8 steps.length] ++ head.headerBytes ++ steps.flatMap Step.bytes)) s u ∧
        u.stagingAt id = some head ∧ (∀ p : Fin 4, p ≠ id → u.stagingAt p = s.stagingAt p) ∧
        u = { s.hunting with staging := u.staging }) ∧
    ∀ image : Plan, s.stagingAt id = some image → 1 ≤ image.steps.length → image.steps.length ≤ 31 →
      image.steps.length + steps.length ≤ 32 → r.fields = partBytes id image.steps.length false none steps →
      ∃ u, Answers (.planLoad r) r 0x10#8
          (Reply.ok ([BitVec.ofNat 8 id.val, BitVec.ofNat 8 (image.steps.length + steps.length)] ++ steps.flatMap Step.bytes))
          s u ∧
        u.stagingAt id = some { image with steps := image.steps ++ steps } ∧
        (∀ p : Fin 4, p ≠ id → u.stagingAt p = s.stagingAt p) ∧ u = { s.hunting with staging := u.staging }) ∧
  (∀ (id : Fin 4) (h : List Byte) (r : Req) (s : State), s.line.deaf = false → h.length = 35 →
    r.fields = [BitVec.ofNat 8 id.val, 0#8, 0#8] ++ h →
    let spinCost := max 1 (min 200 (fieldAt h 17 1))
    let timeout := fun k => max 100 (min 60000 (fieldAt h k 2))
    ∃ u x, Answers (.planLoad r) r 0x10#8 (Reply.ok ([BitVec.ofNat 8 id.val, 0#8] ++ x.headerBytes)) s u ∧
      u.stagingAt id = some x ∧ u = { s.hunting with staging := u.staging } ∧
      x = { name := (h.drop 1).take (min 16 (fieldAt h 0 1)), spinCost := spinCost
            runCost := min (max 1 (min 100 (fieldAt h 18 1))) spinCost, offTime := max 2 (min 60 (fieldAt h 19 1))
            exposure := min 10080 (fieldAt h 20 2), spinTimeout := max 1 (min 120 (fieldAt h 22 1))
            identTimeout := timeout 23, healthTimeout := timeout 25, writeTimeout := timeout 27, readTimeout := timeout 29
            seekTimeout := timeout 31, standbyTimeout := timeout 33, steps := [] }) ∧
  ∀ (id : Fin 4) (e : List Byte) (image : Plan) (r : Req) (s : State), s.line.deaf = false → e.length = 16 →
    s.stagingAt id = some image → 1 ≤ image.steps.length → image.steps.length ≤ 31 →
    r.fields = [BitVec.ofNat 8 id.val, BitVec.ofNat 8 image.steps.length, 0#8] ++ e →
    let staged := fun st : Step => ∃ u, Answers (.planLoad r) r 0x10#8
        (Reply.ok ([BitVec.ofNat 8 id.val, BitVec.ofNat 8 (image.steps.length + 1)] ++ st.bytes)) s u ∧
      u.stagingAt id = some { image with steps := image.steps ++ [st] } ∧ u = { s.hunting with staging := u.staging }
    (fieldAt e 0 1 = 1 → staged .spin) ∧ (fieldAt e 0 1 = 2 → staged .ident) ∧ (fieldAt e 0 1 = 3 → staged .health) ∧
    (fieldAt e 0 1 = 8 → staged .standby) ∧
    (fieldAt e 0 1 = 7 → staged (.dwell (max 1 (min 10080 (fieldAt e 1 2))))) ∧
    (fieldAt e 0 1 = 9 → staged (.repeatTo (fieldAt e 1 1) (max 1 (fieldAt e 2 1)))) ∧
    (fieldAt e 0 1 = 6 → ∀ pacing : Pacing, fieldAt e 11 1 = pacing.code.toNat →
      staged (.seekSweep
        { start := min 1000 (fieldAt e 1 2), stop := min 1000 (fieldAt e 3 2), count := max 1 (min 1000000 (fieldAt e 5 4))
          limit := max 1 (min 1000 (fieldAt e 9 2)), pacing := pacing, interval := max 1 (min 1000 (fieldAt e 12 2)) })) ∧
    ∀ (direction : Direction) (pacing : Pacing) (pattern : Pattern) (continuous : Bool),
      fieldAt e 6 1 = direction.code.toNat → fieldAt e 7 1 = pacing.code.toNat → fieldAt e 10 1 = pattern.code.toNat →
      fieldAt e 11 1 = continuous.toNat →
      let f : SweepFields :=
        { start := min 1000 (fieldAt e 1 2), stop := min 1000 (fieldAt e 3 2), chunk := max 1 (min 128 (fieldAt e 5 1))
          direction := direction, pacing := pacing, interval := max 1 (min 1000 (fieldAt e 8 2)), pattern := pattern
          continuous := continuous, timeLimit := min 604800 (fieldAt e 13 3) }
      (fieldAt e 0 1 = 4 → staged (.writeSweep f)) ∧
      ∀ verify : Bool, fieldAt e 0 1 = 5 → fieldAt e 12 1 = verify.toNat → staged (.readSweep f verify)

/-- A whole plan in range, sent as one last part (R43 to R46): what its bytes stand for is installed exactly as it was sent
where it passes validation and is not in use; validation refuses it with the index of the first step that breaks a condition, a
plan in use with IN_USE. A last part behind staged parts (R42) does the same with the whole image, its own steps appended; a
refusal leaves the staging image as it was.
A part of any bytes is refused by the first check of R43 it fails, in their order: an id out of range, lengths or a last-part
mark that do not agree (R182), a first-step index other than the number of steps staged, more than 32 steps, and a step of no
known kind or named value, whose place the index gives. -/
def Obligations.PlanInstalledAsSent : Prop :=
  (∀ (id : Fin 4) (plan : Plan) (r : Req) (s : State), s.line.deaf = false → plan.HeaderSound → (∀ st ∈ plan.steps, st.Sound) →
    plan.steps.length ≤ 12 → r.fields = partBytes id 0 true (some plan) plan.steps →
    (plan.invalid = none →
      (∀ i : Fin 16, (s.slot i).plan = some id →
        (s.slot i).state ∈ [SlotState.empty, .seated, .done, .faulted]) →
      ∃ u, Answers (.planLoad r) r 0x10#8
          (Reply.ok ([BitVec.ofNat 8 id.val, BitVec.ofNat 8 plan.steps.length] ++ plan.headerBytes ++
            plan.steps.flatMap Step.bytes)) s u ∧
        u.planAt id = some plan ∧ u.stagingAt id = none ∧
        (∀ p : Fin 4, p ≠ id → u.planAt p = s.planAt p ∧ u.stagingAt p = s.stagingAt p) ∧
        u = { s.hunting with plans := u.plans, staging := u.staging }) ∧
    (plan.invalid = none →
      (∃ i : Fin 16, (s.slot i).plan = some id ∧
        (s.slot i).state ∈ [SlotState.waitPower, .spinning, .active, .recovering, .cycling, .lotWait]) →
      Answers (.planLoad r) r 0x10#8 (Reply.refuse .inUse) s s.hunting) ∧
    ∀ k, plan.invalid = some k → Answers (.planLoad r) r 0x10#8 (Reply.refuse (.badArgument k)) s s.hunting) ∧
  (∀ (id : Fin 4) (image : Plan) (steps : List Step) (r : Req) (s : State), s.line.deaf = false → (∀ st ∈ steps, st.Sound) →
    steps.length ≤ 12 → s.stagingAt id = some image → 1 ≤ image.steps.length → image.steps.length ≤ 31 →
    image.steps.length + steps.length ≤ 32 → r.fields = partBytes id image.steps.length true none steps →
    let plan := { image with steps := image.steps ++ steps }
    (plan.invalid = none →
      (∀ i : Fin 16, (s.slot i).plan = some id →
        (s.slot i).state ∈ [SlotState.empty, .seated, .done, .faulted]) →
      ∃ u, Answers (.planLoad r) r 0x10#8
          (Reply.ok ([BitVec.ofNat 8 id.val, BitVec.ofNat 8 (image.steps.length + steps.length)] ++ steps.flatMap Step.bytes))
          s u ∧
        u.planAt id = some plan ∧ u.stagingAt id = none ∧
        (∀ p : Fin 4, p ≠ id → u.planAt p = s.planAt p ∧ u.stagingAt p = s.stagingAt p) ∧
        u = { s.hunting with plans := u.plans, staging := u.staging }) ∧
    (plan.invalid = none →
      (∃ i : Fin 16, (s.slot i).plan = some id ∧
        (s.slot i).state ∈ [SlotState.waitPower, .spinning, .active, .recovering, .cycling, .lotWait]) →
      Answers (.planLoad r) r 0x10#8 (Reply.refuse .inUse) s s.hunting) ∧
    ∀ k, plan.invalid = some k → Answers (.planLoad r) r 0x10#8 (Reply.refuse (.badArgument k)) s s.hunting) ∧
  ∀ (r : Req) (s : State), s.line.deaf = false → 1 ≤ r.fields.length →
    let f := r.fields
    let refuses := fun x : Result => Answers (.planLoad r) r 0x10#8 (Reply.refuse x) s s.hunting
    (4 ≤ fieldAt f 0 1 → refuses (.badArgument 255)) ∧
    (fieldAt f 0 1 < 4 →
      (f.length < 3 ∨ 1 < fieldAt f 2 1 ∨ (fieldAt f 1 1 = 0 ∧ ∀ n, n ≤ 12 → f.length ≠ 38 + 16 * n) ∨
        (fieldAt f 1 1 ≠ 0 ∧ ∀ n, n ≤ 12 → f.length ≠ 3 + 16 * n)) → refuses .malformed) ∧
    ∀ (id : Fin 4) (n : Nat), fieldAt f 0 1 = id.val → fieldAt f 2 1 ≤ 1 → n ≤ 12 →
      f.length = (if fieldAt f 1 1 = 0 then 38 else 3) + 16 * n →
      (fieldAt f 1 1 ≠ 0 → (∀ x, s.stagingAt id = some x → x.steps.length ≠ fieldAt f 1 1) → refuses .badState) ∧
      (∀ x, s.stagingAt id = some x → x.steps.length = fieldAt f 1 1 → 32 < fieldAt f 1 1 + n →
        refuses (.badArgument 32)) ∧
      ∀ (before : List Step) (e rest : List Byte), (∀ st ∈ before, st.Sound) → e.length = 16 →
        f.drop (if fieldAt f 1 1 = 0 then 38 else 3) = before.flatMap Step.bytes ++ e ++ rest →
        (fieldAt f 1 1 = 0 ∨ ∃ x, s.stagingAt id = some x ∧ x.steps.length = fieldAt f 1 1 ∧ fieldAt f 1 1 + n ≤ 32) →
        (fieldAt e 0 1 = 0 ∨ 9 < fieldAt e 0 1 ∨
          ((fieldAt e 0 1 = 4 ∨ fieldAt e 0 1 = 5) ∧
            (3 < fieldAt e 6 1 ∨ 1 < fieldAt e 7 1 ∨ 3 < fieldAt e 10 1 ∨ 1 < fieldAt e 11 1)) ∨
          (fieldAt e 0 1 = 5 ∧ 1 < fieldAt e 12 1) ∨ (fieldAt e 0 1 = 6 ∧ 1 < fieldAt e 11 1)) →
        refuses (.badArgument (fieldAt f 1 1 + before.length))

/-- A profile in range (R129 to R131, R188): what its 52 bytes stand for is installed exactly as it was sent where it is not in
use, and refused with IN_USE where it is.
Of any 52 bytes whose presence marks are yes or no the numeric fields are clamped and installed so (R130); a profile id out of
range, another length and another mark are refused, in that order. -/
def Obligations.ProfileInstalledAsSent : Prop :=
  (∀ (id : Fin 4) (f : Profile) (r : Req) (s : State), s.line.deaf = false → f.Sound → r.fields = f.bytes id →
    (f.bytes id).length = 52 ∧
    ((∀ i : Fin 16, (s.slot i).profile = some id → (s.slot i).state ∈ [SlotState.empty, .seated, .done, .faulted]) →
      (∀ x ∈ s.lots.opens ++ s.lots.full, x.profile ≠ id) →
      ∃ u, Answers (.profileLoad r) r 0x11#8 (Reply.ok (f.bytes id)) s u ∧ u.profileAt id = some f ∧
        (∀ p : Fin 4, p ≠ id → u.profileAt p = s.profileAt p) ∧ u = { s.hunting with profiles := u.profiles }) ∧
    ((∃ i : Fin 16, (s.slot i).profile = some id ∧
          (s.slot i).state ∈ [SlotState.waitPower, .spinning, .active, .recovering, .cycling, .lotWait]) ∨
        (∃ x ∈ s.lots.opens ++ s.lots.full, x.profile = id) →
      Answers (.profileLoad r) r 0x11#8 (Reply.refuse .inUse) s s.hunting)) ∧
  ∀ (r : Req) (s : State), s.line.deaf = false → 1 ≤ r.fields.length →
    let f := r.fields
    let refuses := fun x : Result => Answers (.profileLoad r) r 0x11#8 (Reply.refuse x) s s.hunting
    (4 ≤ fieldAt f 0 1 → refuses (.badArgument 0)) ∧
    (fieldAt f 0 1 < 4 → f.length ≠ 52 → refuses .malformed) ∧
    (fieldAt f 0 1 < 4 → f.length = 52 → ∀ k : Fin 4, 1 < fieldAt f (16 + 9 * k.val) 1 →
      (∀ j : Fin 4, j < k → fieldAt f (16 + 9 * j.val) 1 ≤ 1) → refuses (.badArgument (13 + k.val))) ∧
    ∀ id : Fin 4, fieldAt f 0 1 = id.val → f.length = 52 → (∀ k : Fin 4, fieldAt f (16 + 9 * k.val) 1 ≤ 1) →
      (∀ i : Fin 16, (s.slot i).profile = some id → (s.slot i).state ∈ [SlotState.empty, .seated, .done, .faulted]) →
      (∀ x ∈ s.lots.opens ++ s.lots.full, x.profile ≠ id) →
      let bin := fun k => if fieldAt f k 1 = 1 then
        some { dmax := min 8608800 (fieldAt f (k + 1) 4), umax := min 4095 (fieldAt f (k + 5) 2)
               wmax := min 4095 (fieldAt f (k + 7) 2) : BinEntry } else none
      ∃ u x, Answers (.profileLoad r) r 0x11#8 (Reply.ok (x.bytes id)) s u ∧ u.profileAt id = some x ∧
        u = { s.hunting with profiles := u.profiles } ∧
        x = { weights :=
                { u := fieldAt f 1 1, k := fieldAt f 2 1, m := fieldAt f 3 1, w := fieldAt f 4 1, r := fieldAt f 5 1
                  p := fieldAt f 6 1, e := fieldAt f 7 1, l := fieldAt f 8 1, s := fieldAt f 9 1 }
              nominalRate := max 1 (min 1000000 (fieldAt f 10 4)), lotCapacity := max 1 (min 48 (fieldAt f 14 1))
              retestLimit := min 3 (fieldAt f 15 1), binA := bin 16, binB := bin 25, binC := bin 34, binD := bin 43 }

/-! ### Zones -/

/-- ZONE SET with RUN (R112, R113): outside FAULT and with T present the clamped settings are stored and the ramp starts from T,
the heater off, with no demand its allowance 0 (R33, R34), and the fan as it was; else it is refused with BAD_STATE. A
commitment that changed is followed by an admission evaluation (R31). That RUN sets the allowance is the model's reading (log
entry 29). ZONE SET with STOP (R112, R114): in OFF, RAMP and SOAK the clamped settings are stored and the zone is in COOL with
its heater off and its fan at 100 %, every other zone takes the share of R35, and a commitment that changed is followed by an
admission evaluation; in COOL only the settings change (the model's choice between R114 and R35, log entry 34); in FAULT it is
refused with BAD_STATE. -/
def Obligations.ZoneSetRunAndStop : Prop :=
  (∀ (z : Fin 4) (a b c d e f g : Byte) (r : Req) (s : State), s.line.deaf = false →
     r.fields = [BitVec.ofNat 8 z.val, a, b, c, d, e, f, g] →
     (∀ t, (s.zone z).state ≠ .fault → (s.zone z).temp = some t →
       ∃ v u, Answers (.zoneSetRun r) (withAction .run r) 0x13#8 (Reply.ok ((u.zone z).record z)) s u ∧ AdmissionOnly v u ∧
         u = (if (s.zone z).commit = 0 then v else admission v) ∧
         v = s.hunting.setZone z { s.zone z with
           set := settingsOf a b c d e f g, state := .ramp, fine := t * 60, inBand := false, noticed := false
           demand := 0, applied := 0, commit := 0, allowance := 0 }) ∧
     ((s.zone z).state = .fault ∨ (s.zone z).temp = none →
       Answers (.zoneSetRun r) (withAction .run r) 0x13#8 (Reply.refuse .badState) s s.hunting)) ∧
  (∀ (z : Fin 4) (a b c d e f g : Byte) (r : Req) (s : State), s.line.deaf = false →
     r.fields = [BitVec.ofNat 8 z.val, a, b, c, d, e, f, g] →
     let share := heaterPoolOf s.power.budget s / demandersIn ([0, 1, 2, 3].filter fun y => decide (y ≠ z)) s
     ((s.zone z).state = .cool →
       Answers (.zoneSetStop r) (withAction .stop r) 0x13#8
         (Reply.ok (({ s.zone z with set := settingsOf a b c d e f g } : Zone).record z)) s
         (s.hunting.setZone z { s.zone z with set := settingsOf a b c d e f g })) ∧
     ((s.zone z).state ∈ [ZoneState.off, .ramp, .soak] →
       ∃ v u, Answers (.zoneSetStop r) (withAction .stop r) 0x13#8 (Reply.ok ((u.zone z).record z)) s u ∧ AdmissionOnly v u ∧
         u = (if ∀ y : Fin 4, (v.zone y).commit = (s.zone y).commit then v else admission v) ∧
         v = { s.hunting with zones := v.zones } ∧
         v.zone z = { s.zone z with
           set := settingsOf a b c d e f g, state := .cool, inBand := false, demand := 0, applied := 0, commit := 0, fan := 100
           allowance := 0 } ∧
         ∀ y : Fin 4, y ≠ z → v.zone y = (s.zone y).allowed (s.power.cost.get y) ((s.zone y).shareOf share)) ∧
     ((s.zone z).state = .fault →
       Answers (.zoneSetStop r) (withAction .stop r) 0x13#8 (Reply.refuse .badState) s s.hunting))

/-- ZONE SET with CLEAR (R112, R115): in FAULT, the last read good and T below the limit of the settings sent, the zone goes to
OFF with its fan at the minimum; else it is refused with BAD_STATE. A slot of the zone in ACTIVE that is not held goes on where
it stood (R17, R58), here where it is the only one of its zone; with none such, nothing else changes. -/
def Obligations.ZoneSetClear : Prop :=
  ∀ (z : Fin 4) (a b c d e f g : Byte) (r : Req) (s : State), s.line.deaf = false →
    r.fields = [BitVec.ofNat 8 z.val, a, b, c, d, e, f, g] →
    let set := settingsOf a b c d e f g
    let mayClear := (s.zone z).state = .fault ∧ (s.zone z).miss = 0 ∧
      ∃ t, (s.zone z).temp = some t ∧ t < min ((set.setpoint : Int) + set.margin) 380
    (mayClear →
      ∃ u, Answers (.zoneSetClear r) (withAction .clear r) 0x13#8 (Reply.ok ((u.zone z).record z)) s u ∧
        Untouched (s.hunting.setZone z { s.zone z with set := set, state := .off, reason := .none, fan := set.fanMin }) u ∧
        let v := s.hunting.setZone z { s.zone z with set := set, state := .off, reason := .none, fan := set.fanMin }
        let still := fun j : Fin 16 => (s.slot j).state ≠ .active ∨ (s.slot j).held = true
        ((∀ j : Fin 16, zoneOf j = z → still j) → u = v) ∧
        ∀ (i : Fin 16) (plan : Plan), zoneOf i = z → (s.slot i).state = .active → (s.slot i).held = false →
          s.planOf i = some plan → (∀ j : Fin 16, zoneOf j = z → j ≠ i → still j) → Resumes i plan v u) ∧
    (¬ mayClear → Answers (.zoneSetClear r) (withAction .clear r) 0x13#8 (Reply.refuse .badState) s s.hunting)

/-- The sensor bus carries one read at a time, of the zones in turn (R116); a start while one is in progress changes nothing
(the model's choice, log entries 7 and 15). -/
def Obligations.SensorBusTakesTurns : Prop :=
  ∀ s : State, ∃ t, exec .sensorReadStart s = .next t ∧ SameOutsideSlots s { t with bus := s.bus } ∧ t.slots = s.slots ∧
    (s.bus.reading = none → t.bus = { reading := some s.bus.turn, turn := s.bus.turn + 1 }) ∧
    (s.bus.reading.isSome = true → t.bus = s.bus)

/-- A control period that finds a fault (R117, R118, R124): a third miss is SENSOR, a good reading at or above the limit is
OVER. The zone is in FAULT with its heater off and its fan at 100 %, every other zone takes the share of R35, ZONE_FAULT is
raised, and the running bands of the zone's slots are void (R106); but for the slots that wait for power every other record
stays. Where a commitment changed admission has been evaluated: another evaluation repeats its result (R31). That a period is
taken whatever the bus carries, and frees it only where it carried the zone's read, is the model's reading (log entry 15). -/
def Obligations.ControlPeriodFaults : Prop :=
  ∀ (z : Fin 4) (read : SensorRead) (reason : ZoneReason) (temp : Option Int) (miss : Nat) (s : State),
    (s.zone z).state ≠ .fault →
    ((goodRead read = none ∧ 2 ≤ (s.zone z).miss ∧ reason = .sensor ∧ temp = (s.zone z).temp ∧ miss = 3) ∨
      ∃ t, goodRead read = some t ∧ min (((s.zone z).set.setpoint : Int) + (s.zone z).set.margin) 380 ≤ t ∧ reason = .over ∧
        temp = some t ∧ miss = 0) →
    let share := heaterPoolOf s.power.budget s / demandersIn ([0, 1, 2, 3].filter fun y => decide (y ≠ z)) s
    ∃ t, exec (.controlPeriod z read) s = .next t ∧
      t.zone z = { s.zone z with
        temp := temp, miss := miss, state := .fault, reason := reason, inBand := false, demand := 0, applied := 0, commit := 0
        fan := 100, allowance := 0 } ∧
      (∀ y : Fin 4, y ≠ z → t.zone y = (s.zone y).allowed (s.power.cost.get y) ((s.zone y).shareOf share)) ∧
      t.bus = (if s.bus.reading = some z then { s.bus with reading := none } else s.bus) ∧
      t.line = s.line.raised z.val (.zoneFault reason temp (s.zone z).state) ∧
      t.power = { s.power with pointer := t.power.pointer, reservation := t.power.reservation } ∧
      t.plans = s.plans ∧ t.staging = s.staging ∧ t.profiles = s.profiles ∧ t.lots = s.lots ∧ t.pool = s.pool ∧
      t.work = s.work ∧ t.now = s.now ∧ t.pending = s.pending ∧
      ((∃ y : Fin 4, (t.zone y).commit ≠ (s.zone y).commit) → admission t = t) ∧
      ∀ i : Fin 16, (s.slot i).state ≠ .waitPower →
        t.slot i =
          if zoneOf i = z then
            { s.slot i with sweep := { (s.slot i).sweep with bands := (s.slot i).sweep.bands.map Band.stopped } }
          else s.slot i

/-- A control period that finds no fault, in OFF, COOL or FAULT (R117, R122, R124): T and the miss count take the read; OFF
keeps the fan at its minimum, COOL at 100 % until T is at most 140 quarter degrees and the zone is OFF, both with the heater
off, and a commitment that fell is followed by an admission evaluation (R31); FAULT keeps the rest. The sensor bus is free again
where it carried the zone's read (log entry 15). -/
def Obligations.ControlPeriodUnheated : Prop :=
  ∀ (z : Fin 4) (read : SensorRead) (temp : Option Int) (miss : Nat) (s : State),
    ((goodRead read = none ∧ temp = (s.zone z).temp ∧ miss = min 3 ((s.zone z).miss + 1)) ∨
      ∃ t, goodRead read = some t ∧ temp = some t ∧ miss = 0) →
    let bus := if s.bus.reading = some z then { s.bus with reading := none } else s.bus
    let x := { s.zone z with temp := temp, miss := miss }
    let off := { x with demand := 0, applied := 0, commit := 0, allowance := 0 }
    ((s.zone z).state = .fault → ∃ t, exec (.controlPeriod z read) s = .next t ∧ t.slots = s.slots ∧
      SameOutsideSlots ({ s with bus := bus }.setZone z x) t) ∧
    ((s.zone z).state = .off ∨ (s.zone z).state = .cool →
      (goodRead read = none → (s.zone z).miss < 2) →
      (∀ t, goodRead read = some t → t < min (((s.zone z).set.setpoint : Int) + (s.zone z).set.margin) 380) →
      let v := { s with bus := bus }.setZone z
          (if (s.zone z).state = ZoneState.cool then
            if temp.any fun c => decide (c ≤ 140) then { off with state := .off, fan := (s.zone z).set.fanMin } else { off with fan := 100 }
          else { off with fan := (s.zone z).set.fanMin })
      ∃ t, exec (.controlPeriod z read) s = .next t ∧ AdmissionOnly v t ∧
        t = refreshLamps (if (s.zone z).commit = 0 then v else admission v))

/-- A control period in RAMP or SOAK that finds no fault and ends no DWELL (R119 to R121, R123, R125): the target moves by the
rate and the zone is in SOAK where it reaches the setpoint; the band test, the demand, the fan, the allowance of R34 and the
duty follow, and a commitment that changed is followed by an admission evaluation (R31); in SOAK and in band each slot in ACTIVE
that is not held gains a second, and one of its DWELL. That a period frees the bus only where it carried the zone's read is the
model's reading (log entry 15).
The credit that completes a DWELL ends the step, and the next begins, here a HEALTH step of a spun drive (R48, R56); where a
SLOT HOLD or a zone's FAULT meets the credit the next step waits in WAITING (R62; what meets is the model's choice, log entry
36). -/
def Obligations.ControlPeriodHeated : Prop :=
  (∀ (z : Fin 4) (read : SensorRead) (temp : Int) (miss : Nat) (s : State),
    ((s.zone z).state = .ramp ∨ (s.zone z).state = .soak) →
    ((goodRead read = none ∧ (s.zone z).temp = some temp ∧ (s.zone z).miss < 2 ∧ miss = (s.zone z).miss + 1) ∨
      (goodRead read = some temp ∧ temp < min (((s.zone z).set.setpoint : Int) + (s.zone z).set.margin) 380 ∧ miss = 0)) →
    (∀ i : Fin 16, zoneOf i = z → ∀ m, s.stepAt i = some (.dwell m) → (s.slot i).exec.dwell + 1 < m * 60) →
    let set := (s.zone z).set
    let goal : Int := 60 * set.setpoint
    let moved : Int :=
      if (s.zone z).fine < goal then min goal ((s.zone z).fine + set.rate) else max goal ((s.zone z).fine - set.rate)
    let fine := if (s.zone z).state = .ramp then moved else (s.zone z).fine
    let soak := (s.zone z).state = .soak ∨ moved = goal
    let inBand := decide (soak ∧ (temp - set.setpoint).natAbs ≤ set.band)
    let target : Int := if soak then set.setpoint else fine.fdiv 60
    let demand := (max 0 (min 100 ((target - temp) * set.kp))).toNat
    ∃ t, exec (.controlPeriod z read) s = .next t ∧
      (∃ allowance applied, t.zone z = { s.zone z with
          temp := some temp, miss := miss, fine := fine, state := if soak then .soak else .ramp, inBand := inBand
          noticed := inBand || ((s.zone z).noticed && decide ((s.zone z).state = .soak ∨ moved ≠ goal))
          demand := demand, fan := (max (set.fanMin : Int) (min 100 ((temp - target) * set.kf))).toNat
          allowance := allowance, applied := applied, commit := (s.power.cost.get z * applied + 99) / 100 } ∧
        applied = min demand (allowance * 100 / s.power.cost.get z) ∧
        allowance = (if demand = 0 then 0 else
          min (heaterPoolOf s.power.budget s / (1 + demandersIn ([0, 1, 2, 3].filter fun y => decide (y ≠ z)) s))
            (s.power.budget - s.driveTotal - (([0, 1, 2, 3].filter fun y => decide (y ≠ z)).map fun y => (s.zone y).commit).sum))) ∧
      (∀ y : Fin 4, y ≠ z → t.zone y = s.zone y) ∧
      t.line = (if inBand && !((s.zone z).noticed && decide ((s.zone z).state = .soak)) then
        s.line.raised z.val (.zoneInBand temp set.setpoint) else s.line) ∧
      t.lots = s.lots ∧ t.pool = s.pool ∧ t.work = s.work ∧ t.plans = s.plans ∧ t.staging = s.staging ∧
      t.profiles = s.profiles ∧ t.now = s.now ∧ t.pending = s.pending ∧
      t.bus = (if s.bus.reading = some z then { s.bus with reading := none } else s.bus) ∧
      t.power = { s.power with pointer := t.power.pointer, reservation := t.power.reservation } ∧
      ((t.zone z).commit ≠ (s.zone z).commit → admission t = t) ∧
      ∀ i : Fin 16, (s.slot i).state ≠ .waitPower →
        t.slot i =
          if zoneOf i = z ∧ inBand = true ∧ (s.slot i).state = .active ∧ (s.slot i).held = false then
            { s.slot i with
              acc := { (s.slot i).acc with exposure := min ((s.slot i).acc.exposure + 1) 4294967295 }
              exec :=
                if (s.dwellGoal i).isSome = true ∧ (s.slot i).exec.phase = .working then
                  { (s.slot i).exec with dwell := (s.slot i).exec.dwell + 1 }
                else (s.slot i).exec }
          else s.slot i) ∧
  ∀ (i : Fin 16) (plan : Plan) (m : Nat) (s : State), (s.slot i).state = .active → (s.slot i).held = false →
    (s.zone (zoneOf i)).state ≠ .fault → s.planOf i = some plan → (s.slot i).exec.phase = .working → (s.slot i).spun = true →
    plan.steps[(s.slot i).exec.index]? = some (.dwell m) → m * 60 ≤ (s.slot i).exec.dwell + 1 →
    plan.steps[(s.slot i).exec.index + 1]? = some .health →
    credit i s = s.setSlot i (
      if s.pauseMeets i then
        { s.slot i with
          acc := { (s.slot i).acc with exposure := min ((s.slot i).acc.exposure + 1) 4294967295 }
          exec := { (s.slot i).exec with
            phase := .waiting, index := (s.slot i).exec.index + 1, dwell := (s.slot i).exec.dwell + 1, timer := none }
          op := { (s.slot i).op with interrupted := none }
          sweep := (s.slot i).sweep.retired }
      else
        { s.slot i with
          acc := { (s.slot i).acc with exposure := min ((s.slot i).acc.exposure + 1) 4294967295 }
          exec := { (s.slot i).exec with index := (s.slot i).exec.index + 1, dwell := 0, timer := none }
          op := { (s.slot i).op.sending .health s.now plan.healthTimeout with stage := 0, interrupted := none }
          sweep := (s.slot i).sweep.retired })

/-! ### Lots and grading -/

/-- LOT TAKE with take yes (R151, R153, R154): the checks in their order; the head lot leaves the manifest after its reply has
been formed, and with no slot waiting the FULL lots fill the room in order, each closed now and reported.
With slots waiting (R151 steps 2 and 3), from a full manifest and under the laws of lots and waits (LotLawKept,
LotWaitAndSerialLawsKept): the head FULL lot closes, a new lot of its key takes the slots that wait for it in list order up to
its capacity, and is FULL at the tail where it reaches it; the others keep their places. -/
def Obligations.LotTakeRemovesAndDrains : Prop :=
  ∀ (number first : Nat) (r : Req) (s : State), s.line.deaf = false → number < 65536 → first < 256 →
    r.fields = le 2 number ++ le 1 first →
    (s.lots.manifest = [] →
      Answers (.lotTakeTakeYes r) (withTake 1#8 r) 0x31#8 (Reply.refuse .notFound) s s.hunting) ∧
    ∀ (x : Lot) (rest : List Lot), s.lots.manifest = x :: rest →
      (number ≠ 0 → number ≠ x.number →
        Answers (.lotTakeTakeYes r) (withTake 1#8 r) 0x31#8 (Reply.refuse .notFound) s s.hunting) ∧
      (number = 0 → Answers (.lotTakeTakeYes r) (withTake 1#8 r) 0x31#8 (Reply.refuse (.badArgument 0)) s s.hunting) ∧
      (number ≠ 0 → number = x.number → x.members.length < first →
        Answers (.lotTakeTakeYes r) (withTake 1#8 r) 0x31#8 (Reply.refuse (.badArgument 1)) s s.hunting) ∧
      (number ≠ 0 → number = x.number → first ≤ x.members.length →
        ∃ u, Answers (.lotTakeTakeYes r) (withTake 1#8 r) 0x31#8 (Reply.ok (x.takeBytes first)) s u ∧ Untouched s.hunting u ∧
          (s.lots.waiting = [] →
            let drained := s.lots.full.take (8 - rest.length)
            u.lots = { s.lots with
              manifest := rest ++ drained.map fun y => { y with closed := some s.line.time }
              full := s.lots.full.drop (8 - rest.length) } ∧
            u.line = drained.foldl (fun l y => l.raised y.number (.lotClosed y.profile y.bin y.members.length .drain))
              s.hunting.line ∧
            u = { s.hunting with lots := u.lots, line := u.line }) ∧
          ∀ (y : Lot) (more : List Lot), LotLaw s → LotWaitLaw s → rest.length = 7 → s.lots.full = y :: more →
            let joiners := (s.lots.waiting.filter fun j =>
              decide ((s.slot j).profile = some y.profile) && decide ((s.slot j).outcome = some (.bin y.bin)))
            let capacity := ((s.profileAt y.profile).map Profile.lotCapacity).getD 1
            let joined := joiners.take capacity
            ∃ z : Lot, z.profile = y.profile ∧ z.bin = y.bin ∧ z.capacity = capacity ∧ z.opened = s.line.time ∧
              z.closed = none ∧ z.members = joined.map (fun j => (s.slot j).member j) ∧
              z.number ∉ (rest ++ s.lots.full ++ s.lots.opens).map Lot.number ∧
              u = { s.hunting with lots := u.lots, line := u.line, slots := u.slots } ∧
              u.line = s.hunting.line.raised y.number (.lotClosed y.profile y.bin y.members.length .drain) ∧
              u.lots.manifest = rest ++ [{ y with closed := some s.line.time }] ∧
              u.lots.waiting = s.lots.waiting.filter (fun j => decide (j ∉ joined)) ∧
              u.lots.full = (if capacity ≤ joiners.length then more ++ [z] else more) ∧
              u.lots.opens = (if joiners = [] ∨ capacity ≤ joiners.length then s.lots.opens else s.lots.opens ++ [z]) ∧
              u.lots.next = (if joiners = [] then s.lots.next else if 65535 ≤ z.number then 1 else z.number + 1) ∧
              ∀ j : Fin 16, u.slot j =
                if j ∈ joined then { s.slot j with state := .done, lotNumber := some z.number } else s.slot j)

/-- LOT CLOSE (R155): the OPEN lot of the key goes to the manifest with LOT_CLOSED, or becomes FULL where the manifest holds 8;
no lot of the key is NOT_FOUND, a FULL one BAD_STATE, a profile or bin out of range BAD_ARGUMENT. -/
def Obligations.LotCloseMovesTheLot : Prop :=
  (∀ (p : Fin 4) (b : Bin) (r : Req) (s : State), s.line.deaf = false → r.fields = [BitVec.ofNat 8 p.val, b.code] →
     (s.lots.openLot p b = none → s.lots.fullLot p b = none →
       Answers (.lotClose r) r 0x32#8 (Reply.refuse .notFound) s s.hunting) ∧
     ((s.lots.fullLot p b).isSome = true → Answers (.lotClose r) r 0x32#8 (Reply.refuse .badState) s s.hunting) ∧
     ∀ x, s.lots.openLot p b = some x → s.lots.fullLot p b = none →
       (s.lots.manifest.length < 8 →
         Answers (.lotClose r) r 0x32#8 (Reply.ok (le 2 x.number ++ [2#8])) s
           ((s.hunting.withLots { s.lots with
               opens := s.lots.opens.filter fun y => decide (y.number ≠ x.number)
               manifest := s.lots.manifest ++ [{ x with closed := some s.line.time }] }).withLine
             (s.hunting.line.raised x.number (.lotClosed x.profile x.bin x.members.length .close)))) ∧
       (8 ≤ s.lots.manifest.length →
         Answers (.lotClose r) r 0x32#8 (Reply.ok (le 2 x.number ++ [1#8])) s
           (s.hunting.withLots { s.lots with
             opens := s.lots.opens.filter fun y => decide (y.number ≠ x.number), full := s.lots.full ++ [x] }))) ∧
  ∀ (a b : Byte) (r : Req) (s : State), s.line.deaf = false → r.fields = [a, b] →
    (4 ≤ a.toNat → Answers (.lotClose r) r 0x32#8 (Reply.refuse (.badArgument 0)) s s.hunting) ∧
      (a.toNat < 4 → 4 ≤ b.toNat → Answers (.lotClose r) r 0x32#8 (Reply.refuse (.badArgument 1)) s s.hunting)

/-- LOT EXCLUDE (R156, R157), lot numbers being distinct (LotLawKept): the member leaves an OPEN lot, or a FULL one, which
becomes OPEN; into a lot that was OPEN, or whose key no slot waits for, none joins, and the slots that wait go on waiting; a lot
left empty is discarded; the slot that still holds the drive turns to REJECT, DEMERIT. A serial in the manifest alone is
BAD_STATE, one in no lot NOT_FOUND. The refill (R156), under the laws of lots, waits and serials (LotLawKept,
LotWaitAndSerialLawsKept): a FULL lot made OPEN takes the slots that wait for its key in list order up to its capacity, is FULL
again at the tail where it reaches it, and stays OPEN otherwise; the reply says how many joined. -/
def Obligations.LotExcludeTakesTheMember : Prop :=
  ∀ (r : Req) (s : State), s.line.deaf = false → r.fields.length = 20 → (s.lots.all.map Lot.number).Nodup →
    let holds := fun x : Lot => ∃ m ∈ x.members, m.serial = r.fields
    ((∀ x ∈ s.lots.all, ¬ holds x) → Answers (.lotExclude r) r 0x33#8 (Reply.refuse .notFound) s s.hunting) ∧
    ((∀ x ∈ s.lots.opens ++ s.lots.full, ¬ holds x) → (∃ x ∈ s.lots.manifest, holds x) →
      Answers (.lotExclude r) r 0x33#8 (Reply.refuse .badState) s s.hunting) ∧
    (∀ (x : Lot) (before after : List Member) (m : Member), x.members = before ++ m :: after → m.serial = r.fields →
      (∀ k ∈ before, k.serial ≠ r.fields) →
      let y := { x with members := before ++ after }
      let empty := before.isEmpty && after.isEmpty
      let excluded := fun i : Fin 16 => (s.slot i).state = .done ∧
        (s.slot i).identity.map Identity.serial = some r.fields ∧ (s.slot i).lotNumber = some x.number
      (x ∈ s.lots.opens ∧ s.lots.opens.find? (Lot.holds r.fields) = some x ∨
        (∀ o ∈ s.lots.opens, ¬ holds o) ∧ s.lots.full.find? (Lot.holds r.fields) = some x ∧
          ∀ j ∈ s.lots.waiting, ¬ ((s.slot j).profile = some x.profile ∧ (s.slot j).outcome = some (.bin x.bin))) →
      ∃ u code slot, Answers (.lotExclude r) r 0x33#8 (Reply.ok (le 2 x.number ++ [code, 0#8, slot])) s u ∧
        code = (if empty then 3#8 else 0#8) ∧
        u = { s.hunting with lots := u.lots, slots := u.slots } ∧
        u.lots.full = s.lots.full.filter (fun z => decide (z.number ≠ x.number)) ∧
        u.lots.manifest = s.lots.manifest ∧ u.lots.next = s.lots.next ∧ u.lots.waiting = s.lots.waiting ∧
        (∀ z ∈ u.lots.opens, z = y ∨ (z ∈ s.lots.opens ∧ z.number ≠ x.number)) ∧
        (∀ z ∈ s.lots.opens, z.number ≠ x.number → z.members ≠ [] → z ∈ u.lots.opens) ∧
        (y ∈ u.lots.opens ↔ empty = false) ∧
        ((∀ i, ¬ excluded i) → slot = 0xFF#8 ∧ u.slots = s.slots) ∧
        ∀ i, excluded i → (∀ j, excluded j → j = i) → slot = BitVec.ofNat 8 i.val ∧
          (∀ j : Fin 16, j ≠ i → u.slot j = s.slot j) ∧
          u.slot i = { s.slot i with outcome := some .reject, reason := .demerit, lotNumber := none }) ∧
    ∀ (x : Lot) (before after : List Member) (m : Member), LotLaw s → LotWaitLaw s → SerialLaw s →
      x ∈ s.lots.full → x.members = before ++ m :: after → m.serial = r.fields →
      let joiners := (s.lots.waiting.filter fun j =>
        decide ((s.slot j).profile = some x.profile) && decide ((s.slot j).outcome = some (.bin x.bin)))
      let joined := joiners.take (x.capacity - (before ++ after).length)
      let y := { x with members := before ++ after ++ joined.map fun j => (s.slot j).member j }
      let excluded := fun i : Fin 16 => (s.slot i).state = .done ∧
        (s.slot i).identity.map Identity.serial = some r.fields ∧ (s.slot i).lotNumber = some x.number
      joiners ≠ [] →
      ∃ u slot, Answers (.lotExclude r) r 0x33#8
          (Reply.ok (le 2 x.number ++ [if x.capacity ≤ y.members.length then 1#8 else 0#8] ++
            [BitVec.ofNat 8 joined.length, slot])) s u ∧
        u = { s.hunting with lots := u.lots, slots := u.slots } ∧ u.lots.manifest = s.lots.manifest ∧
        u.lots.next = s.lots.next ∧ u.lots.waiting = s.lots.waiting.filter (fun j => decide (j ∉ joined)) ∧
        u.lots.full = (s.lots.full.filter fun z => decide (z.number ≠ x.number)) ++
          (if x.capacity ≤ y.members.length then [y] else []) ∧
        u.lots.opens = s.lots.opens ++ (if x.capacity ≤ y.members.length then [] else [y]) ∧
        ((∀ i, ¬ excluded i) → slot = 0xFF#8) ∧ (∀ i, excluded i → slot = BitVec.ofNat 8 i.val) ∧
        ∀ j : Fin 16,
          (j ∈ joined → u.slot j = { s.slot j with state := .done, lotNumber := some x.number }) ∧
          (excluded j → u.slot j = { s.slot j with outcome := some .reject, reason := .demerit, lotNumber := none }) ∧
          (j ∉ joined → ¬ excluded j → u.slot j = s.slot j)

/-- A grade record that reaches the lot builder (R148 to R150): behind a FULL lot of its key the slot waits, with LOT_WAIT; an
OPEN one takes it; with neither a lot is opened for it under the next number no lot held bears. The lot it fills goes to the
manifest, or is FULL where the manifest holds 8. -/
def Obligations.GradeReachesTheLots : Prop :=
  ∀ (i : Fin 16) (p : Fin 4) (b : Bin) (s : State),
    let member : Member :=
      { serial := ((s.slot i).identity.map Identity.serial).getD [], slot := i
        demerit := ((s.slot i).grade.map Grade.demerit).getD 0, time := ((s.slot i).grade.map Grade.time).getD 0 }
    (∀ x, s.lots.fullLot p b = some x →
      giveGrade i p b s = ((s.setSlot i { s.slot i with state := .lotWait }).withLots
          { s.lots with waiting := s.lots.waiting ++ [i] }).withLine
        (s.line.raised i.val (.lotWait p b x.number (s.lots.waiting.length + 1)))) ∧
    (s.lots.fullLot p b = none →
      ∃ x opens next, (∀ o, s.lots.openLot p b = some o → x = o ∧ opens = s.lots.opens ∧ next = s.lots.next) ∧
        (s.lots.openLot p b = none →
          x.profile = p ∧ x.bin = b ∧ x.opened = s.line.time ∧ x.closed = none ∧ x.members = [] ∧
          x.capacity = ((s.profileAt p).map Profile.lotCapacity).getD 1 ∧ opens = s.lots.opens ++ [x] ∧
          next = (if 65535 ≤ x.number then 1 else x.number + 1) ∧
          (s.lots.next ∉ s.lots.all.map Lot.number → x.number = s.lots.next) ∧
          (s.lots.all.length ≤ 24 → x.number ∉ s.lots.all.map Lot.number)) ∧
        let y := { x with members := x.members ++ [member] }
        let others := (opens.map fun z => if z.number = x.number then y else z).filter fun z => decide (z.number ≠ x.number)
        let t := s.setSlot i { s.slot i with state := .done, lotNumber := some x.number }
        (x.members.length + 1 < x.capacity →
          giveGrade i p b s = t.withLots { s.lots with
            opens := opens.map fun z => if z.number = x.number then y else z, next := next }) ∧
        (x.capacity ≤ x.members.length + 1 → s.lots.manifest.length < 8 →
          giveGrade i p b s = (t.withLots { s.lots with
              opens := others, next := next, manifest := s.lots.manifest ++ [{ y with closed := some s.line.time }] }).withLine
            (s.line.raised x.number (.lotClosed x.profile x.bin (x.members.length + 1) .filled))) ∧
        (x.capacity ≤ x.members.length + 1 → 8 ≤ s.lots.manifest.length →
          giveGrade i p b s = t.withLots { s.lots with opens := others, next := next, full := s.lots.full ++ [y] }))

/-- What the grader finds (R133 to R142): INCOMPLETE without an identity; at a gate missed a retest while the limit allows one,
else INCOMPLETE; else the demerit of R141 and the first bin present whose three limits hold. That growth goes by what is present
at grading, whichever of HEALTH and IDENT came first, is the model's choice (R138, log entry 38).
What becomes of the run at plan end (R60, R132, R135, R143), here where a HEALTH completion ends the last step: a REJECT ends it
in DONE; a ship bin goes to the lot builder, which GradeReachesTheLots states, with its grade in the record; a retest begins
again with its counts cleared, and past the SPIN step of a spun drive. Where a SLOT HOLD or a zone's FAULT meets that step end
the retest begins SPIN and nothing further (R144); that the two meet where the pause's command waits next, and that the step
after SPIN waits in WAITING, is the model's choice (log entries 36 and 37). -/
def Obligations.GraderFinds : Prop :=
  (∀ (p : Plan) (f : Profile) (x : Slot),
    let a := x.acc
    let short := a.exposure < p.exposure * 60
    let unread := (∃ g, .readSweep g true ∈ p.steps) ∧ a.s = 0
    (x.identity = none → judge p f x = .incomplete) ∧
    ∀ id, x.identity = some id →
      (short → judge p f x = if x.retests < f.retestLimit then .retest .exposure else .incomplete) ∧
      (¬ short → unread → judge p f x = if x.retests < f.retestLimit then .retest .noData else .incomplete) ∧
      (¬ short → ¬ unread → ∃ d bin, judge p f x = .selected d bin ∧
        d = f.weights.u * min a.u 4095 + f.weights.k * min a.k 4095 + f.weights.m * min a.m 4095 + f.weights.w * min a.w 4095
          + f.weights.r * (match a.reallocEnd with | none => 0 | some last => min (last - id.reallocStart) 4095)
          + f.weights.p * (if a.s = 0 then 0 else min (a.c * 1000000 / a.s) 4095)
          + f.weights.e * min a.e 4095 + f.weights.l * min a.l 4095
          + f.weights.s * (1000 - match a.worstBand with | none => 1000 | some w => min (1000 * w / f.nominalRate) 65535) ∧
        let fits := fun b : Bin => ∃ e, f.entry b = some e ∧ d ≤ e.dmax ∧ min a.u 4095 ≤ e.umax ∧
          min a.m 4095 + min a.w 4095 ≤ e.wmax
        (bin = none ↔ ∀ b, ¬ fits b) ∧
        ∀ b, bin = some b ↔ fits b ∧ ∀ c : Bin, c.code.toNat < b.code.toNat → ¬ fits c)) ∧
  ∀ (i : Fin 16) (plan : Plan) (p : Fin 4) (f : Profile) (c : Completion) (n : BitVec 32) (s : State),
    s.planOf i = some plan → (s.slot i).profile = some p → s.profileAt p = some f → (s.slot i).state = .active →
    (s.slot i).op.outstanding = some .health → c.tag = (s.slot i).op.tag → c.status = .done → c.payload = .health n →
    plan.steps.length = (s.slot i).exec.index + 1 →
    let x := { s.slot i with acc := { (s.slot i).acc with reallocEnd := some n.toNat } }
    let ended := fun (verdict : Verdict) (reason : Reason) (grade : Option Grade) (e : Sweep) =>
      { x with
        state := .done, outcome := some verdict, reason := reason, grade := grade, powered := false, spun := false
        exec := { x.exec with phase := .idle, timer := none }
        op := { x.op with outstanding := none, timer := none, returnTo := none, interrupted := none, offTimer := none }
        sweep := e }
    let graded := fun (verdict : Verdict) (reason : Reason) (d : Option Nat) =>
      s.line.raised i.val (.slotGraded (.ended verdict) reason d x.retests none)
    let stopped := fun e : Sweep => e.step = none ∧ e.redo = [] ∧ e.hand = [] ∧ e.pacing = none
    (judge plan f x = .incomplete →
      ∃ t e, exec (.completion i (.record c)) s = .next t ∧ Untouched s t ∧ stopped e ∧ t.lots = s.lots ∧ admission t = t ∧
        t.line = graded .reject .incomplete none ∧ t.slot i = ended .reject .incomplete none e) ∧
    (∀ d, judge plan f x = .selected d none →
      ∃ t e, exec (.completion i (.record c)) s = .next t ∧ Untouched s t ∧ stopped e ∧ t.lots = s.lots ∧ admission t = t ∧
        t.line = graded .reject .demerit (some d) ∧
        t.slot i = ended .reject .demerit (some { demerit := d, time := s.line.time }) e) ∧
    (∀ d b, judge plan f x = .selected d (some b) →
      ∃ v e, exec (.completion i (.record c)) s = .next (refreshLamps (giveGrade i p b v)) ∧ Untouched s v ∧ stopped e ∧
        v.lots = s.lots ∧ admission v = v ∧ v.line = graded (.bin b) .none (some d) ∧
        v.slot i = ended (.bin b) .none (some { demerit := d, time := s.line.time }) e) ∧
    ∀ gate, judge plan f x = .retest gate → x.spun = true → x.held = false → (s.zone (zoneOf i)).state ≠ .fault →
      plan.steps[0]? = some .spin → plan.steps[1]? = some .ident →
      ∃ t, exec (.completion i (.record c)) s = .next t ∧ SameOutsideSlots s { t with line := s.line } ∧
        (∀ j : Fin 16, j ≠ i → t.slot j = s.slot j) ∧
        t.line = s.line.raised i.val (.slotGraded .retest .none none (x.retests + 1) (some gate)) ∧
        t.slot i =
          if s.pauseMeets i then
            { x with
              retests := x.retests + 1, acc := Accum.zero
              exec := { phase := .waiting, index := 1, counters := x.exec.counters.map fun _ => 0, pass := 0, timer := none, dwell := 0 }
              op := { x.op with outstanding := none, timer := none, stage := 0, interrupted := none }
              sweep := x.sweep.retired }
          else
            { x with
              retests := x.retests + 1, acc := Accum.zero
              exec := { phase := .working, index := 1, counters := x.exec.counters.map fun _ => 0, pass := 0, timer := none, dwell := 0 }
              op := { x.op.sending .ident s.now plan.identTimeout with stage := 0, interrupted := none }
              sweep := x.sweep.retired }

/-! ### Drive operations -/

/-- A completion record or data chunk is matched by tag alone (R68, R75): an unreadable record, one with nothing outstanding or
with another tag, or a chunk that answers no outstanding READ, changes nothing; a chunk that does stands in the READ's buffer.
That a second chunk of one READ replaces the first is the model's reading (log entry 21). -/
def Obligations.ChannelMatchedByTag : Prop :=
  ∀ (i : Fin 16) (s : State),
    exec (.completion i .unreadable) s = .next (refreshLamps s) ∧
    (∀ c : Completion, (s.slot i).op.outstanding = none ∨ c.tag ≠ (s.slot i).op.tag →
      exec (.completion i (.record c)) s = .next (refreshLamps s)) ∧
    ∀ (tag : Byte) (data : List Byte),
      ((∀ k, (s.slot i).op.outstanding ≠ some (.read k)) ∨ tag ≠ (s.slot i).op.tag →
        exec (.dataChunk i tag data) s = .next (refreshLamps s)) ∧
      ∀ k, (s.slot i).op.outstanding = some (.read k) → tag = (s.slot i).op.tag →
        ∃ t, exec (.dataChunk i tag data) s = .next t ∧ SameOutsideSlots s t ∧ (∀ j : Fin 16, j ≠ i → t.slot j = s.slot j) ∧
          t.slot i = { s.slot i with sweep := { (s.slot i).sweep with
            hand := (s.slot i).sweep.hand.map fun h => if h.use = .inFlight then { h with data := data } else h } }

/-- An ERROR ABORTED completion of any kind ends the plan (R74): DONE with REJECT and DRIVE_REFUSED, released by R5, SLOT_GRADED
raised; no expiry is counted and the recovery stage stays. Admission has been evaluated (R31). -/
def Obligations.AbortedEndsThePlan : Prop :=
  ∀ (i : Fin 16) (c : Completion) (s : State), (s.slot i).op.outstanding.isSome = true → c.tag = (s.slot i).op.tag →
    c.status = .error → c.error = .aborted → (s.slot i).state ∈ [SlotState.spinning, .active, .recovering] →
    ∃ t, exec (.completion i (.record c)) s = .next t ∧ Untouched s t ∧ t.lots = s.lots ∧ i ∉ t.pool.waiting ∧
      admission t = t ∧ t.line = s.line.raised i.val (.slotGraded (.ended .reject) .driveRefused none (s.slot i).retests none) ∧
      ∃ e : Sweep, e.step = none ∧ e.redo = [] ∧ e.hand = [] ∧ e.pacing = none ∧
        t.slot i = { s.slot i with
          state := .done, outcome := some .reject, reason := .driveRefused, grade := none, powered := false, spun := false
          exec := { (s.slot i).exec with phase := .idle, timer := none }
          op := { (s.slot i).op with
            outstanding := none, timer := none, returnTo := none, interrupted := none, offTimer := none }
          sweep := e }

/-- A DONE completion that ends a step (R48, R51, R70, R71, R159), under no pause: SPIN DONE in a SPIN step makes the slot
ACTIVE and spun, and an IDENT step behind it issues IDENT; IDENT DONE with a sound payload and a serial held nowhere else stores
the identity, and a HEALTH step behind it issues HEALTH; a serial held elsewhere faults the slot with DUPLICATE.
HEALTH DONE stores the count at the end (R52), and a STANDBY step behind it issues STANDBY; STANDBY DONE leaves the drive
powered and not spun (R57), and a DWELL step behind it begins. A REPEAT behind the step that ends jumps back while its counter
is below its count, and is passed with its counter back at 0 otherwise (R49).
A sweep step that begins behind HEALTH (R53, R55, R87, R88, R95): a WRITE SWEEP raises the pass number, the step timer is loaded
(R54) and the engine started with its range, chunk and grid. A SEEK SWEEP issues its first seek, or waits for its first tick; an
engine of chunks is lent what it asks for (R97, R98), the first grid chunk before the second, and joins the wait list where no
buffer is free: a WRITE chunk goes to be filled, a READ chunk is issued under drive pacing and stays prepared under tick pacing
(R92, R93); that lendings are numbered is the model's choice (log entry 5), that the second buffer is lent within the event its
reading (log entry 33). A sweep of an empty range ends at once, and the step behind it begins. Behind STANDBY DONE a sweep step
opens with a spin phase (R50), its engine started, as the model reads it (log entry 17), and SPIN DONE lets its work begin, here
the next seek of a DRIVE-PACED SEEK SWEEP. -/
def Obligations.CompletionsAdvanceTheRun : Prop :=
  ∀ (i : Fin 16) (plan : Plan) (c : Completion) (s : State), s.planOf i = some plan → c.tag = (s.slot i).op.tag →
    c.status = .done → (s.slot i).held = false → (s.zone (zoneOf i)).state ≠ .fault →
    let x := s.slot i
    let exec' := { x.exec with phase := .working, index := x.exec.index + 1, timer := none, dwell := 0 }
    let op' := fun (op : Op) (timeout : Nat) => { x.op with
      tag := x.op.tag + 1#8, outstanding := some op, issuedAt := s.now, timer := some timeout, stage := 0, interrupted := none
      sent := some (x.op.tag + 1#8, op), sentData := [] }
    (x.state = .spinning → x.op.outstanding = some .spin → x.exec.phase = .spinUp →
      plan.steps[x.exec.index]? = some .spin → plan.steps[x.exec.index + 1]? = some .ident →
      ∃ t e, exec (.completion i (.record c)) s = .next t ∧ Untouched s t ∧ t.line = s.line ∧ t.lots = s.lots ∧
        t.slot i = { x with
          state := .active, spun := true, exec := exec', op := op' .ident plan.identTimeout, sweep := e } ∧
        e.step = none ∧ e.hand = x.sweep.hand ∧ admission t = t) ∧
    (∀ n : BitVec 32, c.payload = .health n → x.state = .active → x.op.outstanding = some .health → x.spun = true →
      let left := fun t : State => exec (.completion i (.record c)) s = .next t ∧ SameOutsideSlots s t ∧
        ∀ j : Fin 16, j ≠ i → t.slot j = s.slot j
      let y := { x with acc := { x.acc with reallocEnd := some n.toNat }, sweep := x.sweep.retired }
      (plan.steps[x.exec.index + 1]? = some .standby →
        ∃ t, left t ∧ t.slot i = { y with exec := exec', op := op' .standby plan.standbyTimeout }) ∧
      (∀ id : Identity, x.identity = some id →
        let idle := { x.op with outstanding := none, timer := none, stage := 0, interrupted := none }
        let at_ := fun p => id.capacity * p / 1000
        let pass := fun st : Step => if st.isWriteSweep then (if 255 ≤ x.exec.pass then 1 else x.exec.pass + 1) else x.exec.pass
        (∀ f : SeekFields, plan.steps[x.exec.index + 1]? = some (.seekSweep f) → at_ f.start < at_ f.stop → 1 ≤ f.count →
          let e := { Sweep.reset with
            step := some (.seekSweep f), first := at_ f.start, stop := at_ f.stop, grid := f.count, lo := 0, hi := f.count - 1
            lowNext := true, remaining := f.count, hand := x.sweep.hand
            pacing := if f.pacing = .tick then some f.interval else none }
          ∃ t, left t ∧
            (f.pacing = .drive → t.slot i = { y with
              exec := exec', op := op' (.seek (at_ f.start)) plan.seekTimeout, sweep := { e with lo := 1, lowNext := false } }) ∧
            (f.pacing = .tick → t.slot i = { y with exec := exec', op := idle, sweep := e })) ∧
        (∀ (st : Step) (f : SweepFields), plan.steps[x.exec.index + 1]? = some st →
          (st = .writeSweep f ∨ ∃ v, st = .readSweep f v) → at_ f.start < at_ f.stop → 1 ≤ f.chunk → 1 ≤ id.sectorSize →
          id.sectorSize ≤ 65536 → x.sweep.hand = [] → i ∉ s.pool.waiting →
          let first := at_ f.start
          let stop := at_ f.stop
          let chunk := min f.chunk (65536 / id.sectorSize)
          let grid := (stop - first + (chunk - 1)) / chunk
          let e := Sweep.started st id.capacity id.sectorSize
          let from_ := if f.direction = .descending then max first (stop - chunk) else first
          let k : Chunk :=
            { first := from_, band := bandOf (stop - first) (from_ - first)
              count := if f.direction = .descending then stop - from_ else min (first + chunk) stop - first }
          let second := if f.direction = .fixed ∨ grid = 1 then 0 else if f.direction = .butterfly then grid - 1 else 1
          let free := s.pool.free
          let reads := st ≠ .writeSweep f ∧ f.pacing = .drive
          let again := (2 ≤ grid ∨ f.continuous = true ∨ f.direction = .fixed) ∧ (st = .writeSweep f ∨ f.pacing = .drive)
          let hand : List InHand :=
            if free = 0 then [] else
              { lending := s.pool.lendings, chunk := k, again := false, data := []
                use := if st = .writeSweep f then .filling else if f.pacing = .drive then .inFlight else .prepared } ::
              if again ∧ 2 ≤ free then
                [{ lending := s.pool.lendings + 1, chunk := e.gridChunk second, again := false, data := []
                   use := if st = .writeSweep f then .filling else .prepared }]
              else []
          e = { Sweep.reset with
            step := some st, first := first, stop := stop, chunk := chunk, grid := grid, lo := 0, hi := grid - 1
            lowNext := true, remaining := grid, bands := e.bands
            pacing := if f.pacing = .tick then some f.interval else none } ∧
          ∃ t u, exec (.completion i (.record c)) s = .next t ∧ (∀ j : Fin 16, j ≠ i → t.slot j = s.slot j) ∧
            SameOutsideSlots
              { s with
                pool := { s.pool with
                  free := free - hand.length, lendings := s.pool.lendings + hand.length
                  waiting := s.pool.waiting ++ if free = 0 ∨ (free = 1 ∧ again) then [i] else [] }
                work := s.work ++ if st = .writeSweep f then
                  hand.map fun h => { slot := i, lending := h.lending, check := false } else [] } t ∧
            t.slot i = { y with
              exec := { exec' with pass := pass st, timer := if 0 < f.timeLimit then some (f.timeLimit * 1000) else none }
              op := if reads ∧ 0 < free then op' (.read k) plan.readTimeout else idle, sweep := u } ∧
            u = { e with
              hand := hand, lo := u.lo, hi := u.hi, lowNext := u.lowNext, bands := u.bands
              remaining := if f.direction = .fixed then grid else grid - hand.length } ∧
            ∀ b : Fin 16, u.bands.get b =
              if reads ∧ 0 < free ∧ b = k.band ∧ (e.bands.get b).state = .notStarted then
                { e.bands.get b with state := .running s.now }
              else e.bands.get b) ∧
        ∀ (st : Step) (start stop : Nat), plan.steps[x.exec.index + 1]? = some st →
          ((∃ f, (st = .writeSweep f ∨ ∃ v, st = .readSweep f v) ∧ start = f.start ∧ stop = f.stop) ∨
            ∃ f, st = .seekSweep f ∧ start = f.start ∧ stop = f.stop) →
          at_ stop ≤ at_ start → plan.steps[x.exec.index + 2]? = some .health →
          ∃ t e, left t ∧ e.step = none ∧ e.redo = [] ∧ e.pacing = none ∧ e.hand = x.sweep.hand ∧ e.remaining = 0 ∧
            t.slot i = { y with
              exec := { exec' with index := x.exec.index + 2, pass := pass st }, op := op' .health plan.healthTimeout
              sweep := e }) ∧
      ∀ target count, plan.steps[x.exec.index + 1]? = some (.repeatTo target count) →
        let place := repeatPlace plan.steps (x.exec.index + 1)
        ∀ k, x.exec.counters[place]? = some k →
          (k < count → plan.steps[target]? = some .health →
            ∃ t, left t ∧ t.slot i = { y with
              exec := { exec' with index := target, counters := x.exec.counters.set place (k + 1) }
              op := op' .health plan.healthTimeout }) ∧
          (count ≤ k → plan.steps[x.exec.index + 2]? = some .health →
            ∃ t, left t ∧ t.slot i = { y with
              exec := { exec' with index := x.exec.index + 2, counters := x.exec.counters.set place 0 }
              op := op' .health plan.healthTimeout })) ∧
    (∀ m, x.state = .active → x.op.outstanding = some .standby → plan.steps[x.exec.index + 1]? = some (.dwell m) →
      ∃ t, exec (.completion i (.record c)) s = .next t ∧ SameOutsideSlots s t ∧
        (∀ j : Fin 16, j ≠ i → t.slot j = s.slot j) ∧
        t.slot i = { x with
          spun := false, exec := exec', sweep := x.sweep.retired
          op := { x.op with outstanding := none, timer := none, stage := 0, interrupted := none } }) ∧
    (∀ (st : Step) (id : Identity), x.state = .active → x.op.outstanding = some .standby →
      plan.steps[x.exec.index + 1]? = some st → st.isSweep = true → x.identity = some id →
      exec (.completion i (.record c)) s = .next (refreshLamps (admission (s.setSlot i { x with
        state := .waitPower, spun := false
        exec := { exec' with
          phase := .spinUp, timer := st.timer
          pass := if st.isWriteSweep then (if 255 ≤ x.exec.pass then 1 else x.exec.pass + 1) else x.exec.pass }
        op := { x.op with outstanding := none, timer := none, stage := 0, interrupted := none }
        sweep := { Sweep.started st id.capacity id.sectorSize with hand := x.sweep.hand } })))) ∧
    (∀ f : SeekFields, x.state = .spinning → x.op.outstanding = some .spin → x.exec.phase = .spinUp →
      plan.steps[x.exec.index]? = some (.seekSweep f) → x.sweep.step = some (.seekSweep f) → f.pacing = .drive →
      x.sweep.lowNext = true → x.sweep.lo ≤ x.sweep.hi → 0 < x.sweep.grid →
      ∃ t, exec (.completion i (.record c)) s = .next t ∧ Untouched s t ∧ t.line = s.line ∧ t.lots = s.lots ∧
        t.slot i = { x with
          state := .active, spun := true, exec := { x.exec with phase := .working }
          op := { op' (.seek (x.sweep.first + x.sweep.lo * (x.sweep.stop - x.sweep.first) / x.sweep.grid)) plan.seekTimeout with
            stage := x.op.stage }
          sweep := { x.sweep with lo := x.sweep.lo + 1, lowNext := false } }) ∧
    ∀ serial capacity size realloc, c.payload = .ident serial capacity size realloc → (size = 512 ∨ size = 4096) →
      1 ≤ capacity → capacity ≤ 281474976710655 → realloc ≤ 4294967295 → serial.length = 20 →
      x.state = .active → x.op.outstanding = some .ident →
      let held := (∃ j : Fin 16, j ≠ i ∧ (s.slot j).identity.map Identity.serial = some serial) ∨
        ∃ l ∈ s.lots.manifest ++ s.lots.full ++ s.lots.opens, ∃ m ∈ l.members, m.serial = serial
      (¬ held → x.spun = true → plan.steps[x.exec.index + 1]? = some .health →
        ∃ t e, exec (.completion i (.record c)) s = .next t ∧ Untouched s t ∧ t.line = s.line ∧ t.lots = s.lots ∧
          t.slot i = { x with
            identity := some
              { serial := serial, capacity := capacity, sectorSize := size
                reallocStart := (x.identity.map Identity.reallocStart).getD realloc }
            exec := exec', op := op' .health plan.healthTimeout, sweep := e } ∧
          e.step = none ∧ e.hand = x.sweep.hand) ∧
      (held → ∃ t, exec (.completion i (.record c)) s = .next t ∧ Untouched s t ∧ t.lots = s.lots ∧
        t.line = s.line.raised i.val (.slotFaulted .duplicate (some serial)) ∧
        (t.slot i).state = .faulted ∧ (t.slot i).reason = .duplicate ∧ (t.slot i).outcome = none ∧
        (t.slot i).identity = none ∧ (t.slot i).powered = false ∧ (t.slot i).spun = false ∧
        (t.slot i).op.outstanding = none ∧ (t.slot i).sweep.hand = [] ∧ (t.slot i).acc = x.acc)

/-- What the completions of a sweep count (R69, R70, R72, R95, R96), first on a held slot whose sweep goes on: a READ without
verify its sectors and corrected sectors, an ERROR MEDIA of it one defect, the sectors before it, and the remainder behind it on
the redo list; a SEEK one seek made, and one late where it took longer than its limit. A WRITE counts nothing and its buffer
returns; a verify READ with pass 1 or above is handed to the pattern unit with its sectors, and counts its corrected sectors
alone (R101). A READ completion counts for its band (R106, R107): the last one makes a RUNNING band TIMED, and the worst band
rate takes its rate; an earlier one leaves it RUNNING; another band may start to run with a chunk issued then. How the bands are
laid (R105): every one VOID in a sweep that is not band-timed, in band 15 alone where the range holds fewer sectors than bands,
and alike where the bands hold whole chunks.
Under no pause the DONE completion of the last chunk or seek, or of the one in flight while DRAINING, ends the sweep (R91, R95),
and the next step begins, here a HEALTH step of a spun drive (R48). In a DRIVE-PACED sweep that goes on, the prepared chunk is
issued next (R92), and the engine takes the buffer that returns where it has something to take (R97); behind a verify READ,
whose buffer goes to its check, it is issued and no buffer asked for. That lendings are numbered is the model's choice (log
entry 5). -/
def Obligations.SweepCompletionsCount : Prop :=
  (∀ (i : Fin 16) (c : Completion) (s : State), c.tag = (s.slot i).op.tag → (s.slot i).held = true → (s.slot i).state = .active →
    (s.slot i).exec.phase = .working → s.pool.waiting = [] →
    let x := s.slot i
    (∀ (f : SweepFields) (k : Chunk), x.sweep.step = some (.readSweep f false) → x.op.outstanding = some (.read k) →
      x.sweep.redo ≠ [] → x.op.interrupted = none →
      (c.status = .done → x.covers k.count = true →
        ∃ t, exec (.completion i (.record c)) s = .next t ∧ Untouched s t ∧ t.line = s.line ∧ t.lots = s.lots ∧
          (t.slot i).acc = { x.acc with
            s := min (x.acc.s + k.count) 18446744073709551615
            c := min (x.acc.c + min c.corrected k.count) 18446744073709551615, worstBand := (t.slot i).acc.worstBand } ∧
          (t.slot i).op = { x.op with outstanding := none, timer := none } ∧ (t.slot i).exec = x.exec ∧
          (t.slot i).state = .active ∧ (t.slot i).sweep.redo = x.sweep.redo ∧
          (t.slot i).sweep.hand = x.sweep.hand.filter fun h => decide (h.use ≠ .inFlight)) ∧
      (c.status = .error → c.error = .media → 1 ≤ c.residual → c.residual ≤ k.count →
        x.covers (k.count - c.residual) = true →
        ∃ t, exec (.completion i (.record c)) s = .next t ∧ Untouched s t ∧ t.line = s.line ∧ t.lots = s.lots ∧
          (t.slot i).acc = { x.acc with
            u := min (x.acc.u + 1) 4294967295
            s := min (x.acc.s + (k.count - c.residual)) 18446744073709551615
            c := min (x.acc.c + min c.corrected (k.count - c.residual)) 18446744073709551615
            worstBand := (t.slot i).acc.worstBand } ∧
          (t.slot i).op = { x.op with outstanding := none, timer := none } ∧ (t.slot i).exec = x.exec ∧
          (t.slot i).sweep.redo = (if c.residual = 1 then x.sweep.redo else
            x.sweep.redo ++ [{ k with first := k.first + (k.count - c.residual + 1), count := c.residual - 1 }]))) ∧
    ∀ (f : SeekFields) (lba : Nat), x.sweep.step = some (.seekSweep f) → x.op.outstanding = some (.seek lba) →
      2 ≤ x.sweep.remaining →
      (c.status = .done → ∃ t, exec (.completion i (.record c)) s = .next t ∧ SameOutsideSlots s t ∧
        (∀ j : Fin 16, j ≠ i → t.slot j = s.slot j) ∧
        t.slot i = { x with
          acc := { x.acc with l := min (x.acc.l + if f.limit < s.now - x.op.issuedAt then 1 else 0) 4294967295 }
          op := { x.op with outstanding := none, timer := none }
          sweep := { x.sweep with remaining := x.sweep.remaining - 1 } }) ∧
      (c.status = .error → c.error = .media → ∃ t, exec (.completion i (.record c)) s = .next t ∧ SameOutsideSlots s t ∧
        (∀ j : Fin 16, j ≠ i → t.slot j = s.slot j) ∧
        t.slot i = { x with
          acc := { x.acc with
            u := min (x.acc.u + 1) 4294967295, c := min x.acc.c 18446744073709551615 }
          op := { x.op with outstanding := none, timer := none }
          sweep := { x.sweep with remaining := x.sweep.remaining - 1 } })) ∧
  (∀ (i : Fin 16) (c : Completion) (k : Chunk) (s : State), c.tag = (s.slot i).op.tag → c.status = .done →
    (s.slot i).held = true → (s.slot i).state = .active → (s.slot i).exec.phase = .working → s.pool.waiting = [] →
    (s.slot i).sweep.redo ≠ [] → (s.slot i).op.interrupted = none →
    let x := s.slot i
    let flying := x.sweep.hand.filter fun h => decide (h.use = .inFlight)
    (∀ f : SweepFields, x.sweep.step = some (.writeSweep f) → x.op.outstanding = some (.write k) →
      (∀ start, (x.sweep.bands.get k.band).state ≠ .running start) →
      ∃ t, exec (.completion i (.record c)) s = .next t ∧ (∀ j : Fin 16, j ≠ i → t.slot j = s.slot j) ∧
        t.pool = { s.pool with free := s.pool.free + flying.length } ∧ t.line = s.line ∧ t.lots = s.lots ∧
        (t.slot i).acc = x.acc ∧ (t.slot i).op = { x.op with outstanding := none, timer := none } ∧
        (t.slot i).exec = x.exec ∧ (t.slot i).state = .active ∧ (t.slot i).sweep.redo = x.sweep.redo ∧
        (t.slot i).sweep.hand = x.sweep.hand.filter fun h => decide (h.use ≠ .inFlight)) ∧
    (∀ f : SweepFields, x.sweep.step = some (.readSweep f true) → x.op.outstanding = some (.read k) → 1 ≤ x.exec.pass →
      1 ≤ k.count → x.covers k.count = true →
      ∃ t, exec (.completion i (.record c)) s = .next t ∧ (∀ j : Fin 16, j ≠ i → t.slot j = s.slot j) ∧
        t.pool = s.pool ∧ t.line = s.line ∧ t.lots = s.lots ∧
        t.work = s.work ++ flying.map (fun h => { slot := i, lending := h.lending, check := true }) ∧
        (t.slot i).acc = { x.acc with
          c := min (x.acc.c + min c.corrected k.count) 18446744073709551615, worstBand := (t.slot i).acc.worstBand } ∧
        (t.slot i).op = { x.op with outstanding := none, timer := none } ∧ (t.slot i).exec = x.exec ∧
        (t.slot i).state = .active ∧ (t.slot i).sweep.redo = x.sweep.redo ∧
        (t.slot i).sweep.hand = x.sweep.hand.map fun h =>
          if h.use = .inFlight then { h with use := .checking, chunk := { h.chunk with count := k.count } } else h)) ∧
  (∀ (i : Fin 16) (c : Completion) (k : Chunk) (f : SweepFields) (verify : Bool) (start sectors left : Nat) (s : State),
    c.tag = (s.slot i).op.tag → c.status = .done → (s.slot i).state = .active → (s.slot i).exec.phase = .working →
    s.pool.waiting = [] → (s.slot i).sweep.redo ≠ [] → (s.slot i).op.interrupted = none →
    let x := s.slot i
    x.sweep.step = some (.readSweep f verify) → x.op.outstanding = some (.read k) → x.covers k.count = true →
    x.sweep.bands.get k.band = { state := .running start, sectors := sectors, left := left } →
    let rate := min (sectors * 1000 / max 1 (s.now - start)) 4294967295
    ∃ t, exec (.completion i (.record c)) s = .next t ∧
      (∀ b : Fin 16, b ≠ k.band → (t.slot i).sweep.bands.get b = x.sweep.bands.get b ∨
        ((x.sweep.bands.get b).state = .notStarted ∧
          (t.slot i).sweep.bands.get b = { x.sweep.bands.get b with state := .running s.now })) ∧
      (left = 1 → (t.slot i).sweep.bands.get k.band = { state := .timed, sectors := sectors, left := 0 } ∧
        (t.slot i).acc.worstBand = some (match x.acc.worstBand with | none => rate | some r => min r rate)) ∧
      (2 ≤ left → (t.slot i).sweep.bands.get k.band = { state := .running start, sectors := sectors, left := left - 1 } ∧
        (t.slot i).acc.worstBand = x.acc.worstBand)) ∧
  (∀ (i : Fin 16) (plan : Plan) (c : Completion) (s : State), s.planOf i = some plan → c.tag = (s.slot i).op.tag →
    c.status = .done → (s.slot i).held = false → (s.zone (zoneOf i)).state ≠ .fault → (s.slot i).state = .active →
    s.pool.waiting = [] → (s.slot i).op.interrupted = none →
    let x := s.slot i
    let flying := x.sweep.hand.filter fun h => decide (h.use = .inFlight)
    let others := s.work.filter fun w => decide (¬ (w.slot = i ∧ w.lending ∈ flying.map InHand.lending))
    let left := fun t : State => exec (.completion i (.record c)) s = .next t ∧ ∀ j : Fin 16, j ≠ i → t.slot j = s.slot j
    let handed := fun (acc : Accum) (e : Sweep) =>
      { x with
        acc := acc, exec := { x.exec with phase := .working, index := x.exec.index + 1, timer := none, dwell := 0 }
        op := { x.op.sending .health s.now plan.healthTimeout with stage := 0, interrupted := none }, sweep := e }
    let retired := fun e : Sweep => e.step = none ∧ e.redo = [] ∧ e.hand = [] ∧ e.pacing = none
    (∀ (f : SweepFields) (k : Chunk) (counts corrects : Bool),
      (x.sweep.step = some (.writeSweep f) ∧ x.op.outstanding = some (.write k) ∧ counts = false ∧ corrects = false ∨
        ∃ v, x.sweep.step = some (.readSweep f v) ∧ x.op.outstanding = some (.read k) ∧ x.covers k.count = true ∧
          (v = true → x.exec.pass = 0) ∧ counts = !v ∧ corrects = true) →
      let acc := fun a : Accum => a = { x.acc with
        s := if counts then min (x.acc.s + k.count) 18446744073709551615 else x.acc.s
        c := if corrects then min (x.acc.c + min c.corrected k.count) 18446744073709551615 else x.acc.c
        worstBand := a.worstBand }
      ((∀ h ∈ x.sweep.hand, h.use = .inFlight) →
        (x.exec.phase = .draining ∨ (x.exec.phase = .working ∧ x.sweep.redo = [] ∧ x.sweep.takeIndex = none)) →
        x.spun = true → plan.steps[x.exec.index + 1]? = some .health →
        ∃ t a e, left t ∧ acc a ∧ retired e ∧ t.slot i = handed a e ∧
          SameOutsideSlots { s with pool := { s.pool with free := s.pool.free + flying.length }, work := others } t) ∧
      ∀ b : InHand, x.exec.phase = .working → f.pacing = .drive → flying ≠ [] → b.use = .prepared →
        x.sweep.hand.filter (fun h => decide (h.use ≠ .inFlight)) = [b] →
        let write := x.sweep.step = some (.writeSweep f)
        ∃ t a e, left t ∧ acc a ∧ SameOutsideSlots { s with pool := t.pool, work := t.work } t ∧
          t.slot i = { x with
            acc := a, sweep := e
            op := { x.op.sending (if write then .write b.chunk else .read b.chunk) s.now
                (if write then plan.writeTimeout else plan.readTimeout) with sentData := b.data } } ∧
          (x.take = none → t.pool = { s.pool with free := s.pool.free + flying.length } ∧ t.work = others ∧
            e = { x.sweep with hand := [{ b with use := .inFlight, again := false }], bands := e.bands }) ∧
          ∀ k' again e', x.take = some (k', again, e') →
            t.pool = { s.pool with free := s.pool.free + flying.length - 1, lendings := s.pool.lendings + 1 } ∧
            t.work = others ++ (if write then [{ slot := i, lending := s.pool.lendings, check := false }] else []) ∧
            e = { e' with
              bands := e.bands
              hand := [{ b with use := .inFlight, again := false },
                       { lending := s.pool.lendings, chunk := k', use := if write then .filling else .prepared
                         again := false, data := [] }] }) ∧
    (∀ (f : SweepFields) (k : Chunk) (a b : InHand), x.sweep.step = some (.readSweep f true) → x.op.outstanding = some (.read k) →
      1 ≤ x.exec.pass → 1 ≤ k.count → x.covers k.count = true → x.exec.phase = .working → f.pacing = .drive →
      x.sweep.hand = [a, b] → a.use = .inFlight → b.use = .prepared → a.lending ≠ b.lending →
      ∃ t e, left t ∧
        SameOutsideSlots { s with work := s.work ++ [{ slot := i, lending := a.lending, check := true }] } t ∧
        (t.slot i).acc = { x.acc with
          c := min (x.acc.c + min c.corrected k.count) 18446744073709551615, worstBand := (t.slot i).acc.worstBand } ∧
        t.slot i = { x with
          acc := (t.slot i).acc, sweep := e
          op := { x.op.sending (.read b.chunk) s.now plan.readTimeout with sentData := b.data } } ∧
        e = { x.sweep with
          bands := e.bands
          hand := [{ a with use := .checking, chunk := { a.chunk with count := k.count } },
                   { b with use := .inFlight, again := false }] }) ∧
    ∀ (f : SeekFields) (lba : Nat), x.sweep.step = some (.seekSweep f) → x.op.outstanding = some (.seek lba) →
      x.exec.phase = .working → x.sweep.remaining ≤ 1 → x.sweep.takeIndex = none → x.sweep.hand = [] → x.spun = true →
      plan.steps[x.exec.index + 1]? = some .health →
      ∃ t e, left t ∧ SameOutsideSlots s t ∧ retired e ∧ t.slot i = handed
        { x.acc with l := min (x.acc.l + if f.limit < s.now - x.op.issuedAt then 1 else 0) 4294967295 } e) ∧
  ∀ (f : SweepFields) (verify : Bool) (capacity size : Nat), 1 ≤ f.chunk → 1 ≤ size → f.chunk * size ≤ 65536 →
    let e := Sweep.started (.readSweep f verify) capacity size
    let range := capacity * f.stop / 1000 - capacity * f.start / 1000
    let timed := f.pacing = .drive ∧ (f.direction = .ascending ∨ f.direction = .descending) ∧ f.continuous = false ∧ 0 < range
    let void : Band := { state := .void, sectors := 0, left := 0 }
    (¬ timed → ∀ b : Fin 16, e.bands.get b = void) ∧
    (timed → range < 16 → (∀ b : Fin 16, b.val < 15 → e.bands.get b = void) ∧
      e.bands.get 15 = { state := .notStarted, sectors := range, left := (range + (f.chunk - 1)) / f.chunk }) ∧
    ∀ m, timed → 1 ≤ m → range = 16 * (m * f.chunk) → ∀ b : Fin 16,
      e.bands.get b = { state := .notStarted, sectors := m * f.chunk, left := m }

/-- The recovery ladder at an expiry (R76, R78, R79, R81, R83, R84), be it the timeout of the operation outstanding or a
completion taken as an expiry (R73): the first expiry in a step is stage 1, RECOVERING with DRIVE RESET issued; the second stage
2, CYCLING with the power off for the plan's off time and every buffer returned; the third ends the plan in DONE with REJECT and
UNRESPONSIVE. Each counts in E and raises ESCALATION; the executor keeps its place. A timeout of an operation that is no longer
outstanding does not occur (R77; that TIMEOUT_EXPIRY names the operation's tag is the model's choice, log entry 40).
DRIVE RESET DONE (R80): back to SPINNING, SPIN is issued again; back to ACTIVE the interrupted operation, here STANDBY, is
issued again, or waits under a pause; in DRAINING it is dropped. SPIN DONE after stage 2 (R82) issues the interrupted operation
again. -/
def Obligations.TimeoutClimbsTheLadder : Prop :=
  (∀ (i : Fin 16) (op : Op) (plan : Plan) (command : Instr) (cause : Cause) (s : State),
    (s.slot i).op.outstanding = some op → s.planOf i = some plan →
    (s.slot i).state ∈ [SlotState.spinning, .active, .recovering] →
    ((command = .timeoutExpiry ⟨i, (s.slot i).op.tag⟩ ∧ cause = .timeout) ∨
      ∃ c : Completion, command = .completion i (.record c) ∧ c.tag = (s.slot i).op.tag ∧ c.status = .error ∧
        (((c.error = .interface ∨ c.error = .none) ∧ cause = .interface) ∨
          (c.error = .media ∧ cause = .media ∧ op ∈ [Op.spin, .ident, .health, .standby, .driveReset]))) →
    let x := s.slot i
    let e := min (x.acc.e + 1) 4294967295
    let interrupted := if op = .driveReset then x.op.interrupted else some op
    let escalation := fun stage => Detail.escalation stage op cause x.exec.index e
    ∃ t sweep, exec command s = .next t ∧ Untouched s t ∧ t.lots = s.lots ∧
      (x.op.stage = 0 →
        t.slot i = { x with
          state := .recovering, acc := { x.acc with e := e }, sweep := sweep
          op := { x.op with
            tag := x.op.tag + 1#8, outstanding := some .driveReset, issuedAt := s.now, timer := some plan.readTimeout, stage := 1
            returnTo := some (if x.state = .spinning then .spinning else .active), interrupted := interrupted
            sent := some (x.op.tag + 1#8, .driveReset), sentData := [] } } ∧
        t.line = s.line.raised i.val (escalation .one)) ∧
      (x.op.stage = 1 →
        t.slot i = { x with
          state := .cycling, powered := false, spun := false, acc := { x.acc with e := e }, sweep := sweep
          op := { x.op with
            outstanding := none, timer := none, stage := 2, returnTo := none, interrupted := interrupted
            offTimer := some (plan.offTime * 1000) } } ∧
        sweep.hand = [] ∧ i ∉ t.pool.waiting ∧ t.line = s.line.raised i.val (escalation .two) ∧ admission t = t) ∧
      (2 ≤ x.op.stage →
        t.slot i = { x with
          state := .done, outcome := some .reject, reason := .unresponsive, grade := none, powered := false, spun := false
          acc := { x.acc with e := e }, sweep := sweep, exec := { x.exec with phase := .idle, timer := none }
          op := { x.op with outstanding := none, timer := none, returnTo := none, interrupted := none, offTimer := none } } ∧
        sweep.hand = [] ∧ i ∉ t.pool.waiting ∧ admission t = t ∧
        t.line = (s.line.raised i.val (escalation .last)).raised i.val
          (.slotGraded (.ended .reject) .unresponsive none x.retests none))) ∧
  (∀ (i : Fin 16) (tag : Byte) (s : State), (s.slot i).op.outstanding = none ∨ tag ≠ (s.slot i).op.tag →
    exec (.timeoutExpiry ⟨i, tag⟩) s = .next (refreshLamps s)) ∧
  ∀ (i : Fin 16) (plan : Plan) (c : Completion) (s : State), s.planOf i = some plan → c.tag = (s.slot i).op.tag →
    c.status = .done →
    let x := s.slot i
    let closed := { x.op with outstanding := none, timer := none }
    let left := fun t : State => exec (.completion i (.record c)) s = .next t ∧ Untouched s t ∧ t.line = s.line ∧ t.lots = s.lots
    (x.state = .recovering → x.op.outstanding = some .driveReset →
      (x.op.returnTo = some .spinning → ∃ t, left t ∧ t.slot i = { x with
        state := .spinning
        op := { closed.sending .spin s.now (plan.spinTimeout * 1000) with returnTo := none, interrupted := none } }) ∧
      (x.op.returnTo = some .active → x.sweep.step = none → x.op.interrupted = some .standby → x.exec.phase = .working →
        (x.held = false → (s.zone (zoneOf i)).state ≠ .fault → ∃ t, left t ∧ t.slot i = { x with
          state := .active
          op := { closed.sending .standby s.now plan.standbyTimeout with returnTo := none, interrupted := none } }) ∧
        (x.held = true ∨ (s.zone (zoneOf i)).state = .fault → ∃ t, left t ∧ t.slot i = { x with
          state := .active, op := { closed with returnTo := none } })) ∧
      (x.op.returnTo = some .active → x.exec.phase = .draining → x.sweep.hand ≠ [] → ∃ t, left t ∧ t.slot i = { x with
        state := .active, op := { closed with returnTo := none, interrupted := none } })) ∧
    (x.state = .spinning → x.op.outstanding = some .spin → x.exec.phase = .working → x.sweep.step = none →
      x.op.interrupted = some .standby → x.held = false → (s.zone (zoneOf i)).state ≠ .fault →
      ∃ t, left t ∧ admission t = t ∧ t.slot i = { x with
        state := .active, spun := true
        op := { closed.sending .standby s.now plan.standbyTimeout with interrupted := none } })

/-- The off timer reaches 0 (R82): the slot in CYCLING waits for power, with its power off, or has been granted it by the
evaluation that follows (R31), whose result is what the command leaves; without a running off timer nothing happens (the model's
choice, log entry 7). -/
def Obligations.OffTimeEndWaitsForPower : Prop :=
  ∀ (i : Fin 16) (s : State),
    ((s.slot i).state = .cycling → (s.slot i).op.offTimer.isSome = true →
      ∃ t state powered op, exec (.offTimeEnd i) s = .next t ∧ Untouched s t ∧ t.line = s.line ∧ t.lots = s.lots ∧
        t = refreshLamps (admission (s.setSlot i { s.slot i with
          state := .waitPower, powered := false, op := { (s.slot i).op with offTimer := none } })) ∧
        t.pool = s.pool ∧ (∀ j : Fin 16, j ≠ i → (s.slot j).state ≠ .waitPower → t.slot j = s.slot j) ∧
        t.slot i = { s.slot i with state := state, powered := powered, op := op } ∧ op.offTimer = none ∧
        op.stage = (s.slot i).op.stage ∧ op.interrupted = (s.slot i).op.interrupted ∧
        ((state = .waitPower ∧ powered = false ∧ op = { (s.slot i).op with offTimer := none }) ∨
          (state = .spinning ∧ powered = true ∧ op.outstanding = some .spin ∧ op.tag = (s.slot i).op.tag + 1#8))) ∧
    ((s.slot i).state ≠ .cycling ∨ (s.slot i).op.offTimer = none → exec (.offTimeEnd i) s = .next (refreshLamps s))

/-! ### Sweeps and the pattern unit -/

/-- The step timer reaches 0 with an operation in flight or a check at work (R54, R91): the engine drains, forgets what it has
not issued, returns those buffers, leaves the wait list and stops its pacing; the phase is DRAINING. With neither, the drained
engine reports the sweep ended within the same event, and the next step begins, here a HEALTH step of a spun drive (R48). Where
the timer does not count its end changes nothing (the model's choice, log entry 7), and nor does the end of the timer of a step
that has ended first (R62; that STEP_TIMER_EXPIRY names the entry of its step is the model's choice, log entry 40). -/
def Obligations.StepTimerDrains : Prop :=
  ∀ (i : Fin 16) (s : State),
    ((s.slot i).exec.timer.isSome = true → (s.slot i).state = .active → (s.slot i).exec.phase = .working →
      (s.slot i).held = false → (s.zone (zoneOf i)).state ≠ .fault →
      ((s.slot i).op.outstanding.isSome = true ∨ ∃ h ∈ (s.slot i).sweep.hand, h.use = .inFlight ∨ h.use = .checking) →
      ∃ t, exec (.stepTimerExpiry (s.stepEntry i)) s = .next t ∧ Untouched s t ∧ t.line = s.line ∧ t.lots = s.lots ∧
        i ∉ t.pool.waiting ∧
        t.slot i = { s.slot i with
          exec := { (s.slot i).exec with phase := .draining, timer := none }
          op := { (s.slot i).op with interrupted := none }
          sweep := { (s.slot i).sweep with
            redo := [], pacing := none, bands := (s.slot i).sweep.bands.map Band.drained
            hand := (s.slot i).sweep.hand.filter fun h => decide (h.use = .inFlight) || decide (h.use = .checking) } }) ∧
    (∀ plan : Plan, (s.slot i).exec.timer.isSome = true → (s.slot i).state = .active → (s.slot i).exec.phase = .working →
      (s.slot i).held = false → (s.zone (zoneOf i)).state ≠ .fault → (s.slot i).op.outstanding = none →
      (∀ h ∈ (s.slot i).sweep.hand, h.use = .filling ∨ h.use = .prepared) →
      ((∃ f, (s.slot i).sweep.step = some (.writeSweep f)) ∨ ∃ f v, (s.slot i).sweep.step = some (.readSweep f v)) →
      s.planOf i = some plan → (s.slot i).spun = true → plan.steps[(s.slot i).exec.index + 1]? = some .health →
      ∃ t, exec (.stepTimerExpiry (s.stepEntry i)) s = .next t ∧ Untouched s t ∧ t.line = s.line ∧ t.lots = s.lots ∧
        i ∉ t.pool.waiting ∧
        t.slot i = { s.slot i with
          exec := { (s.slot i).exec with index := (s.slot i).exec.index + 1, timer := none, dwell := 0 }
          op := { (s.slot i).op.sending .health s.now plan.healthTimeout with stage := 0, interrupted := none }
          sweep := { (s.slot i).sweep with
            step := none, redo := [], hand := [], pacing := none
            bands := Vector.replicate 16 { state := .void, sectors := 0, left := 0 } } }) ∧
    ((s.slot i).exec.timer = none ∨ (s.slot i).state ≠ .active ∨ (s.slot i).exec.phase ≠ .working ∨
        (s.slot i).held = true ∨ (s.zone (zoneOf i)).state = .fault →
      exec (.stepTimerExpiry (s.stepEntry i)) s = .next (refreshLamps s)) ∧
    ∀ e : StepEntry, e.slot = i →
      (e.index ≠ (s.slot i).exec.index ∨ e.counters ≠ (s.slot i).exec.counters ∨ e.retests ≠ (s.slot i).retests) →
      exec (.stepTimerExpiry e) s = .next (refreshLamps s)

/-- The pacing timer reaches 0 (R93, R95): it is reloaded with the interval; a tick that finds an operation outstanding is
missed and counts one in L; one that finds nothing outstanding issues the next seek of a seek sweep, or the prepared chunk of a
WRITE or READ SWEEP, whose engine then asks for a buffer where it has room and something to take (R97); with no chunk prepared
it is missed while something is still to take or being filled, and else counts nothing; that lendings are numbered is the
model's choice (log entry 5). The tick of a step that has ended first changes nothing (R94; that PACING_TICK names the entry of
its step is the model's choice, log entry 40).
What a take takes (R90): an interrupted chunk of a slot back in ACTIVE, else the head of the redo list, else the next grid
chunk. The cursor (R89): in each direction the index it takes and where it then stands; a lap that is finished begins again in a
continuous sweep, and leaves nothing to take in another. -/
def Obligations.PacingTickIssuesOrMisses : Prop :=
  (∀ (e : StepEntry) (s : State),
    (e.index ≠ (s.slot e.slot).exec.index ∨ e.counters ≠ (s.slot e.slot).exec.counters ∨ e.retests ≠ (s.slot e.slot).retests) →
    exec (.pacingTick e) s = .next (refreshLamps s)) ∧
  (∀ (i : Fin 16) (s : State), (s.slot i).sweep.pacing.isSome = true → (s.slot i).state = .active →
    (s.slot i).exec.phase = .working → (s.slot i).held = false → (s.zone (zoneOf i)).state ≠ .fault →
    let x := s.slot i
    ((x.op.outstanding.isSome = true ∨ x.op.interrupted.isSome = true) →
      ∃ t, exec (.pacingTick (s.stepEntry i)) s = .next t ∧ SameOutsideSlots s t ∧ (∀ j : Fin 16, j ≠ i → t.slot j = s.slot j) ∧
        t.slot i = { x with
          acc := { x.acc with l := min (x.acc.l + 1) 4294967295 }
          sweep := { x.sweep with pacing := some x.sweep.pace.2 } }) ∧
    (∀ (f : SweepFields) (plan : Plan) (h : InHand), x.op.outstanding = none → x.op.interrupted = none →
      s.planOf i = some plan → (x.sweep.step = some (.writeSweep f) ∨ ∃ v, x.sweep.step = some (.readSweep f v)) →
      f.pacing = .tick → x.sweep.hand.length ≤ 2 → x.sweep.hand.find? (fun y => decide (y.use = .prepared)) = some h →
      let write := x.sweep.step = some (.writeSweep f)
      let sent := x.sweep.hand.map fun y => if y.lending = h.lending then { y with use := .inFlight, again := false } else y
      let asks := x.sweep.hand.length < 2 ∧ i ∉ s.pool.waiting ∧ x.take.isSome = true
      ∃ t e, exec (.pacingTick (s.stepEntry i)) s = .next t ∧ (∀ j : Fin 16, j ≠ i → t.slot j = s.slot j) ∧
        SameOutsideSlots { s with pool := t.pool, work := t.work } t ∧
        t.slot i = { x with
          sweep := e
          op := { x.op.sending (if write then .write h.chunk else .read h.chunk) s.now
              (if write then plan.writeTimeout else plan.readTimeout) with sentData := h.data } } ∧
        (¬ asks → t.pool = s.pool ∧ t.work = s.work ∧
          e = { x.sweep with pacing := some f.interval, hand := sent, bands := e.bands }) ∧
        (asks → s.pool.free = 0 → t.pool = { s.pool with waiting := s.pool.waiting ++ [i] } ∧ t.work = s.work ∧
          e = { x.sweep with pacing := some f.interval, hand := sent, bands := e.bands }) ∧
        ∀ c again e', asks → 0 < s.pool.free → x.take = some (c, again, e') →
          t.pool = { s.pool with free := s.pool.free - 1, lendings := s.pool.lendings + 1 } ∧
          t.work = s.work ++ (if write then [{ slot := i, lending := s.pool.lendings, check := false }] else []) ∧
          e = { e' with
            pacing := some f.interval, bands := e.bands
            hand := sent ++ [{ lending := s.pool.lendings, chunk := c, use := if write then .filling else .prepared
                               again := false, data := [] }] }) ∧
    (∀ f : SweepFields, x.op.outstanding = none → x.op.interrupted = none →
      (x.sweep.step = some (.writeSweep f) ∨ ∃ v, x.sweep.step = some (.readSweep f v)) →
      (∀ h ∈ x.sweep.hand, h.use ≠ .prepared) →
      let missed := x.take.isSome = true ∨ ∃ h ∈ x.sweep.hand, h.use = .filling
      ∃ t, exec (.pacingTick (s.stepEntry i)) s = .next t ∧ SameOutsideSlots s t ∧ (∀ j : Fin 16, j ≠ i → t.slot j = s.slot j) ∧
        (missed → t.slot i = { x with
          acc := { x.acc with l := min (x.acc.l + 1) 4294967295 }, sweep := { x.sweep with pacing := some f.interval } }) ∧
        (¬ missed → t.slot i = { x with sweep := { x.sweep with pacing := some f.interval } })) ∧
    ∀ (f : SeekFields) (plan : Plan), x.op.outstanding = none → x.op.interrupted = none → s.planOf i = some plan →
      x.sweep.step = some (.seekSweep f) → x.sweep.lo ≤ x.sweep.hi → 0 < x.sweep.grid →
      ∃ t k e, exec (.pacingTick (s.stepEntry i)) s = .next t ∧ SameOutsideSlots s t ∧ (∀ j : Fin 16, j ≠ i → t.slot j = s.slot j) ∧
        k = (if x.sweep.lowNext then x.sweep.lo else x.sweep.hi) ∧
        e = { x.sweep with
          pacing := some f.interval, lowNext := !x.sweep.lowNext
          lo := if x.sweep.lowNext then x.sweep.lo + 1 else x.sweep.lo
          hi := if x.sweep.lowNext then x.sweep.hi else x.sweep.hi - 1 } ∧
        t.slot i = { x with
          sweep := e
          op := { x.op with
            tag := x.op.tag + 1#8, issuedAt := s.now, timer := some plan.seekTimeout, sentData := []
            outstanding := some (.seek (x.sweep.first + k * (x.sweep.stop - x.sweep.first) / x.sweep.grid))
            sent := some (x.op.tag + 1#8,
              .seek (x.sweep.first + k * (x.sweep.stop - x.sweep.first) / x.sweep.grid)) } }) ∧
  (∀ x : Slot,
    (∀ c, x.state = .active → (∀ h ∈ x.sweep.hand, h.again = false) →
      (x.op.interrupted = some (.write c) ∨ x.op.interrupted = some (.read c)) → x.take = some (c, true, x.sweep)) ∧
    ((x.state ≠ .active ∨ x.op.interrupted = none ∨ ∃ h ∈ x.sweep.hand, h.again = true) →
      (∀ c rest, x.sweep.redo = c :: rest → x.take = some (c, false, { x.sweep with redo := rest })) ∧
      (x.sweep.redo = [] → ∀ k e, x.sweep.takeIndex = some (k, e) → x.take = some (x.sweep.gridChunk k, false, e)) ∧
      (x.sweep.redo = [] → x.sweep.takeIndex = none → x.take = none))) ∧
  ∀ (e : Sweep) (f : SweepFields), (e.step = some (.writeSweep f) ∨ ∃ v, e.step = some (.readSweep f v)) → 0 < e.grid →
    (f.direction = .ascending ∨ f.direction = .descending →
      (e.lo < e.grid → e.takeIndex = some (e.lo, { e with lo := e.lo + 1, remaining := e.remaining - 1 })) ∧
      (e.grid ≤ e.lo → f.continuous = false → e.takeIndex = none) ∧
      (e.grid ≤ e.lo → f.continuous = true →
        e.takeIndex = some (0, { e with lo := 1, hi := e.grid - 1, lowNext := true, remaining := e.grid - 1 }))) ∧
    (f.direction = .fixed → e.takeIndex = some (0, e)) ∧
    (f.direction = .butterfly →
      (e.lo ≤ e.hi → e.lowNext = true →
        e.takeIndex = some (e.lo, { e with lo := e.lo + 1, lowNext := false, remaining := e.remaining - 1 })) ∧
      (e.lo ≤ e.hi → e.lowNext = false →
        e.takeIndex = some (e.hi, { e with hi := e.hi - 1, lowNext := true, remaining := e.remaining - 1 })) ∧
      (e.hi < e.lo → f.continuous = false → e.takeIndex = none) ∧
      (e.hi < e.lo → f.continuous = true →
        e.takeIndex = some (0, { e with lo := 1, hi := e.grid - 1, lowNext := false, remaining := e.grid - 1 })))

/-- The pattern unit's completions (R100, R101, R104), on a held slot: a fill makes the chunk prepared with its sectors' stamps
and bodies; a check of a verify READ SWEEP that goes on counts S, K, M and W by the classes of its sectors and its buffer
returns. A completion whose lending is no longer at work changes nothing. That a completion names its lending by a number is the
model's choice (log entry 5).
A buffer that returns while a slot waits goes to the head of the wait list, which leaves it and makes its take (R98, R99): a
READ chunk is prepared at once, a WRITE chunk handed to the pattern unit; the free count stays. -/
def Obligations.PatternUnitCompletes : Prop :=
  ∀ (i : Fin 16) (n : Nat) (s : State), (s.slot i).held = true →
    let x := s.slot i
    let size := (x.identity.map Identity.sectorSize).getD 0
    let idle := fun check => s.work.filter fun w => decide (w ≠ { slot := i, lending := n, check := check })
    (({ slot := i, lending := n, check := false } : Work) ∉ s.work →
      exec (.fillCompletion i n) s = .next (refreshLamps s)) ∧
    (({ slot := i, lending := n, check := true } : Work) ∉ s.work →
      exec (.checkCompletion i n) s = .next (refreshLamps s)) ∧
    (({ slot := i, lending := n, check := false } : Work) ∈ s.work → ({ slot := i, lending := n, check := true } : Work) ∉ s.work →
      ∃ t, exec (.fillCompletion i n) s = .next t ∧ (∀ j : Fin 16, j ≠ i → t.slot j = s.slot j) ∧
        SameOutsideSlots { s with work := idle false } t ∧
        t.slot i = { x with sweep := { x.sweep with hand := x.sweep.hand.map fun h =>
          if h.lending = n then
            { h with use := .prepared
                     data := fillBytes x.sweep.pattern s.line.address i x.exec.pass size h.chunk.first h.chunk.count }
          else h } }) ∧
    ∀ h : InHand, ({ slot := i, lending := n, check := true } : Work) ∈ s.work →
      ({ slot := i, lending := n, check := false } : Work) ∉ s.work →
      (∀ y ∈ x.sweep.hand, y.lending = n → y = h) → x.sweep.hand.countP (fun y => decide (y.lending = n)) = 1 →
      x.sweep.verifies = true → x.state = .active → x.exec.phase = .working → x.sweep.redo ≠ [] → x.op.interrupted = none →
      let found := classifyAll x.sweep.pattern s.line.address i x.exec.pass size h.chunk.first h.chunk.count h.data
      let checked := { x with
        acc := { x.acc with
          s := min (x.acc.s + h.chunk.count) 18446744073709551615
          k := min (x.acc.k + found.count .corrupt) 4294967295
          m := min (x.acc.m + found.count .misplaced) 4294967295
          w := min (x.acc.w + found.count .stale) 4294967295 }
        sweep := { x.sweep with hand := x.sweep.hand.filter fun y => decide (y.lending ≠ n) } }
      (s.pool.waiting = [] →
        ∃ t, exec (.checkCompletion i n) s = .next t ∧ (∀ j : Fin 16, j ≠ i → t.slot j = s.slot j) ∧
          SameOutsideSlots { s with work := idle true, pool := { s.pool with free := s.pool.free + 1 } } t ∧
          t.slot i = checked) ∧
      ∀ (j : Fin 16) (more : List (Fin 16)) (c : Chunk) (again : Bool) (e : Sweep), s.pool.waiting = j :: more → j ≠ i →
        (s.slot j).held = true → (s.slot j).sweep.hand.length < 2 →
        ((∃ f, (s.slot j).sweep.step = some (.writeSweep f)) ∨ ∃ f v, (s.slot j).sweep.step = some (.readSweep f v)) →
        (s.slot j).take = some (c, again, e) →
        let lent := fun use => { s.slot j with sweep := { e with hand := (s.slot j).sweep.hand ++
          [{ lending := s.pool.lendings, chunk := c, use := use, again := again, data := [] }] } }
        ∃ t, exec (.checkCompletion i n) s = .next t ∧ (∀ k : Fin 16, k ≠ i → k ≠ j → t.slot k = s.slot k) ∧
          t.slot i = checked ∧ t.pool = { s.pool with waiting := more, lendings := s.pool.lendings + 1 } ∧
          SameOutsideSlots s { t with work := s.work, pool := s.pool } ∧
          ((∃ f v, (s.slot j).sweep.step = some (.readSweep f v)) → t.slot j = lent .prepared ∧ t.work = idle true) ∧
          ((∃ f, (s.slot j).sweep.step = some (.writeSweep f)) → t.slot j = lent .filling ∧
            t.work = idle true ++ [{ slot := j, lending := s.pool.lendings, check := false }])

/-- The pattern unit reads what it wrote (R100, R102 to R104, R190): the sectors it filled for a chunk are all GOOD against that
chunk; against another pass they are all STALE, against other addresses MISPLACED, and for another slot or tray CORRUPT. -/
def Obligations.FilledSectorsCheckGood : Prop :=
  ∀ (p : Pattern) (tray tray' : Nat) (slot slot' : Fin 16) (pass pass' size lba lba' count : Nat), 12 ≤ size → tray < 256 →
    tray' < 256 → pass < 256 → pass' < 256 → lba + count ≤ 281474976710656 → lba' + count ≤ 281474976710656 →
    let data := fillBytes p tray slot pass size lba count
    data.length = size * count ∧
    classifyAll p tray slot pass size lba count data = List.replicate count .good ∧
    (pass' ≠ pass → classifyAll p tray slot pass' size lba count data = List.replicate count .stale) ∧
    (lba' ≠ lba → classifyAll p tray slot pass' size lba' count data = List.replicate count .misplaced) ∧
    (slot' ≠ slot ∨ tray' ≠ tray → classifyAll p tray' slot' pass' size lba' count data = List.replicate count .corrupt)
end

