-- ==== Sys2Proof/Laws/State.lean ====
section
/-! SUPPORT. What each named update of State leaves of each field, one lemma per field per update. -/

namespace Sys2Proof.Machine

/-! ### setSlot -/

@[simp] theorem setSlot_pending (s : State) (i : Fin 16) (x : Slot) : (s.setSlot i x).pending = s.pending := rfl
@[simp] theorem setSlot_now (s : State) (i : Fin 16) (x : Slot) : (s.setSlot i x).now = s.now := rfl
@[simp] theorem setSlot_line (s : State) (i : Fin 16) (x : Slot) : (s.setSlot i x).line = s.line := rfl
@[simp] theorem setSlot_bus (s : State) (i : Fin 16) (x : Slot) : (s.setSlot i x).bus = s.bus := rfl
@[simp] theorem setSlot_power (s : State) (i : Fin 16) (x : Slot) : (s.setSlot i x).power = s.power := rfl
@[simp] theorem setSlot_plans (s : State) (i : Fin 16) (x : Slot) : (s.setSlot i x).plans = s.plans := rfl
@[simp] theorem setSlot_staging (s : State) (i : Fin 16) (x : Slot) : (s.setSlot i x).staging = s.staging := rfl
@[simp] theorem setSlot_profiles (s : State) (i : Fin 16) (x : Slot) : (s.setSlot i x).profiles = s.profiles := rfl
@[simp] theorem setSlot_zones (s : State) (i : Fin 16) (x : Slot) : (s.setSlot i x).zones = s.zones := rfl
@[simp] theorem setSlot_pool (s : State) (i : Fin 16) (x : Slot) : (s.setSlot i x).pool = s.pool := rfl
@[simp] theorem setSlot_work (s : State) (i : Fin 16) (x : Slot) : (s.setSlot i x).work = s.work := rfl
@[simp] theorem setSlot_lots (s : State) (i : Fin 16) (x : Slot) : (s.setSlot i x).lots = s.lots := rfl
@[simp] theorem setSlot_lamps (s : State) (i : Fin 16) (x : Slot) : (s.setSlot i x).lamps = s.lamps := rfl

/-! ### modSlot -/

@[simp] theorem modSlot_pending (s : State) (i : Fin 16) (f : Slot → Slot) : (s.modSlot i f).pending = s.pending := rfl
@[simp] theorem modSlot_now (s : State) (i : Fin 16) (f : Slot → Slot) : (s.modSlot i f).now = s.now := rfl
@[simp] theorem modSlot_line (s : State) (i : Fin 16) (f : Slot → Slot) : (s.modSlot i f).line = s.line := rfl
@[simp] theorem modSlot_bus (s : State) (i : Fin 16) (f : Slot → Slot) : (s.modSlot i f).bus = s.bus := rfl
@[simp] theorem modSlot_power (s : State) (i : Fin 16) (f : Slot → Slot) : (s.modSlot i f).power = s.power := rfl
@[simp] theorem modSlot_plans (s : State) (i : Fin 16) (f : Slot → Slot) : (s.modSlot i f).plans = s.plans := rfl
@[simp] theorem modSlot_staging (s : State) (i : Fin 16) (f : Slot → Slot) : (s.modSlot i f).staging = s.staging := rfl
@[simp] theorem modSlot_profiles (s : State) (i : Fin 16) (f : Slot → Slot) : (s.modSlot i f).profiles = s.profiles := rfl
@[simp] theorem modSlot_zones (s : State) (i : Fin 16) (f : Slot → Slot) : (s.modSlot i f).zones = s.zones := rfl
@[simp] theorem modSlot_pool (s : State) (i : Fin 16) (f : Slot → Slot) : (s.modSlot i f).pool = s.pool := rfl
@[simp] theorem modSlot_work (s : State) (i : Fin 16) (f : Slot → Slot) : (s.modSlot i f).work = s.work := rfl
@[simp] theorem modSlot_lots (s : State) (i : Fin 16) (f : Slot → Slot) : (s.modSlot i f).lots = s.lots := rfl
@[simp] theorem modSlot_lamps (s : State) (i : Fin 16) (f : Slot → Slot) : (s.modSlot i f).lamps = s.lamps := rfl

/-! ### modAcc -/

@[simp] theorem modAcc_pending (s : State) (i : Fin 16) (f : Accum → Accum) : (s.modAcc i f).pending = s.pending := rfl
@[simp] theorem modAcc_now (s : State) (i : Fin 16) (f : Accum → Accum) : (s.modAcc i f).now = s.now := rfl
@[simp] theorem modAcc_line (s : State) (i : Fin 16) (f : Accum → Accum) : (s.modAcc i f).line = s.line := rfl
@[simp] theorem modAcc_bus (s : State) (i : Fin 16) (f : Accum → Accum) : (s.modAcc i f).bus = s.bus := rfl
@[simp] theorem modAcc_power (s : State) (i : Fin 16) (f : Accum → Accum) : (s.modAcc i f).power = s.power := rfl
@[simp] theorem modAcc_plans (s : State) (i : Fin 16) (f : Accum → Accum) : (s.modAcc i f).plans = s.plans := rfl
@[simp] theorem modAcc_staging (s : State) (i : Fin 16) (f : Accum → Accum) : (s.modAcc i f).staging = s.staging := rfl
@[simp] theorem modAcc_profiles (s : State) (i : Fin 16) (f : Accum → Accum) : (s.modAcc i f).profiles = s.profiles := rfl
@[simp] theorem modAcc_zones (s : State) (i : Fin 16) (f : Accum → Accum) : (s.modAcc i f).zones = s.zones := rfl
@[simp] theorem modAcc_pool (s : State) (i : Fin 16) (f : Accum → Accum) : (s.modAcc i f).pool = s.pool := rfl
@[simp] theorem modAcc_work (s : State) (i : Fin 16) (f : Accum → Accum) : (s.modAcc i f).work = s.work := rfl
@[simp] theorem modAcc_lots (s : State) (i : Fin 16) (f : Accum → Accum) : (s.modAcc i f).lots = s.lots := rfl
@[simp] theorem modAcc_lamps (s : State) (i : Fin 16) (f : Accum → Accum) : (s.modAcc i f).lamps = s.lamps := rfl

/-! ### modExec -/

@[simp] theorem modExec_pending (s : State) (i : Fin 16) (f : Executor → Executor) : (s.modExec i f).pending = s.pending := rfl
@[simp] theorem modExec_now (s : State) (i : Fin 16) (f : Executor → Executor) : (s.modExec i f).now = s.now := rfl
@[simp] theorem modExec_line (s : State) (i : Fin 16) (f : Executor → Executor) : (s.modExec i f).line = s.line := rfl
@[simp] theorem modExec_bus (s : State) (i : Fin 16) (f : Executor → Executor) : (s.modExec i f).bus = s.bus := rfl
@[simp] theorem modExec_power (s : State) (i : Fin 16) (f : Executor → Executor) : (s.modExec i f).power = s.power := rfl
@[simp] theorem modExec_plans (s : State) (i : Fin 16) (f : Executor → Executor) : (s.modExec i f).plans = s.plans := rfl
@[simp] theorem modExec_staging (s : State) (i : Fin 16) (f : Executor → Executor) : (s.modExec i f).staging = s.staging := rfl
@[simp] theorem modExec_profiles (s : State) (i : Fin 16) (f : Executor → Executor) : (s.modExec i f).profiles = s.profiles := rfl
@[simp] theorem modExec_zones (s : State) (i : Fin 16) (f : Executor → Executor) : (s.modExec i f).zones = s.zones := rfl
@[simp] theorem modExec_pool (s : State) (i : Fin 16) (f : Executor → Executor) : (s.modExec i f).pool = s.pool := rfl
@[simp] theorem modExec_work (s : State) (i : Fin 16) (f : Executor → Executor) : (s.modExec i f).work = s.work := rfl
@[simp] theorem modExec_lots (s : State) (i : Fin 16) (f : Executor → Executor) : (s.modExec i f).lots = s.lots := rfl
@[simp] theorem modExec_lamps (s : State) (i : Fin 16) (f : Executor → Executor) : (s.modExec i f).lamps = s.lamps := rfl

/-! ### modOp -/

@[simp] theorem modOp_pending (s : State) (i : Fin 16) (f : OpUnit → OpUnit) : (s.modOp i f).pending = s.pending := rfl
@[simp] theorem modOp_now (s : State) (i : Fin 16) (f : OpUnit → OpUnit) : (s.modOp i f).now = s.now := rfl
@[simp] theorem modOp_line (s : State) (i : Fin 16) (f : OpUnit → OpUnit) : (s.modOp i f).line = s.line := rfl
@[simp] theorem modOp_bus (s : State) (i : Fin 16) (f : OpUnit → OpUnit) : (s.modOp i f).bus = s.bus := rfl
@[simp] theorem modOp_power (s : State) (i : Fin 16) (f : OpUnit → OpUnit) : (s.modOp i f).power = s.power := rfl
@[simp] theorem modOp_plans (s : State) (i : Fin 16) (f : OpUnit → OpUnit) : (s.modOp i f).plans = s.plans := rfl
@[simp] theorem modOp_staging (s : State) (i : Fin 16) (f : OpUnit → OpUnit) : (s.modOp i f).staging = s.staging := rfl
@[simp] theorem modOp_profiles (s : State) (i : Fin 16) (f : OpUnit → OpUnit) : (s.modOp i f).profiles = s.profiles := rfl
@[simp] theorem modOp_zones (s : State) (i : Fin 16) (f : OpUnit → OpUnit) : (s.modOp i f).zones = s.zones := rfl
@[simp] theorem modOp_pool (s : State) (i : Fin 16) (f : OpUnit → OpUnit) : (s.modOp i f).pool = s.pool := rfl
@[simp] theorem modOp_work (s : State) (i : Fin 16) (f : OpUnit → OpUnit) : (s.modOp i f).work = s.work := rfl
@[simp] theorem modOp_lots (s : State) (i : Fin 16) (f : OpUnit → OpUnit) : (s.modOp i f).lots = s.lots := rfl
@[simp] theorem modOp_lamps (s : State) (i : Fin 16) (f : OpUnit → OpUnit) : (s.modOp i f).lamps = s.lamps := rfl

/-! ### modSweep -/

@[simp] theorem modSweep_pending (s : State) (i : Fin 16) (f : Sweep → Sweep) : (s.modSweep i f).pending = s.pending := rfl
@[simp] theorem modSweep_now (s : State) (i : Fin 16) (f : Sweep → Sweep) : (s.modSweep i f).now = s.now := rfl
@[simp] theorem modSweep_line (s : State) (i : Fin 16) (f : Sweep → Sweep) : (s.modSweep i f).line = s.line := rfl
@[simp] theorem modSweep_bus (s : State) (i : Fin 16) (f : Sweep → Sweep) : (s.modSweep i f).bus = s.bus := rfl
@[simp] theorem modSweep_power (s : State) (i : Fin 16) (f : Sweep → Sweep) : (s.modSweep i f).power = s.power := rfl
@[simp] theorem modSweep_plans (s : State) (i : Fin 16) (f : Sweep → Sweep) : (s.modSweep i f).plans = s.plans := rfl
@[simp] theorem modSweep_staging (s : State) (i : Fin 16) (f : Sweep → Sweep) : (s.modSweep i f).staging = s.staging := rfl
@[simp] theorem modSweep_profiles (s : State) (i : Fin 16) (f : Sweep → Sweep) : (s.modSweep i f).profiles = s.profiles := rfl
@[simp] theorem modSweep_zones (s : State) (i : Fin 16) (f : Sweep → Sweep) : (s.modSweep i f).zones = s.zones := rfl
@[simp] theorem modSweep_pool (s : State) (i : Fin 16) (f : Sweep → Sweep) : (s.modSweep i f).pool = s.pool := rfl
@[simp] theorem modSweep_work (s : State) (i : Fin 16) (f : Sweep → Sweep) : (s.modSweep i f).work = s.work := rfl
@[simp] theorem modSweep_lots (s : State) (i : Fin 16) (f : Sweep → Sweep) : (s.modSweep i f).lots = s.lots := rfl
@[simp] theorem modSweep_lamps (s : State) (i : Fin 16) (f : Sweep → Sweep) : (s.modSweep i f).lamps = s.lamps := rfl

/-! ### setZone -/

@[simp] theorem setZone_pending (s : State) (z : Fin 4) (x : Zone) : (s.setZone z x).pending = s.pending := rfl
@[simp] theorem setZone_now (s : State) (z : Fin 4) (x : Zone) : (s.setZone z x).now = s.now := rfl
@[simp] theorem setZone_line (s : State) (z : Fin 4) (x : Zone) : (s.setZone z x).line = s.line := rfl
@[simp] theorem setZone_bus (s : State) (z : Fin 4) (x : Zone) : (s.setZone z x).bus = s.bus := rfl
@[simp] theorem setZone_power (s : State) (z : Fin 4) (x : Zone) : (s.setZone z x).power = s.power := rfl
@[simp] theorem setZone_plans (s : State) (z : Fin 4) (x : Zone) : (s.setZone z x).plans = s.plans := rfl
@[simp] theorem setZone_staging (s : State) (z : Fin 4) (x : Zone) : (s.setZone z x).staging = s.staging := rfl
@[simp] theorem setZone_profiles (s : State) (z : Fin 4) (x : Zone) : (s.setZone z x).profiles = s.profiles := rfl
@[simp] theorem setZone_slots (s : State) (z : Fin 4) (x : Zone) : (s.setZone z x).slots = s.slots := rfl
@[simp] theorem setZone_pool (s : State) (z : Fin 4) (x : Zone) : (s.setZone z x).pool = s.pool := rfl
@[simp] theorem setZone_work (s : State) (z : Fin 4) (x : Zone) : (s.setZone z x).work = s.work := rfl
@[simp] theorem setZone_lots (s : State) (z : Fin 4) (x : Zone) : (s.setZone z x).lots = s.lots := rfl
@[simp] theorem setZone_lamps (s : State) (z : Fin 4) (x : Zone) : (s.setZone z x).lamps = s.lamps := rfl

/-! ### modZone -/

@[simp] theorem modZone_pending (s : State) (z : Fin 4) (f : Zone → Zone) : (s.modZone z f).pending = s.pending := rfl
@[simp] theorem modZone_now (s : State) (z : Fin 4) (f : Zone → Zone) : (s.modZone z f).now = s.now := rfl
@[simp] theorem modZone_line (s : State) (z : Fin 4) (f : Zone → Zone) : (s.modZone z f).line = s.line := rfl
@[simp] theorem modZone_bus (s : State) (z : Fin 4) (f : Zone → Zone) : (s.modZone z f).bus = s.bus := rfl
@[simp] theorem modZone_power (s : State) (z : Fin 4) (f : Zone → Zone) : (s.modZone z f).power = s.power := rfl
@[simp] theorem modZone_plans (s : State) (z : Fin 4) (f : Zone → Zone) : (s.modZone z f).plans = s.plans := rfl
@[simp] theorem modZone_staging (s : State) (z : Fin 4) (f : Zone → Zone) : (s.modZone z f).staging = s.staging := rfl
@[simp] theorem modZone_profiles (s : State) (z : Fin 4) (f : Zone → Zone) : (s.modZone z f).profiles = s.profiles := rfl
@[simp] theorem modZone_slots (s : State) (z : Fin 4) (f : Zone → Zone) : (s.modZone z f).slots = s.slots := rfl
@[simp] theorem modZone_pool (s : State) (z : Fin 4) (f : Zone → Zone) : (s.modZone z f).pool = s.pool := rfl
@[simp] theorem modZone_work (s : State) (z : Fin 4) (f : Zone → Zone) : (s.modZone z f).work = s.work := rfl
@[simp] theorem modZone_lots (s : State) (z : Fin 4) (f : Zone → Zone) : (s.modZone z f).lots = s.lots := rfl
@[simp] theorem modZone_lamps (s : State) (z : Fin 4) (f : Zone → Zone) : (s.modZone z f).lamps = s.lamps := rfl

/-! ### withLine -/

@[simp] theorem withLine_pending (s : State) (l : Line) : (s.withLine l).pending = s.pending := rfl
@[simp] theorem withLine_now (s : State) (l : Line) : (s.withLine l).now = s.now := rfl
@[simp] theorem withLine_line (s : State) (l : Line) : (s.withLine l).line = l := rfl
@[simp] theorem withLine_bus (s : State) (l : Line) : (s.withLine l).bus = s.bus := rfl
@[simp] theorem withLine_power (s : State) (l : Line) : (s.withLine l).power = s.power := rfl
@[simp] theorem withLine_plans (s : State) (l : Line) : (s.withLine l).plans = s.plans := rfl
@[simp] theorem withLine_staging (s : State) (l : Line) : (s.withLine l).staging = s.staging := rfl
@[simp] theorem withLine_profiles (s : State) (l : Line) : (s.withLine l).profiles = s.profiles := rfl
@[simp] theorem withLine_slots (s : State) (l : Line) : (s.withLine l).slots = s.slots := rfl
@[simp] theorem withLine_zones (s : State) (l : Line) : (s.withLine l).zones = s.zones := rfl
@[simp] theorem withLine_pool (s : State) (l : Line) : (s.withLine l).pool = s.pool := rfl
@[simp] theorem withLine_work (s : State) (l : Line) : (s.withLine l).work = s.work := rfl
@[simp] theorem withLine_lots (s : State) (l : Line) : (s.withLine l).lots = s.lots := rfl
@[simp] theorem withLine_lamps (s : State) (l : Line) : (s.withLine l).lamps = s.lamps := rfl

/-! ### withPower -/

@[simp] theorem withPower_pending (s : State) (p : Power) : (s.withPower p).pending = s.pending := rfl
@[simp] theorem withPower_now (s : State) (p : Power) : (s.withPower p).now = s.now := rfl
@[simp] theorem withPower_line (s : State) (p : Power) : (s.withPower p).line = s.line := rfl
@[simp] theorem withPower_bus (s : State) (p : Power) : (s.withPower p).bus = s.bus := rfl
@[simp] theorem withPower_power (s : State) (p : Power) : (s.withPower p).power = p := rfl
@[simp] theorem withPower_plans (s : State) (p : Power) : (s.withPower p).plans = s.plans := rfl
@[simp] theorem withPower_staging (s : State) (p : Power) : (s.withPower p).staging = s.staging := rfl
@[simp] theorem withPower_profiles (s : State) (p : Power) : (s.withPower p).profiles = s.profiles := rfl
@[simp] theorem withPower_slots (s : State) (p : Power) : (s.withPower p).slots = s.slots := rfl
@[simp] theorem withPower_zones (s : State) (p : Power) : (s.withPower p).zones = s.zones := rfl
@[simp] theorem withPower_pool (s : State) (p : Power) : (s.withPower p).pool = s.pool := rfl
@[simp] theorem withPower_work (s : State) (p : Power) : (s.withPower p).work = s.work := rfl
@[simp] theorem withPower_lots (s : State) (p : Power) : (s.withPower p).lots = s.lots := rfl
@[simp] theorem withPower_lamps (s : State) (p : Power) : (s.withPower p).lamps = s.lamps := rfl

/-! ### withPool -/

@[simp] theorem withPool_pending (s : State) (p : Pool) : (s.withPool p).pending = s.pending := rfl
@[simp] theorem withPool_now (s : State) (p : Pool) : (s.withPool p).now = s.now := rfl
@[simp] theorem withPool_line (s : State) (p : Pool) : (s.withPool p).line = s.line := rfl
@[simp] theorem withPool_bus (s : State) (p : Pool) : (s.withPool p).bus = s.bus := rfl
@[simp] theorem withPool_power (s : State) (p : Pool) : (s.withPool p).power = s.power := rfl
@[simp] theorem withPool_plans (s : State) (p : Pool) : (s.withPool p).plans = s.plans := rfl
@[simp] theorem withPool_staging (s : State) (p : Pool) : (s.withPool p).staging = s.staging := rfl
@[simp] theorem withPool_profiles (s : State) (p : Pool) : (s.withPool p).profiles = s.profiles := rfl
@[simp] theorem withPool_slots (s : State) (p : Pool) : (s.withPool p).slots = s.slots := rfl
@[simp] theorem withPool_zones (s : State) (p : Pool) : (s.withPool p).zones = s.zones := rfl
@[simp] theorem withPool_pool (s : State) (p : Pool) : (s.withPool p).pool = p := rfl
@[simp] theorem withPool_work (s : State) (p : Pool) : (s.withPool p).work = s.work := rfl
@[simp] theorem withPool_lots (s : State) (p : Pool) : (s.withPool p).lots = s.lots := rfl
@[simp] theorem withPool_lamps (s : State) (p : Pool) : (s.withPool p).lamps = s.lamps := rfl

/-! ### withLots -/

@[simp] theorem withLots_pending (s : State) (l : LotBuilder) : (s.withLots l).pending = s.pending := rfl
@[simp] theorem withLots_now (s : State) (l : LotBuilder) : (s.withLots l).now = s.now := rfl
@[simp] theorem withLots_line (s : State) (l : LotBuilder) : (s.withLots l).line = s.line := rfl
@[simp] theorem withLots_bus (s : State) (l : LotBuilder) : (s.withLots l).bus = s.bus := rfl
@[simp] theorem withLots_power (s : State) (l : LotBuilder) : (s.withLots l).power = s.power := rfl
@[simp] theorem withLots_plans (s : State) (l : LotBuilder) : (s.withLots l).plans = s.plans := rfl
@[simp] theorem withLots_staging (s : State) (l : LotBuilder) : (s.withLots l).staging = s.staging := rfl
@[simp] theorem withLots_profiles (s : State) (l : LotBuilder) : (s.withLots l).profiles = s.profiles := rfl
@[simp] theorem withLots_slots (s : State) (l : LotBuilder) : (s.withLots l).slots = s.slots := rfl
@[simp] theorem withLots_zones (s : State) (l : LotBuilder) : (s.withLots l).zones = s.zones := rfl
@[simp] theorem withLots_pool (s : State) (l : LotBuilder) : (s.withLots l).pool = s.pool := rfl
@[simp] theorem withLots_work (s : State) (l : LotBuilder) : (s.withLots l).work = s.work := rfl
@[simp] theorem withLots_lots (s : State) (l : LotBuilder) : (s.withLots l).lots = l := rfl
@[simp] theorem withLots_lamps (s : State) (l : LotBuilder) : (s.withLots l).lamps = s.lamps := rfl

/-! ### withWork -/

@[simp] theorem withWork_pending (s : State) (w : List Work) : (s.withWork w).pending = s.pending := rfl
@[simp] theorem withWork_now (s : State) (w : List Work) : (s.withWork w).now = s.now := rfl
@[simp] theorem withWork_line (s : State) (w : List Work) : (s.withWork w).line = s.line := rfl
@[simp] theorem withWork_bus (s : State) (w : List Work) : (s.withWork w).bus = s.bus := rfl
@[simp] theorem withWork_power (s : State) (w : List Work) : (s.withWork w).power = s.power := rfl
@[simp] theorem withWork_plans (s : State) (w : List Work) : (s.withWork w).plans = s.plans := rfl
@[simp] theorem withWork_staging (s : State) (w : List Work) : (s.withWork w).staging = s.staging := rfl
@[simp] theorem withWork_profiles (s : State) (w : List Work) : (s.withWork w).profiles = s.profiles := rfl
@[simp] theorem withWork_slots (s : State) (w : List Work) : (s.withWork w).slots = s.slots := rfl
@[simp] theorem withWork_zones (s : State) (w : List Work) : (s.withWork w).zones = s.zones := rfl
@[simp] theorem withWork_pool (s : State) (w : List Work) : (s.withWork w).pool = s.pool := rfl
@[simp] theorem withWork_work (s : State) (w : List Work) : (s.withWork w).work = w := rfl
@[simp] theorem withWork_lots (s : State) (w : List Work) : (s.withWork w).lots = s.lots := rfl
@[simp] theorem withWork_lamps (s : State) (w : List Work) : (s.withWork w).lamps = s.lamps := rfl

/-! ### setPlan -/

@[simp] theorem setPlan_pending (s : State) (p : Fin 4) (x : Option Plan) : (s.setPlan p x).pending = s.pending := rfl
@[simp] theorem setPlan_now (s : State) (p : Fin 4) (x : Option Plan) : (s.setPlan p x).now = s.now := rfl
@[simp] theorem setPlan_line (s : State) (p : Fin 4) (x : Option Plan) : (s.setPlan p x).line = s.line := rfl
@[simp] theorem setPlan_bus (s : State) (p : Fin 4) (x : Option Plan) : (s.setPlan p x).bus = s.bus := rfl
@[simp] theorem setPlan_power (s : State) (p : Fin 4) (x : Option Plan) : (s.setPlan p x).power = s.power := rfl
@[simp] theorem setPlan_staging (s : State) (p : Fin 4) (x : Option Plan) : (s.setPlan p x).staging = s.staging := rfl
@[simp] theorem setPlan_profiles (s : State) (p : Fin 4) (x : Option Plan) : (s.setPlan p x).profiles = s.profiles := rfl
@[simp] theorem setPlan_slots (s : State) (p : Fin 4) (x : Option Plan) : (s.setPlan p x).slots = s.slots := rfl
@[simp] theorem setPlan_zones (s : State) (p : Fin 4) (x : Option Plan) : (s.setPlan p x).zones = s.zones := rfl
@[simp] theorem setPlan_pool (s : State) (p : Fin 4) (x : Option Plan) : (s.setPlan p x).pool = s.pool := rfl
@[simp] theorem setPlan_work (s : State) (p : Fin 4) (x : Option Plan) : (s.setPlan p x).work = s.work := rfl
@[simp] theorem setPlan_lots (s : State) (p : Fin 4) (x : Option Plan) : (s.setPlan p x).lots = s.lots := rfl
@[simp] theorem setPlan_lamps (s : State) (p : Fin 4) (x : Option Plan) : (s.setPlan p x).lamps = s.lamps := rfl

/-! ### setStaging -/

@[simp] theorem setStaging_pending (s : State) (p : Fin 4) (x : Option Plan) : (s.setStaging p x).pending = s.pending := rfl
@[simp] theorem setStaging_now (s : State) (p : Fin 4) (x : Option Plan) : (s.setStaging p x).now = s.now := rfl
@[simp] theorem setStaging_line (s : State) (p : Fin 4) (x : Option Plan) : (s.setStaging p x).line = s.line := rfl
@[simp] theorem setStaging_bus (s : State) (p : Fin 4) (x : Option Plan) : (s.setStaging p x).bus = s.bus := rfl
@[simp] theorem setStaging_power (s : State) (p : Fin 4) (x : Option Plan) : (s.setStaging p x).power = s.power := rfl
@[simp] theorem setStaging_plans (s : State) (p : Fin 4) (x : Option Plan) : (s.setStaging p x).plans = s.plans := rfl
@[simp] theorem setStaging_profiles (s : State) (p : Fin 4) (x : Option Plan) : (s.setStaging p x).profiles = s.profiles := rfl
@[simp] theorem setStaging_slots (s : State) (p : Fin 4) (x : Option Plan) : (s.setStaging p x).slots = s.slots := rfl
@[simp] theorem setStaging_zones (s : State) (p : Fin 4) (x : Option Plan) : (s.setStaging p x).zones = s.zones := rfl
@[simp] theorem setStaging_pool (s : State) (p : Fin 4) (x : Option Plan) : (s.setStaging p x).pool = s.pool := rfl
@[simp] theorem setStaging_work (s : State) (p : Fin 4) (x : Option Plan) : (s.setStaging p x).work = s.work := rfl
@[simp] theorem setStaging_lots (s : State) (p : Fin 4) (x : Option Plan) : (s.setStaging p x).lots = s.lots := rfl
@[simp] theorem setStaging_lamps (s : State) (p : Fin 4) (x : Option Plan) : (s.setStaging p x).lamps = s.lamps := rfl

/-! ### setProfile -/

@[simp] theorem setProfile_pending (s : State) (p : Fin 4) (x : Option Profile) : (s.setProfile p x).pending = s.pending := rfl
@[simp] theorem setProfile_now (s : State) (p : Fin 4) (x : Option Profile) : (s.setProfile p x).now = s.now := rfl
@[simp] theorem setProfile_line (s : State) (p : Fin 4) (x : Option Profile) : (s.setProfile p x).line = s.line := rfl
@[simp] theorem setProfile_bus (s : State) (p : Fin 4) (x : Option Profile) : (s.setProfile p x).bus = s.bus := rfl
@[simp] theorem setProfile_power (s : State) (p : Fin 4) (x : Option Profile) : (s.setProfile p x).power = s.power := rfl
@[simp] theorem setProfile_plans (s : State) (p : Fin 4) (x : Option Profile) : (s.setProfile p x).plans = s.plans := rfl
@[simp] theorem setProfile_staging (s : State) (p : Fin 4) (x : Option Profile) : (s.setProfile p x).staging = s.staging := rfl
@[simp] theorem setProfile_slots (s : State) (p : Fin 4) (x : Option Profile) : (s.setProfile p x).slots = s.slots := rfl
@[simp] theorem setProfile_zones (s : State) (p : Fin 4) (x : Option Profile) : (s.setProfile p x).zones = s.zones := rfl
@[simp] theorem setProfile_pool (s : State) (p : Fin 4) (x : Option Profile) : (s.setProfile p x).pool = s.pool := rfl
@[simp] theorem setProfile_work (s : State) (p : Fin 4) (x : Option Profile) : (s.setProfile p x).work = s.work := rfl
@[simp] theorem setProfile_lots (s : State) (p : Fin 4) (x : Option Profile) : (s.setProfile p x).lots = s.lots := rfl
@[simp] theorem setProfile_lamps (s : State) (p : Fin 4) (x : Option Profile) : (s.setProfile p x).lamps = s.lamps := rfl

/-! ### setHeld -/

@[simp] theorem setHeld_pending (s : State) (h : List Byte) : (s.setHeld h).pending = s.pending := rfl
@[simp] theorem setHeld_now (s : State) (h : List Byte) : (s.setHeld h).now = s.now := rfl
@[simp] theorem setHeld_bus (s : State) (h : List Byte) : (s.setHeld h).bus = s.bus := rfl
@[simp] theorem setHeld_power (s : State) (h : List Byte) : (s.setHeld h).power = s.power := rfl
@[simp] theorem setHeld_plans (s : State) (h : List Byte) : (s.setHeld h).plans = s.plans := rfl
@[simp] theorem setHeld_staging (s : State) (h : List Byte) : (s.setHeld h).staging = s.staging := rfl
@[simp] theorem setHeld_profiles (s : State) (h : List Byte) : (s.setHeld h).profiles = s.profiles := rfl
@[simp] theorem setHeld_slots (s : State) (h : List Byte) : (s.setHeld h).slots = s.slots := rfl
@[simp] theorem setHeld_zones (s : State) (h : List Byte) : (s.setHeld h).zones = s.zones := rfl
@[simp] theorem setHeld_pool (s : State) (h : List Byte) : (s.setHeld h).pool = s.pool := rfl
@[simp] theorem setHeld_work (s : State) (h : List Byte) : (s.setHeld h).work = s.work := rfl
@[simp] theorem setHeld_lots (s : State) (h : List Byte) : (s.setHeld h).lots = s.lots := rfl
@[simp] theorem setHeld_lamps (s : State) (h : List Byte) : (s.setHeld h).lamps = s.lamps := rfl

/-! ### setReservation -/

@[simp] theorem setReservation_pending (s : State) (r : Nat) : (s.setReservation r).pending = s.pending := rfl
@[simp] theorem setReservation_now (s : State) (r : Nat) : (s.setReservation r).now = s.now := rfl
@[simp] theorem setReservation_line (s : State) (r : Nat) : (s.setReservation r).line = s.line := rfl
@[simp] theorem setReservation_bus (s : State) (r : Nat) : (s.setReservation r).bus = s.bus := rfl
@[simp] theorem setReservation_plans (s : State) (r : Nat) : (s.setReservation r).plans = s.plans := rfl
@[simp] theorem setReservation_staging (s : State) (r : Nat) : (s.setReservation r).staging = s.staging := rfl
@[simp] theorem setReservation_profiles (s : State) (r : Nat) : (s.setReservation r).profiles = s.profiles := rfl
@[simp] theorem setReservation_slots (s : State) (r : Nat) : (s.setReservation r).slots = s.slots := rfl
@[simp] theorem setReservation_zones (s : State) (r : Nat) : (s.setReservation r).zones = s.zones := rfl
@[simp] theorem setReservation_pool (s : State) (r : Nat) : (s.setReservation r).pool = s.pool := rfl
@[simp] theorem setReservation_work (s : State) (r : Nat) : (s.setReservation r).work = s.work := rfl
@[simp] theorem setReservation_lots (s : State) (r : Nat) : (s.setReservation r).lots = s.lots := rfl
@[simp] theorem setReservation_lamps (s : State) (r : Nat) : (s.setReservation r).lamps = s.lamps := rfl

/-! ### refreshLamps -/

@[simp] theorem refreshLamps_pending (s : State) : (refreshLamps s).pending = s.pending := rfl
@[simp] theorem refreshLamps_now (s : State) : (refreshLamps s).now = s.now := rfl
@[simp] theorem refreshLamps_line (s : State) : (refreshLamps s).line = s.line := rfl
@[simp] theorem refreshLamps_bus (s : State) : (refreshLamps s).bus = s.bus := rfl
@[simp] theorem refreshLamps_power (s : State) : (refreshLamps s).power = s.power := rfl
@[simp] theorem refreshLamps_plans (s : State) : (refreshLamps s).plans = s.plans := rfl
@[simp] theorem refreshLamps_staging (s : State) : (refreshLamps s).staging = s.staging := rfl
@[simp] theorem refreshLamps_profiles (s : State) : (refreshLamps s).profiles = s.profiles := rfl
@[simp] theorem refreshLamps_slots (s : State) : (refreshLamps s).slots = s.slots := rfl
@[simp] theorem refreshLamps_zones (s : State) : (refreshLamps s).zones = s.zones := rfl
@[simp] theorem refreshLamps_pool (s : State) : (refreshLamps s).pool = s.pool := rfl
@[simp] theorem refreshLamps_work (s : State) : (refreshLamps s).work = s.work := rfl
@[simp] theorem refreshLamps_lots (s : State) : (refreshLamps s).lots = s.lots := rfl

/-! ### Slots and zones through the updates -/

theorem slot_setSlot (s : State) (i j : Fin 16) (x : Slot) : (s.setSlot i x).slot j = if j = i then x else s.slot j := by
  simp only [State.slot, State.setSlot, Vector.get_eq_getElem, Vector.getElem_set]
  by_cases h : j = i
  · simp [h]
  · simp [h, Fin.val_ne_of_ne (Ne.symm h)]

@[simp] theorem slot_setSlot_same (s : State) (i : Fin 16) (x : Slot) : (s.setSlot i x).slot i = x := by
  simp [slot_setSlot]

theorem slot_setSlot_ne (s : State) {i j : Fin 16} (x : Slot) (h : j ≠ i) : (s.setSlot i x).slot j = s.slot j := by
  simp [slot_setSlot, h]

@[simp] theorem slot_modSlot_same (s : State) (i : Fin 16) (f : Slot → Slot) : (s.modSlot i f).slot i = f (s.slot i) := by
  simp [State.modSlot]

theorem slot_modSlot_ne (s : State) {i j : Fin 16} (f : Slot → Slot) (h : j ≠ i) : (s.modSlot i f).slot j = s.slot j := by
  simp [State.modSlot, slot_setSlot, h]

@[simp] theorem setSlot_slot (s : State) (i : Fin 16) : s.setSlot i (s.slot i) = s := by
  simp [State.setSlot, State.slot, Vector.get_eq_getElem]

@[simp] theorem setSlot_setSlot (s : State) (i : Fin 16) (x y : Slot) : (s.setSlot i x).setSlot i y = s.setSlot i y := by
  simp [State.setSlot]

theorem zone_setZone (s : State) (z y : Fin 4) (x : Zone) : (s.setZone z x).zone y = if y = z then x else s.zone y := by
  simp only [State.zone, State.setZone, Vector.get_eq_getElem, Vector.getElem_set]
  by_cases h : y = z
  · simp [h]
  · simp [h, Fin.val_ne_of_ne (Ne.symm h)]

@[simp] theorem zone_setZone_same (s : State) (z : Fin 4) (x : Zone) : (s.setZone z x).zone z = x := by
  simp [zone_setZone]

theorem zone_setZone_ne (s : State) {z y : Fin 4} (x : Zone) (h : y ≠ z) : (s.setZone z x).zone y = s.zone y := by
  simp [zone_setZone, h]

@[simp] theorem zone_modZone_same (s : State) (z : Fin 4) (f : Zone → Zone) : (s.modZone z f).zone z = f (s.zone z) := by
  simp [State.modZone]

theorem zone_modZone_ne (s : State) {z y : Fin 4} (f : Zone → Zone) (h : y ≠ z) : (s.modZone z f).zone y = s.zone y := by
  simp [State.modZone, zone_setZone, h]

@[simp] theorem setZone_slot (s : State) (z : Fin 4) (x : Zone) (i : Fin 16) : (s.setZone z x).slot i = s.slot i := rfl
@[simp] theorem modZone_slot (s : State) (z : Fin 4) (f : Zone → Zone) (i : Fin 16) : (s.modZone z f).slot i = s.slot i := rfl
@[simp] theorem setSlot_zone (s : State) (i : Fin 16) (x : Slot) (z : Fin 4) : (s.setSlot i x).zone z = s.zone z := rfl
@[simp] theorem modSlot_zone (s : State) (i : Fin 16) (f : Slot → Slot) (z : Fin 4) : (s.modSlot i f).zone z = s.zone z := rfl
@[simp] theorem withLine_slot (s : State) (l : Line) (i : Fin 16) : (s.withLine l).slot i = s.slot i := rfl
@[simp] theorem withLine_zone (s : State) (l : Line) (z : Fin 4) : (s.withLine l).zone z = s.zone z := rfl
@[simp] theorem withPower_slot (s : State) (p : Power) (i : Fin 16) : (s.withPower p).slot i = s.slot i := rfl
@[simp] theorem withPower_zone (s : State) (p : Power) (z : Fin 4) : (s.withPower p).zone z = s.zone z := rfl
@[simp] theorem withPool_slot (s : State) (p : Pool) (i : Fin 16) : (s.withPool p).slot i = s.slot i := rfl
@[simp] theorem withPool_zone (s : State) (p : Pool) (z : Fin 4) : (s.withPool p).zone z = s.zone z := rfl
@[simp] theorem withLots_slot (s : State) (l : LotBuilder) (i : Fin 16) : (s.withLots l).slot i = s.slot i := rfl
@[simp] theorem withLots_zone (s : State) (l : LotBuilder) (z : Fin 4) : (s.withLots l).zone z = s.zone z := rfl
@[simp] theorem withWork_slot (s : State) (w : List Work) (i : Fin 16) : (s.withWork w).slot i = s.slot i := rfl
@[simp] theorem withWork_zone (s : State) (w : List Work) (z : Fin 4) : (s.withWork w).zone z = s.zone z := rfl
@[simp] theorem setPlan_slot (s : State) (p : Fin 4) (x : Option Plan) (i : Fin 16) : (s.setPlan p x).slot i = s.slot i := rfl
@[simp] theorem setPlan_zone (s : State) (p : Fin 4) (x : Option Plan) (z : Fin 4) : (s.setPlan p x).zone z = s.zone z := rfl
@[simp] theorem setStaging_slot (s : State) (p : Fin 4) (x : Option Plan) (i : Fin 16) : (s.setStaging p x).slot i = s.slot i := rfl
@[simp] theorem setStaging_zone (s : State) (p : Fin 4) (x : Option Plan) (z : Fin 4) : (s.setStaging p x).zone z = s.zone z := rfl
@[simp] theorem setProfile_slot (s : State) (p : Fin 4) (x : Option Profile) (i : Fin 16) : (s.setProfile p x).slot i = s.slot i := rfl
@[simp] theorem setProfile_zone (s : State) (p : Fin 4) (x : Option Profile) (z : Fin 4) : (s.setProfile p x).zone z = s.zone z := rfl
@[simp] theorem setHeld_slot (s : State) (h : List Byte) (i : Fin 16) : (s.setHeld h).slot i = s.slot i := rfl
@[simp] theorem setHeld_zone (s : State) (h : List Byte) (z : Fin 4) : (s.setHeld h).zone z = s.zone z := rfl
@[simp] theorem setReservation_slot (s : State) (r : Nat) (i : Fin 16) : (s.setReservation r).slot i = s.slot i := rfl
@[simp] theorem setReservation_zone (s : State) (r : Nat) (z : Fin 4) : (s.setReservation r).zone z = s.zone z := rfl
@[simp] theorem refreshLamps_slot (s : State) (i : Fin 16) : (refreshLamps s).slot i = s.slot i := rfl
@[simp] theorem refreshLamps_zone (s : State) (z : Fin 4) : (refreshLamps s).zone z = s.zone z := rfl

/-! ### Meetings -/

@[simp] theorem unmet_pending (f : State → State) (s : State) : (unmet f s).pending = s.pending := rfl

theorem pauseMeets_alone {s : State} (h : s.pending = []) (i : Fin 16) : s.pauseMeets i = false := by
  simp [State.pauseMeets, h]

/-- A SLOT HOLD that waits next meets where the line takes it and it names the slot. -/
theorem pauseMeets_slotHold {s : State} {r : Req} {rest : List Instr} (h : s.pending = .slotHold r :: rest) (i : Fin 16) :
    s.pauseMeets i = (!s.line.deaf && decide (r.fields = [BitVec.ofNat 8 i.val])) := by
  simp [State.pauseMeets, h]

@[simp] theorem modSlot_pauseMeets (s : State) (i j : Fin 16) (f : Slot → Slot) :
    (s.modSlot i f).pauseMeets j = s.pauseMeets j := rfl

@[simp] theorem stepEntry_slot (s : State) (i : Fin 16) : (s.stepEntry i).slot = i := rfl

/-- Where no pause meets the credit the DWELL ends as any step does (R62). -/
theorem dwellEnds_unmet {i : Fin 16} {s : State} (h : s.pauseMeets i = false) : dwellEnds i s = nextStep i s := by
  simp only [dwellEnds, nextStep, proceed, h]

end Sys2Proof.Machine
end

