-- ==== Sys2Proof/Laws/Answered.lean ====
section
/-! SUPPORT. What a request row that is taken leaves, and the lengths of fields. -/

namespace Sys2Proof.Machine

/-- A request row that is taken is answered with what its handler finds, from the state its frame's end leaves. -/
theorem answers_taken {c : Instr} {kind : Byte} {r : Req} {s u : State} {rep : Reply} {d : Bool}
    {h : List Byte → State → State × Reply} (hc : exec c s = completed (taken kind d r h s)) (hd : s.line.deaf = false)
    (hx : r.broadcast = true → d = false) (hh : h r.fields s.hunting = (u, rep)) : Answers c r kind rep s u := by
  unfold Answers
  rw [hc]
  show Host.Outcome.next _ = _
  congr 2
  unfold taken State.replied
  simp only [hd]
  show (if r.broadcast = true then if d = true then s.hunting else (h r.fields s.hunting).1
    else respond r.tag kind (h r.fields s.hunting)) = _
  rw [hh]
  split
  · rename_i hb; simp [hx hb]
  · rfl

theorem le_length (k n : Nat) : (le k n).length = k := by
  induction k generalizing n with
  | zero => rfl
  | succ k ih => simp [le, ih]

theorem padTo_length (n : Nat) (l : List Byte) : (padTo n l).length = n := by
  simp [padTo]; omega

theorem markedInt_length (k : Nat) (o : Option Int) : (markedInt k o).length = k + 1 := by
  cases o <;> simp [markedInt, leInt, le_length]

theorem untouched_refreshLamps {s t : State} (h : Untouched s t) : Untouched s (refreshLamps t) := by
  obtain ⟨a, b, c, d, e, f, g, h, i, j, k, l⟩ := h
  exact ⟨a, b, c, d, e, f, g, h, i, j, k, l⟩

end Sys2Proof.Machine
end

