-- ==== Sys2Proof/Laws/Quiet.lean ====
section
/-! SUPPORT. The sweep engine and the buffer pool: what their operations can do, said once. Each leaves every field but slots, pool
and work, and of every slot all but its executor, operation, engine and accumulators; each accounts for the buffers it moves. -/

namespace Sys2Proof.Machine

/-! ### Sums over the slots -/

theorem sum_slotIds_update (f : Fin 16 → Nat) (i : Fin 16) (v : Nat) :
    (slotIds.map fun j => if j = i then v else f j).sum + f i = (slotIds.map f).sum + v := by
  fin_cases i <;> simp [slotIds] <;> omega

theorem sum_slotIds_congr {f g : Fin 16 → Nat} (h : ∀ i, f i = g i) : (slotIds.map f).sum = (slotIds.map g).sum := by
  simp [funext h]

/-! ### The relation -/

/-- The parts of a slot that decide its power, its seat and its lists are the same. -/
structure SlotFixed (x y : Slot) : Prop where
  state : y.state = x.state
  powered : y.powered = x.powered
  spun : y.spun = x.spun
  plan : y.plan = x.plan
  returnTo : y.op.returnTo = x.op.returnTo
  pins : x.SamePins y

theorem Slot.SamePins.refl (x : Slot) : x.SamePins x := ⟨rfl, rfl, rfl, rfl, rfl, rfl⟩

theorem Slot.SamePins.trans {x y z : Slot} (h : x.SamePins y) (k : y.SamePins z) : x.SamePins z := by
  obtain ⟨h1, h2, h3, h4, h5, h6⟩ := h
  obtain ⟨k1, k2, k3, k4, k5, k6⟩ := k
  exact ⟨k1.trans h1, k2.trans h2, k3.trans h3, k4.trans h4, k5.trans h5, k6.trans h6⟩

theorem SlotFixed.refl (x : Slot) : SlotFixed x x := ⟨rfl, rfl, rfl, rfl, rfl, .refl x⟩

theorem SlotFixed.trans {x y z : Slot} (h : SlotFixed x y) (k : SlotFixed y z) : SlotFixed x z :=
  ⟨k.state.trans h.state, k.powered.trans h.powered, k.spun.trans h.spun, k.plan.trans h.plan, k.returnTo.trans h.returnTo,
    h.pins.trans k.pins⟩

/-- Nothing but slots, pool and work changes, no slot in its fixed parts, and free and held buffers together rise by `d`. -/
structure QuietBy (d : Int) (s t : State) : Prop where
  slots : ∀ i, SlotFixed (s.slot i) (t.slot i)
  rest : t = { s with slots := t.slots, pool := t.pool, work := t.work }
  total : ((t.pool.free + t.buffersHeld : Nat) : Int) = (s.pool.free + s.buffersHeld : Nat) + d
  bound : (∀ i, (s.slot i).sweep.hand.length ≤ 2) → ∀ i, (t.slot i).sweep.hand.length ≤ 2

abbrev Quiet (s t : State) : Prop := QuietBy 0 s t

theorem QuietBy.refl (s : State) : Quiet s s := ⟨fun _ => .refl _, rfl, by omega, id⟩

theorem QuietBy.trans {a b : Int} {s t u : State} (h : QuietBy a s t) (k : QuietBy b t u) : QuietBy (a + b) s u := by
  refine ⟨fun i => (h.slots i).trans (k.slots i), ?_, ?_, fun q => k.bound (h.bound q)⟩
  · rw [k.rest, h.rest]
  · rw [k.total, h.total]; omega

theorem QuietBy.cast {a b : Int} {s t : State} (h : QuietBy a s t) (e : a = b) : QuietBy b s t := e ▸ h

theorem Quiet.trans {s t u : State} (h : Quiet s t) (k : Quiet t u) : Quiet s u := (QuietBy.trans h k).cast rfl

/-! ### One slot -/

theorem buffersHeld_setSlot (s : State) (i : Fin 16) (x : Slot) :
    (s.setSlot i x).buffersHeld + (s.slot i).sweep.hand.length = s.buffersHeld + x.sweep.hand.length := by
  have h := sum_slotIds_update (fun j => (s.slot j).sweep.hand.length) i x.sweep.hand.length
  have e : (s.setSlot i x).buffersHeld
      = (slotIds.map fun j => if j = i then x.sweep.hand.length else (s.slot j).sweep.hand.length).sum := by
    refine sum_slotIds_congr fun j => ?_
    rw [slot_setSlot]; split <;> rfl
  rw [e]; exact h

theorem quietBy_setSlot {d : Int} (s : State) (i : Fin 16) (x : Slot) (hf : SlotFixed (s.slot i) x)
    (hd : (x.sweep.hand.length : Int) = (s.slot i).sweep.hand.length + d)
    (hb : (s.slot i).sweep.hand.length ≤ 2 → x.sweep.hand.length ≤ 2) : QuietBy d s (s.setSlot i x) := by
  refine ⟨fun j => ?_, rfl, ?_, fun q j => ?_⟩
  · rw [slot_setSlot]; split
    · subst_vars; exact hf
    · exact .refl _
  · have := buffersHeld_setSlot s i x
    simp only [setSlot_pool]; omega
  · rw [slot_setSlot]; split
    · exact hb (q i)
    · exact q j

theorem quiet_setSlot (s : State) (i : Fin 16) (x : Slot) (hf : SlotFixed (s.slot i) x)
    (hl : x.sweep.hand.length = (s.slot i).sweep.hand.length) : Quiet s (s.setSlot i x) :=
  quietBy_setSlot s i x hf (by omega) (by omega)

theorem quiet_modSlot (s : State) (i : Fin 16) (f : Slot → Slot) (hf : SlotFixed (s.slot i) (f (s.slot i)))
    (hl : (f (s.slot i)).sweep.hand.length = (s.slot i).sweep.hand.length) : Quiet s (s.modSlot i f) :=
  quiet_setSlot s i _ hf hl

theorem quiet_modAcc (s : State) (i : Fin 16) (f : Accum → Accum) : Quiet s (s.modAcc i f) :=
  quiet_modSlot s i _ ⟨rfl, rfl, rfl, rfl, rfl, .refl _⟩ rfl

theorem quiet_modExec (s : State) (i : Fin 16) (f : Executor → Executor) : Quiet s (s.modExec i f) :=
  quiet_modSlot s i _ ⟨rfl, rfl, rfl, rfl, rfl, .refl _⟩ rfl

theorem quiet_modOp (s : State) (i : Fin 16) (f : OpUnit → OpUnit) (h : (f (s.slot i).op).returnTo = (s.slot i).op.returnTo) :
    Quiet s (s.modOp i f) :=
  quiet_modSlot s i _ ⟨rfl, rfl, rfl, rfl, h, .refl _⟩ rfl

theorem quiet_modSweep (s : State) (i : Fin 16) (f : Sweep → Sweep)
    (h : (f (s.slot i).sweep).hand.length = (s.slot i).sweep.hand.length) : Quiet s (s.modSweep i f) :=
  quiet_modSlot s i _ ⟨rfl, rfl, rfl, rfl, rfl, .refl _⟩ h

theorem buffersHeld_withPool (s : State) (p : Pool) : (s.withPool p).buffersHeld = s.buffersHeld := rfl

theorem quiet_withWork (s : State) (w : List Work) : Quiet s (s.withWork w) :=
  ⟨fun _ => .refl _, rfl, (Int.add_zero _).symm, id⟩

theorem quietBy_withPool (s : State) (p : Pool) (d : Int) (h : (p.free : Int) = s.pool.free + d) : QuietBy d s (s.withPool p) :=
  ⟨fun _ => .refl _, rfl, by rw [buffersHeld_withPool, withPool_pool]; omega, id⟩

/-! ### Operations -/

theorem quiet_issue (i : Fin 16) (op : Op) (data : List Byte) (s : State) : Quiet s (issue i op data s) :=
  quiet_modOp s i _ rfl

theorem quietBy_freeBuffer (s : State) : QuietBy 1 s (freeBuffer s) :=
  quietBy_withPool s _ 1 (by simp)

theorem stepped_hand (e : Sweep) : e.stepped.hand = e.hand := by
  unfold Sweep.stepped
  cases e.direction
  case butterfly => simp only; split <;> rfl
  all_goals rfl

theorem takeIndex_hand {x e : Sweep} {k : Nat} (h : x.takeIndex = some (k, e)) : e.hand = x.hand := by
  unfold Sweep.takeIndex at h
  simp only [Option.ite_none_left_eq_some, Option.some.injEq, Prod.mk.injEq] at h
  obtain ⟨-, -, rfl⟩ := h
  rw [stepped_hand]; split <;> rfl

theorem take_hand {x : Slot} {c : Chunk} {again : Bool} {e : Sweep} (h : x.take = some (c, again, e)) :
    e.hand = x.sweep.hand := by
  unfold Slot.take at h
  split at h
  · simp only [Option.some.injEq, Prod.mk.injEq] at h; obtain ⟨-, -, rfl⟩ := h; rfl
  · split at h
    · simp only [Option.some.injEq, Prod.mk.injEq] at h; obtain ⟨-, -, rfl⟩ := h; rfl
    · simp only [Option.map_eq_some_iff, Prod.mk.injEq] at h
      obtain ⟨⟨k, e'⟩, h, -, -, rfl⟩ := h
      exact takeIndex_hand h

theorem quietBy_lend (i : Fin 16) (s : State) : QuietBy 1 s (lend i s) := by
  unfold lend
  simp only
  split
  · rename_i hc
    simp only [Bool.and_eq_true, decide_eq_true_eq] at hc
    obtain ⟨-, hc⟩ := hc
    have hc : (s.slot i).sweep.hand.length < 2 := hc
    split
    · exact quietBy_freeBuffer s
    · rename_i c again e ht
      have hh := take_hand ht
      have h1 : ∀ (y : InHand), QuietBy 1 s (s.setSlot i { s.slot i with sweep := { e with hand := e.hand ++ [y] } }) := by
        intro y
        refine quietBy_setSlot s i _ ⟨rfl, rfl, rfl, rfl, rfl, .refl _⟩ ?_ ?_
        · simp [hh]
        · simp only [hh, List.length_append, List.length_singleton]; omega
      have h2 : ∀ (t : State) (n : Nat), QuietBy 1 s t → QuietBy 1 s (t.withPool { t.pool with lendings := n }) :=
        fun t n h => (h.trans (quietBy_withPool t _ 0 (by simp))).cast rfl
      split
      · exact ((h2 _ _ (h1 _)).trans (quiet_withWork _ _)).cast rfl
      · exact h2 _ _ (h1 _)
  · exact quietBy_freeBuffer s

theorem quiet_issueChunk (i : Fin 16) (h : InHand) (s : State) : Quiet s (issueChunk i h s) := by
  unfold issueChunk
  simp only
  refine Quiet.trans ?_ (Quiet.trans (quiet_modSweep _ i _ ?_) (quiet_issue i _ _ _))
  · split
    · exact quiet_modOp s i _ rfl
    · exact .refl s
  · simp [Sweep.sentOff]

theorem quiet_issueSeek (i : Fin 16) (s : State) : Quiet s (issueSeek i s) := by
  unfold issueSeek
  split
  · exact .refl s
  · rename_i k e h
    exact Quiet.trans (quiet_modSweep s i _ (by rw [takeIndex_hand h])) (quiet_issue i _ _ _)

theorem quiet_issueNext (i : Fin 16) (s : State) : Quiet s (issueNext i s) := by
  unfold issueNext
  split
  · exact quiet_issueSeek i s
  · split
    · exact .refl s
    · exact quiet_issueChunk i _ s

theorem quiet_tryIssue (i : Fin 16) (s : State) : Quiet s (tryIssue i s) := by
  unfold tryIssue
  simp only
  split
  · split
    · exact Quiet.trans (quiet_modOp s i _ rfl) (quiet_issue i _ _ _)
    · split
      · exact .refl s
      · exact quiet_issueChunk i _ s
    · split
      · exact quiet_issueNext i s
      · exact .refl s
  · exact .refl s

theorem quiet_engineRounds (n : Nat) (i : Fin 16) (s : State) : Quiet s (engineRounds n i s) := by
  induction n generalizing s with
  | zero => exact .refl s
  | succ n ih =>
    unfold engineRounds
    simp only
    refine Quiet.trans (quiet_tryIssue i s) ?_
    split
    · split
      · rename_i hf
        refine Quiet.trans ((QuietBy.trans (quietBy_withPool _ _ (-1) ?_) (quietBy_lend i _)).cast (by rfl)) (ih _)
        simp; omega
      · exact quietBy_withPool _ _ 0 (by simp)
    · exact .refl _

theorem quiet_engineGo (i : Fin 16) (s : State) : Quiet s (engineGo i s) := quiet_engineRounds 4 i s

theorem quietBy_returnBuffer (s : State) : QuietBy 1 s (returnBuffer s) := by
  unfold returnBuffer
  split
  · exact quietBy_freeBuffer s
  · exact ((quietBy_withPool s _ 0 (by simp)).trans ((quietBy_lend _ _).trans (quiet_engineGo _ _))).cast (by rfl)

theorem quietBy_returnBuffers (n : Nat) (s : State) : QuietBy n s (returnBuffers n s) := by
  induction n generalizing s with
  | zero => exact .refl s
  | succ n ih => exact ((quietBy_returnBuffer s).trans (ih _)).cast (by push_cast; ring)

theorem quiet_endWork (i : Fin 16) (l : List Nat) (s : State) : Quiet s (endWork i l s) := quiet_withWork s _

theorem filter_split {α : Type} (p : α → Bool) (l : List α) :
    (l.filter fun h => !p h).length + (l.filter p).length = l.length := by
  induction l with
  | nil => rfl
  | cons a l ih => by_cases h : p a <;> simp [h] <;> omega

theorem quiet_dropChunks (i : Fin 16) (p : InHand → Bool) (s : State) : Quiet s (dropChunks i p s) := by
  unfold dropChunks
  simp only
  have hl := filter_split p (s.slot i).sweep.hand
  have h1 : QuietBy (-(((s.slot i).sweep.hand.filter p).length : Int)) s
      (s.modSweep i fun e => { e with hand := e.hand.filter fun h => !p h }) := by
    refine quietBy_setSlot s i _ ⟨rfl, rfl, rfl, rfl, rfl, .refl _⟩ ?_ ?_
    · simp only; omega
    · simp only; omega
  have h2 := (h1.trans (quiet_endWork i (((s.slot i).sweep.hand.filter p).map InHand.lending) _)).trans
    (quietBy_returnBuffers ((s.slot i).sweep.hand.filter p).length _)
  exact h2.cast (by omega)

theorem quiet_leaveBufferList (i : Fin 16) (s : State) : Quiet s (leaveBufferList i s) := quietBy_withPool s _ 0 (by simp)

theorem quiet_voidRunning (i : Fin 16) (s : State) : Quiet s (voidRunning i s) := quiet_modSweep s i _ rfl

theorem quiet_bandCompletion (i : Fin 16) (b : Fin 16) (s : State) : Quiet s (bandCompletion i b s) := by
  unfold bandCompletion
  simp only
  split
  · split
    · exact Quiet.trans (quiet_modSweep s i _ rfl) (quiet_modAcc _ i _)
    · exact quiet_modSweep s i _ rfl
  · exact quiet_modSweep s i _ rfl

theorem quiet_stopEngine (i : Fin 16) (s : State) : Quiet s (stopEngine i s) :=
  Quiet.trans (quiet_modSweep s i _ rfl) (Quiet.trans (quiet_leaveBufferList i _) (quiet_dropChunks i _ _))

theorem quiet_drainEngine (i : Fin 16) (s : State) : Quiet s (drainEngine i s) :=
  Quiet.trans (quiet_modExec s i _) (Quiet.trans (quiet_modOp _ i _ rfl) (Quiet.trans (quiet_modSweep _ i _ rfl)
    (Quiet.trans (quiet_leaveBufferList i _) (quiet_dropChunks i _ _))))

end Sys2Proof.Machine
end

