-- ==== Sys2Proof/Laws/Moves.lean ====
section
/-! SUPPORT. What the events of runs can do, said once: every operation they are made of, admission and lots included, is a chain of
the moves below. An invariant of runs is proved move by move. -/

namespace Sys2Proof.Machine

/-- A slot goes from one record to another with a change of state; `waits` says that it stands on the lot-wait list. With
`strict` a slot joins a lot only from where R148 and R151 let it, which the sound states alone assure. -/
inductive SlotStep (strict : Bool) (waits : Prop) (x y : Slot) : Prop where
  /-- A run, or a wait, ends with the power off (R5, R6), or the power is cut for a while (R81). -/
  | rest (hy : y.state = .done ∨ y.state = .faulted ∨ y.state = .cycling) (hx : x.state ≠ .empty)
      (hw : x.state = .lotWait → ¬ waits) (hp : y.powered = false) (hs : y.spun = false)
  /-- A step waits for spin-up, its power as it was (R50). -/
  | await (hx : x.state = .active) (hy : y.state = .waitPower) (hp : y.powered = x.powered) (hs : y.spun = false)
      (hl : y.plan = x.plan)
  /-- A run starts (R14). -/
  | start (hx : x.state = .seated ∨ x.state = .done) (hy : y.state = .waitPower) (hp : y.powered = false)
      (hs : y.spun = false)
  /-- SPIN DONE (R70). -/
  | activate (hx : x.state = .spinning) (hy : y.state = .active) (hp : y.powered = x.powered) (hl : y.plan = x.plan)
  /-- STANDBY DONE (R70): the power stays, the drive is no longer spun. -/
  | stoodBy (hx : x.state = .active) (hy : y.state = .active) (hp : y.powered = x.powered) (hs : y.spun = false)
      (hl : y.plan = x.plan)
  /-- Stage 1 (R79). -/
  | recover (hx : x.state.holdsOp = true) (hy : y.state = .recovering)
      (hr : y.op.returnTo = some (if x.state = .spinning then .spinning else .active)) (hp : y.powered = x.powered)
      (hs : y.spun = x.spun) (hl : y.plan = x.plan)
  /-- DRIVE RESET DONE (R80). -/
  | resume (hx : x.state = .recovering) (hy : y.state = if x.op.returnTo = some .spinning then .spinning else .active)
      (hp : y.powered = x.powered) (hs : y.spun = x.spun) (hl : y.plan = x.plan)
  /-- The off time ends (R82). -/
  | off (hx : x.state = .cycling) (hy : y.state = .waitPower) (hp : y.powered = false) (hs : y.spun = x.spun)
  /-- A graded slot waits for its lot (R150). -/
  | lotWait (hx : x.state = .done) (hy : y.state = .lotWait) (hp : y.powered = x.powered) (hs : y.spun = x.spun)
  /-- A slot joins a lot (R148). -/
  | join (hx : strict = true → x.state = .done ∨ x.state = .lotWait) (hw : strict = true → x.state = .lotWait → ¬ waits) (hy : y.state = .done) (hp : y.powered = x.powered)
      (hs : y.spun = x.spun)

/-- One move. -/
inductive Move (strict : Bool) : State → State → Prop where
  | raise (n : Nat) (d : Detail) (s : State) : Move strict s (raise n d s)
  | quiet (s t : State) (h : Quiet s t) : Move strict s t
  | reservation (s : State) (r : Nat) : Move strict s (s.setReservation r)
  | grant (s : State) (i : Fin 16) (hw : (s.slot i).state = .waitPower) (hs : s.spinCount < s.power.limit)
      (hb : s.committed + s.need i ≤ s.power.budget) : Move strict s (grant i s)
  | slot (s : State) (i : Fin 16) (y : Slot) (hp : (s.slot i).SamePins y)
      (hh : y.sweep.hand.length = (s.slot i).sweep.hand.length) (h : SlotStep strict (i ∈ s.lots.waiting) (s.slot i) y) :
      Move strict s (s.setSlot i y)
  | lots (s : State) (l : LotBuilder) (hw : ∀ j ∈ l.waiting, j ∈ s.lots.waiting ∨ (s.slot j).state = .lotWait)
      (hm : s.lots.manifest.length ≤ 8 → l.manifest.length ≤ 8) : Move strict s (s.withLots l)

/-- A chain of moves. -/
abbrev Moves (strict : Bool) (s t : State) : Prop := Relation.ReflTransGen (Move strict) s t

variable {strict : Bool}

theorem Moves.refl (s : State) : Moves strict s s := Relation.ReflTransGen.refl

theorem Move.one {s t : State} (h : Move strict s t) : Moves strict s t := Relation.ReflTransGen.single h

theorem Moves.of {s t : State} (h : Quiet s t) : Moves strict s t := Move.one (.quiet s t h)

theorem moves_raise (n : Nat) (d : Detail) (s : State) : Moves strict s (raise n d s) := (Move.raise n d s).one

/-- A move of one slot, as the update that makes it. -/
theorem moves_modSlot (s : State) (i : Fin 16) (f : Slot → Slot) (hp : (s.slot i).SamePins (f (s.slot i)))
    (hh : (f (s.slot i)).sweep.hand.length = (s.slot i).sweep.hand.length)
    (h : SlotStep strict (i ∈ s.lots.waiting) (s.slot i) (f (s.slot i))) : Moves strict s (s.modSlot i f) :=
  (Move.slot s i _ hp hh h).one

/-- A move of the lot builder, as the update that makes it. -/
theorem moves_lots (s : State) (l : LotBuilder)
    (hw : ∀ j ∈ l.waiting, j ∈ s.lots.waiting ∨ (s.slot j).state = .lotWait)
    (hm : s.lots.manifest.length ≤ 8 → l.manifest.length ≤ 8) : Moves strict s (s.withLots l) := (Move.lots s l hw hm).one

theorem Moves.trans {s t u : State} (h : Moves strict s t) (k : Moves strict t u) : Moves strict s u := Relation.ReflTransGen.trans h k

/-- What no run event touches: a chain of moves leaves it alone. -/
theorem Untouched.refl (s : State) : Untouched s s :=
  ⟨rfl, rfl, rfl, rfl, rfl, rfl, rfl, rfl, rfl, rfl, rfl, fun _ => .refl _⟩

theorem Untouched.trans {s t u : State} (h : Untouched s t) (k : Untouched t u) : Untouched s u := by
  refine ⟨k.pending.trans h.pending, k.now.trans h.now, ?_, k.bus.trans h.bus, k.budget.trans h.budget,
    k.limit.trans h.limit, k.cost.trans h.cost, k.plans.trans h.plans, k.staging.trans h.staging,
    k.profiles.trans h.profiles, k.zones.trans h.zones, fun i => (h.pins i).trans (k.pins i)⟩
  rw [k.line, h.line]

theorem raised_line (l : Line) (n : Nat) (d : Detail) :
    l.raised n d = { l with notices := (l.raised n d).notices, noticesLost := (l.raised n d).noticesLost } := by
  unfold Line.raised
  split
  · rfl
  · split <;> rfl

theorem quiet_untouched {s t : State} (h : Quiet s t) : Untouched s t := by
  have e := h.rest
  refine ⟨?_, ?_, ?_, ?_, ?_, ?_, ?_, ?_, ?_, ?_, ?_, fun i => (h.slots i).pins⟩ <;> rw [e]

theorem setSlot_untouched (s : State) (i : Fin 16) (y : Slot) (hp : (s.slot i).SamePins y) : Untouched s (s.setSlot i y) := by
  refine ⟨rfl, rfl, rfl, rfl, rfl, rfl, rfl, rfl, rfl, rfl, rfl, fun j => ?_⟩
  rw [slot_setSlot]; split
  · subst_vars; exact hp
  · exact .refl _

theorem grant_untouched (i : Fin 16) (s : State) : Untouched s (grant i s) := by
  have h1 : Untouched s (s.withPower { s.power with pointer := i }) :=
    ⟨rfl, rfl, rfl, rfl, rfl, rfl, rfl, rfl, rfl, rfl, rfl, fun _ => .refl _⟩
  have h2 : Untouched (s.withPower { s.power with pointer := i })
      ((s.withPower { s.power with pointer := i }).modSlot i fun x => { x with state := .spinning, powered := true }) :=
    setSlot_untouched _ i _ ⟨rfl, rfl, rfl, rfl, rfl, rfl⟩
  exact h1.trans (h2.trans (quiet_untouched (quiet_issue i _ _ _)))

theorem move_untouched {s t : State} (h : Move strict s t) : Untouched s t := by
  cases h with
  | raise n d s => exact ⟨rfl, rfl, raised_line _ _ _, rfl, rfl, rfl, rfl, rfl, rfl, rfl, rfl, fun _ => .refl _⟩
  | quiet s t h => exact quiet_untouched h
  | reservation s r => exact ⟨rfl, rfl, rfl, rfl, rfl, rfl, rfl, rfl, rfl, rfl, rfl, fun _ => .refl _⟩
  | grant s i => exact grant_untouched i s
  | slot s i y hp => exact setSlot_untouched s i y hp
  | lots s l => exact ⟨rfl, rfl, rfl, rfl, rfl, rfl, rfl, rfl, rfl, rfl, rfl, fun _ => .refl _⟩

theorem moves_untouched {s t : State} (h : Moves strict s t) : Untouched s t := by
  induction h with
  | refl => exact .refl s
  | tail _ h ih => exact ih.trans (move_untouched h)

/-! ### Admission -/

theorem candidate_waits {s : State} {i : Fin 16} (h : s.candidate = some i) : (s.slot i).state = .waitPower := by
  have hm := List.mem_of_find?_eq_some h
  simp only [State.pendingList, List.mem_filter, decide_eq_true_eq] at hm
  exact hm.2

theorem moves_evaluate (n : Nat) (s : State) : Moves strict s (evaluate n s) := by
  induction n generalizing s with
  | zero => exact .refl s
  | succ n ih =>
    unfold evaluate
    split
    · exact (Move.reservation s 0).one
    · rename_i hl
      split
      · exact (Move.reservation s 0).one
      · rename_i i hc
        split
        · rename_i hb
          exact (Move.grant s i (candidate_waits hc) (by omega) hb).one.trans (ih _)
        · exact (Move.reservation s _).one

theorem moves_admission (s : State) : Moves strict s (admission s) := moves_evaluate 17 s

/-- A slot that does not wait for spin-up is left as it is by an admission evaluation. -/
theorem evaluate_slot (n : Nat) (s : State) (i : Fin 16) (h : (s.slot i).state ≠ .waitPower) :
    (evaluate n s).slot i = s.slot i := by
  induction n generalizing s with
  | zero => rfl
  | succ n ih =>
    unfold evaluate
    split
    · rfl
    · split
      · rfl
      · rename_i j hc
        split
        · have hj := candidate_waits hc
          have hne : i ≠ j := fun e => h (e ▸ hj)
          have hg : (grant j s).slot i = s.slot i := by
            simp [grant, issue, State.modOp, slot_modSlot_ne _ _ hne]
          rw [ih _ (by rw [hg]; exact h), hg]
        · rfl

theorem admission_slot (s : State) (i : Fin 16) (h : (s.slot i).state ≠ .waitPower) : (admission s).slot i = s.slot i :=
  evaluate_slot 17 s i h

theorem moves_admitIfChanged (l : List Nat) (s : State) : Moves strict s (admitIfChanged l s) := by
  unfold admitIfChanged
  split
  · exact .refl s
  · exact moves_admission s

/-! ### The end of a run -/

theorem released_pins (x : Slot) : x.SamePins x.released := ⟨rfl, rfl, rfl, rfl, rfl, rfl⟩

/-- The rest of a run's end, its record change made. -/
theorem moves_endRun (i : Fin 16) (f : Slot → Slot) (s : State) :
    Moves strict (s.modSlot i fun x => f x.released) (endRun i f s) :=
  (Moves.of (quiet_stopEngine i _)).trans (moves_admission _)

theorem endRun_state (i : Fin 16) (f : Slot → Slot) (s : State) (h : (f (s.slot i).released).state ≠ .waitPower) :
    ((endRun i f s).slot i).state = (f (s.slot i).released).state := by
  have hq := (quiet_stopEngine i (s.modSlot i fun x => f x.released)).slots i
  have e := hq.state
  rw [slot_modSlot_same] at e
  unfold endRun
  rw [admission_slot _ _ (by rw [e]; exact h), e]

/-- A run that ends in DONE or FAULTED, from a slot that holds a drive and does not wait for a lot. -/
theorem moves_endRun_rest (i : Fin 16) (f : Slot → Slot) (s : State) (hp : ∀ x : Slot, x.SamePins (f x))
    (hh : ∀ x : Slot, (f x).sweep = x.sweep) (hs : ∀ x : Slot, (f x).state = .done ∨ (f x).state = .faulted)
    (hw : ∀ x : Slot, (f x).powered = x.powered) (hu : ∀ x : Slot, (f x).spun = x.spun) (hx : (s.slot i).state ≠ .empty)
    (hl : (s.slot i).state = .lotWait → i ∉ s.lots.waiting) : Moves strict s (endRun i f s) := by
  refine (moves_modSlot s i (fun x => f x.released) ((released_pins _).trans (hp _)) ?_ (.rest ?_ hx hl ?_ ?_)).trans
    (moves_endRun i f s)
  · simp only [hh]; rfl
  · rcases hs (s.slot i).released with h | h
    · exact .inl h
    · exact .inr (.inl h)
  · simp only [hw]; rfl
  · simp only [hu]; rfl

theorem moves_leaveLotList (i : Fin 16) (s : State) : Moves strict s (leaveLotList i s) := by
  refine moves_lots s _ (fun j hj => .inl ?_) id
  simp only [List.mem_filter] at hj
  exact hj.1

theorem moves_faultSlot (i : Fin 16) (r : Reason) (d : Option (List Byte)) (s : State) (hx : (s.slot i).state ≠ .empty)
    (hl : (s.slot i).state ≠ .lotWait) : Moves strict s (faultSlot i r d s) := by
  refine (moves_endRun_rest i _ s ?_ ?_ ?_ ?_ ?_ hx (fun h => absurd h hl)).trans (moves_raise _ _ _)
  · exact fun _ => ⟨rfl, rfl, rfl, rfl, rfl, rfl⟩
  · exact fun _ => rfl
  · exact fun _ => .inr rfl
  · exact fun _ => rfl
  · exact fun _ => rfl

/-! ### Lots -/

theorem moves_closeLot (x : Lot) (c : CloseCause) (s : State) : Moves strict s (closeLot x c s) := by
  unfold closeLot
  simp only
  split
  · rename_i h
    refine Moves.trans ?_ (moves_raise _ _ _)
    refine moves_lots s _ (fun j hj => .inl hj) (fun _ => ?_)
    have h : s.lots.manifest.length < 8 := h
    simp [LotBuilder.dropOpen]; omega
  · exact moves_lots s _ (fun j hj => .inl hj) id

theorem moves_joinLot (i : Fin 16) (x : Lot) (s : State)
    (hs : strict = true → (s.slot i).state = .done ∨ (s.slot i).state = .lotWait)
    (hw : strict = true → (s.slot i).state = .lotWait → i ∉ s.lots.waiting) : Moves strict s (joinLot i x s) := by
  unfold joinLot
  simp only
  have h1 : Moves strict s (s.modSlot i fun v => { v with state := .done, lotNumber := some x.number }) :=
    moves_modSlot s i _ ⟨rfl, rfl, rfl, rfl, rfl, rfl⟩ rfl (.join hs hw rfl rfl rfl)
  have h2 := h1.trans (moves_lots _
    ((s.modSlot i fun v => { v with state := .done, lotNumber := some x.number }).lots.putOpen
      { x with members := x.members ++ [(s.slot i).member i] }) (fun j hj => .inl hj) id)
  split
  · exact h2.trans (moves_closeLot _ _ _)
  · exact h2

theorem moves_joinKey (i : Fin 16) (p : Fin 4) (b : Bin) (s : State)
    (hs : strict = true → (s.slot i).state = .done ∨ (s.slot i).state = .lotWait)
    (hw : strict = true → (s.slot i).state = .lotWait → i ∉ s.lots.waiting) : Moves strict s (joinKey i p b s) := by
  unfold joinKey
  split
  · exact moves_joinLot i _ s hs hw
  · have h1 : Moves strict s (openNewLot p b s) := moves_lots s _ (fun j hj => .inl hj) id
    exact h1.trans (moves_joinLot i _ (openNewLot p b s) hs hw)

/-- A slot that joins is in DONE; the others keep their state. -/
theorem closeLot_slot (x : Lot) (c : CloseCause) (s : State) (j : Fin 16) : (closeLot x c s).slot j = s.slot j := by
  unfold closeLot
  simp only
  split <;> rfl

theorem closeLot_waiting (x : Lot) (c : CloseCause) (s : State) : (closeLot x c s).lots.waiting = s.lots.waiting := by
  unfold closeLot
  simp only
  split <;> rfl

theorem joinLot_slot_state (i : Fin 16) (x : Lot) (s : State) (j : Fin 16) :
    ((joinLot i x s).slot j).state = if j = i then .done else (s.slot j).state := by
  have h : ((s.modSlot i fun v => { v with state := .done, lotNumber := some x.number }).slot j).state
      = if j = i then .done else (s.slot j).state := by
    split
    · subst_vars; simp
    · rename_i h; rw [slot_modSlot_ne _ _ h]
  unfold joinLot
  simp only
  split
  · rw [closeLot_slot]; exact h
  · exact h

theorem joinLot_waiting (i : Fin 16) (x : Lot) (s : State) : (joinLot i x s).lots.waiting = s.lots.waiting := by
  unfold joinLot
  simp only
  split
  · rw [closeLot_waiting]; rfl
  · rfl

theorem joinKey_slot_state (i : Fin 16) (p : Fin 4) (b : Bin) (s : State) (j : Fin 16) :
    ((joinKey i p b s).slot j).state = if j = i then .done else (s.slot j).state := by
  unfold joinKey
  split <;> rw [joinLot_slot_state]
  rfl

theorem joinKey_waiting (i : Fin 16) (p : Fin 4) (b : Bin) (s : State) :
    (joinKey i p b s).lots.waiting = s.lots.waiting := by
  unfold joinKey
  split <;> rw [joinLot_waiting]
  rfl

theorem leaveLotList_mem (i j : Fin 16) (s : State) :
    j ∈ (leaveLotList i s).lots.waiting ↔ j ∈ s.lots.waiting ∧ j ≠ i := by
  simp [leaveLotList, State.withLots]

theorem moves_giveGrade (i : Fin 16) (p : Fin 4) (b : Bin) (s : State) (hs : (s.slot i).state = .done) :
    Moves strict s (giveGrade i p b s) := by
  unfold giveGrade
  split
  · exact moves_joinKey i p b s (fun _ => .inl hs) fun _ h => by rw [hs] at h; cases h
  · simp only
    have h1 : Moves strict s (s.modSlot i fun v => { v with state := .lotWait }) :=
      moves_modSlot s i _ ⟨rfl, rfl, rfl, rfl, rfl, rfl⟩ rfl (.lotWait hs rfl rfl rfl)
    refine Moves.trans ?_ (moves_raise _ _ _)
    refine h1.trans ?_
    refine moves_lots _ _ (fun j hj => ?_) id
    rcases List.mem_append.1 hj with h | h
    · exact .inl h
    · rw [List.mem_singleton.1 h]; right; simp

theorem moves_joinWaiters (p : Fin 4) (b : Bin) (l : List (Fin 16)) (s : State)
    (h : strict = true → ∀ i ∈ l, (s.slot i).state = .done ∨ (s.slot i).state = .lotWait) : Moves strict s (joinWaiters p b l s) := by
  induction l generalizing s with
  | nil => exact .refl s
  | cons i l ih =>
    unfold joinWaiters
    split
    · exact .refl s
    · split
      · have hi := fun e => h e i (List.mem_cons_self ..)
        have hn : i ∉ (leaveLotList i s).lots.waiting := by simp [leaveLotList_mem]
        refine ((moves_leaveLotList i s).trans (moves_joinKey i p b _ hi fun _ _ => hn)).trans (ih _ fun e j hj => ?_)
        rw [joinKey_slot_state]
        split
        · exact .inl rfl
        · exact h e j (List.mem_cons_of_mem _ hj)
      · exact ih s fun e j hj => h e j (List.mem_cons_of_mem _ hj)

theorem joinWaiters_slot_state (p : Fin 4) (b : Bin) (l : List (Fin 16)) (s : State) (j : Fin 16)
    (h : (s.slot j).state = .done ∨ (s.slot j).state = .lotWait) :
    ((joinWaiters p b l s).slot j).state = .done ∨ ((joinWaiters p b l s).slot j).state = .lotWait := by
  induction l generalizing s with
  | nil => exact h
  | cons i l ih =>
    unfold joinWaiters
    split
    · exact h
    · split
      · refine ih _ ?_
        rw [joinKey_slot_state]
        split
        · exact .inl rfl
        · exact h
      · exact ih s h

theorem joinWaiters_waiting (p : Fin 4) (b : Bin) (l : List (Fin 16)) (s : State) (j : Fin 16)
    (h : j ∈ (joinWaiters p b l s).lots.waiting) : j ∈ s.lots.waiting := by
  induction l generalizing s with
  | nil => exact h
  | cons i l ih =>
    unfold joinWaiters at h
    split at h
    · exact h
    · split at h
      · have := ih _ h
        rw [joinKey_waiting, leaveLotList_mem] at this
        exact this.1
      · exact ih s h

theorem moves_drainRounds (n : Nat) (s : State)
    (h : strict = true → ∀ i ∈ s.lots.waiting, (s.slot i).state = .done ∨ (s.slot i).state = .lotWait) :
    Moves strict s (drainRounds n s) := by
  induction n generalizing s with
  | zero => exact .refl s
  | succ n ih =>
    unfold drainRounds
    split
    · rename_i hm
      split
      · exact .refl s
      · rename_i x rest hf
        simp only
        have h1 : Moves strict s (s.withLots { s.lots with full := rest, manifest := s.lots.manifest ++ [{ x with closed := some s.line.time }] }) := by
          refine moves_lots s _ (fun j hj => .inl hj) fun _ => ?_
          have hm : s.lots.manifest.length < 8 := hm
          simp; omega
        refine ((h1.trans (moves_raise _ _ _)).trans (moves_joinWaiters _ _ _ _ h)).trans (ih _ fun e j hj => ?_)
        have hj' := joinWaiters_waiting _ _ _ _ _ hj
        exact joinWaiters_slot_state _ _ _ _ _ (h e j hj')
    · exact .refl s

theorem moves_drain (s : State)
    (h : strict = true → ∀ i ∈ s.lots.waiting, (s.slot i).state = .done ∨ (s.slot i).state = .lotWait) :
    Moves strict s (drain s) := moves_drainRounds _ s h

theorem moves_refill (p : Fin 4) (b : Bin) (n : Nat) (l : List (Fin 16)) (s : State)
    (h : strict = true → ∀ i ∈ l, (s.slot i).state = .done ∨ (s.slot i).state = .lotWait) : Moves strict s (refill p b n l s) := by
  induction l generalizing s with
  | nil => exact .refl s
  | cons i l ih =>
    unfold refill
    split
    · exact .refl s
    · split
      · have hi := fun e => h e i (List.mem_cons_self ..)
        have hn : i ∉ (leaveLotList i s).lots.waiting := by simp [leaveLotList_mem]
        refine ((moves_leaveLotList i s).trans (moves_joinLot i _ _ hi fun _ _ => hn)).trans (ih _ fun e j hj => ?_)
        rw [joinLot_slot_state]
        split
        · exact .inl rfl
        · exact h e j (List.mem_cons_of_mem _ hj)
      · exact ih s fun e j hj => h e j (List.mem_cons_of_mem _ hj)

end Sys2Proof.Machine
end

