-- ==== Sys2Proof/Laws/Runs.lean ====
section
/-! SUPPORT. The operations of a run, from grading and the executor to the recovery ladder, as chains of moves. -/

namespace Sys2Proof.Machine

variable {strict : Bool}

/-! ### Grading -/

theorem moves_finishGrading (i : Fin 16) (v : Verdict) (r : Reason) (g : Option Grade) (s : State)
    (h : (s.slot i).state = .active) : Moves strict s (finishGrading i v r g s) := by
  unfold finishGrading
  simp only
  refine Moves.trans (Moves.of (quiet_modSlot s i _ ⟨rfl, rfl, rfl, rfl, rfl, .refl _⟩ rfl))
    (Moves.trans (moves_raise _ _ _) (moves_endRun_rest i _ _ ?_ ?_ ?_ ?_ ?_ ?_ ?_))
  · exact fun _ => ⟨rfl, rfl, rfl, rfl, rfl, rfl⟩
  · exact fun _ => rfl
  · exact fun _ => .inl rfl
  · exact fun _ => rfl
  · exact fun _ => rfl
  · simp [raise, h]
  · simp [raise, h]

theorem finishGrading_state (i : Fin 16) (v : Verdict) (r : Reason) (g : Option Grade) (s : State) :
    ((finishGrading i v r g s).slot i).state = .done := by
  unfold finishGrading
  rw [endRun_state]
  simp

theorem moves_gradeSlot (i : Fin 16) (s : State) (h : (s.slot i).state = .active) : Moves strict s (gradeSlot i s).1 := by
  unfold gradeSlot
  split
  · exact Moves.trans (Moves.of (quiet_modSlot s i _ ⟨rfl, rfl, rfl, rfl, rfl, .refl _⟩ rfl)) (moves_raise _ _ _)
  · exact moves_finishGrading i _ _ _ s h
  · exact moves_finishGrading i _ _ _ s h
  · exact Moves.trans (moves_finishGrading i _ _ _ s h) (moves_giveGrade i _ _ _ (finishGrading_state i _ _ _ s))

theorem gradeSlot_again (i : Fin 16) (s : State) (h : (gradeSlot i s).2 = true) :
    ((gradeSlot i s).1.slot i).state = (s.slot i).state := by
  revert h
  unfold gradeSlot
  split
  · intro _; simp [raise, Slot.retested]
  all_goals intro h; cases h

/-! ### Steps -/

theorem moves_awaitPower (i : Fin 16) (s : State) (h : (s.slot i).state = .active) (hs : (s.slot i).spun = false) :
    Moves strict s (awaitPower i s) :=
  Moves.trans (moves_modSlot s i _ ⟨rfl, rfl, rfl, rfl, rfl, rfl⟩ rfl (.await h rfl rfl hs rfl)) (moves_admission _)

theorem quiet_startSweep (i : Fin 16) (s : State) : Quiet s (startSweep i s).1 := by
  unfold startSweep
  split
  · exact .refl s
  · exact quiet_engineGo i s

theorem quiet_startWork (i : Fin 16) (st : Step) (s : State) : Quiet s (startWork i st s).1 := by
  have h := quiet_modExec s i fun x => { x with phase := .working }
  unfold startWork setPhase
  cases st with
  | spin => exact h
  | ident => exact Quiet.trans h (quiet_issue i _ _ _)
  | health => exact Quiet.trans h (quiet_issue i _ _ _)
  | writeSweep f => exact Quiet.trans h (quiet_startSweep i _)
  | readSweep f v => exact Quiet.trans h (quiet_startSweep i _)
  | seekSweep f => exact Quiet.trans h (quiet_startSweep i _)
  | dwell m => exact h
  | standby =>
    simp only
    split
    · exact Quiet.trans h (quiet_issue i _ _ _)
    · exact h
  | repeatTo t c => exact h

/-- A step's beginning leaves the chunks in hand. -/
theorem engineBegun_hand (st : Step) (x : Slot) : (x.engineBegun st).hand = x.sweep.hand := by
  unfold Slot.engineBegun
  split <;> rfl

theorem quiet_begun (i : Fin 16) (st : Step) (s : State) : Quiet s (s.modSlot i (Slot.begun st)) :=
  quiet_modSlot s i _ ⟨rfl, rfl, rfl, rfl, rfl, .refl _⟩ (by simp [Slot.begun, engineBegun_hand])

theorem moves_beginStep (met : Bool) (i : Fin 16) (st : Step) (s : State) (h : (s.slot i).state = .active) :
    Moves strict s (beginStep met i st s).1 := by
  have hb := Moves.of (strict := strict) (quiet_begun i st s)
  have ha : ((s.modSlot i (Slot.begun st)).slot i).state = .active := by simp [Slot.begun, h]
  unfold beginStep
  simp only
  split
  · split
    · exact hb
    · rename_i hs
      exact hb.trans (moves_awaitPower i _ ha (by simpa using hs))
  · split
    · exact Moves.of (quiet_modExec s i fun x => { x with phase := .waiting })
    · split
      · rename_i hs
        simp only [Bool.and_eq_true, Bool.not_eq_true'] at hs
        exact hb.trans (moves_awaitPower i _ ha hs.2)
      · exact hb.trans (Moves.of (quiet_startWork i st _))

theorem beginStep_again (met : Bool) (i : Fin 16) (st : Step) (s : State) (h : (beginStep met i st s).2 = true) :
    ((beginStep met i st s).1.slot i).state = (s.slot i).state := by
  revert h
  unfold beginStep
  simp only
  split
  · split
    · intro _; simp [Slot.begun]
    · intro h; cases h
  · split
    · intro h; cases h
    · split
      · intro h; cases h
      · intro _
        rw [((quiet_startWork i st _).slots i).state]
        simp [Slot.begun]

theorem quiet_stepOver (i : Fin 16) (s : State) : Quiet s (s.modSlot i Slot.stepOver) :=
  quiet_modSlot s i _ ⟨rfl, rfl, rfl, rfl, rfl, .refl _⟩ rfl

theorem moves_walk (n : Nat) (met : Bool) (i : Fin 16) (s : State) (h : (s.slot i).state = .active) :
    Moves strict s (walk n met i s) := by
  induction n generalizing met s with
  | zero => exact .refl s
  | succ n ih =>
    unfold walk
    split
    · have h1 : Moves strict s (s.modExec i fun x => { x with phase := .idle, index := x.index - 1 }) :=
        Moves.of (quiet_modExec s i _)
      have hs : ((s.modExec i fun x => { x with phase := .idle, index := x.index - 1 }).slot i).state = .active := by
        simp [State.modExec, h]
      have h2 := h1.trans (moves_gradeSlot i _ hs)
      simp only
      split
      · rename_i t e
        have e1 := congrArg Prod.fst e
        have e2 := congrArg Prod.snd e
        simp only at e1 e2
        rw [e1] at h2
        exact h2.trans (ih _ t (by rw [← e1, gradeSlot_again i _ e2, hs]))
      · rename_i t e
        have e1 := congrArg Prod.fst e
        simp only at e1
        rw [e1] at h2
        exact h2
    · exact (Moves.of (quiet_modExec s i _)).trans (ih _ _ (by simp [State.modExec, h]))
    · rename_i st _ _
      have h2 := moves_beginStep (strict := strict) met i st s h
      split
      · rename_i t e
        have e1 := congrArg Prod.fst e
        have e2 := congrArg Prod.snd e
        simp only at e1 e2
        rw [e1] at h2
        have hs : (t.slot i).state = .active := by rw [← e1, beginStep_again met i st s e2, h]
        exact h2.trans ((Moves.of (quiet_stepOver i t)).trans (ih _ _ (by simp [Slot.stepOver, hs])))
      · rename_i t e
        have e1 := congrArg Prod.fst e
        simp only at e1
        rw [e1] at h2
        exact h2

theorem moves_proceed (i : Fin 16) (s : State) (h : (s.slot i).state = .active) : Moves strict s (proceed i s) :=
  moves_walk walkFuel false i s h

theorem moves_nextStep (i : Fin 16) (s : State) (h : (s.slot i).state = .active) : Moves strict s (nextStep i s) :=
  (Moves.of (quiet_stepOver i s)).trans (moves_proceed i _ (by simp [Slot.stepOver, h]))

theorem moves_dwellEnds (i : Fin 16) (s : State) (h : (s.slot i).state = .active) : Moves strict s (dwellEnds i s) :=
  (Moves.of (quiet_stepOver i s)).trans (moves_walk _ _ i _ (by simp [Slot.stepOver, h]))

theorem moves_endIfEnded (i : Fin 16) (s : State) : Moves strict s (endIfEnded i s) := by
  unfold endIfEnded
  split
  · rename_i h
    refine moves_nextStep i s ?_
    simp only [State.sweepEnded, Bool.and_eq_true, decide_eq_true_eq] at h
    exact h.1.1.1.1.1.1
  · exact .refl s

theorem moves_sweepOn (i : Fin 16) (s : State) : Moves strict s (sweepOn i s) :=
  (Moves.of (quiet_engineGo i s)).trans (moves_endIfEnded i _)

theorem mayWork_active {s : State} {i : Fin 16} (h : s.mayWork i = true) : (s.slot i).state = .active := by
  simp only [State.mayWork, Bool.and_eq_true, decide_eq_true_eq] at h
  exact h.1.1

theorem moves_resumeWork (i : Fin 16) (s : State) : Moves strict s (resumeWork i s) := by
  unfold resumeWork
  simp only
  split
  · split
    · exact moves_sweepOn i s
    · split
      · split
        · exact (Moves.of (quiet_modOp s i _ rfl)).trans (Moves.of (quiet_issue i _ _ _))
        · split
          · exact Moves.of (quiet_issue i _ _ _)
          · exact .refl s
      · exact .refl s
  · exact .refl s

theorem moves_pauseLifts (i : Fin 16) (s : State) : Moves strict s (pauseLifts i s) := by
  unfold pauseLifts
  split
  · exact .refl s
  · split
    · rename_i h
      simp only [Bool.and_eq_true, decide_eq_true_eq] at h
      exact moves_proceed i s h.1
    · exact moves_resumeWork i s

theorem moves_returnDraining (i : Fin 16) (s : State) : Moves strict s (returnDraining i s) :=
  (Moves.of (quiet_modOp s i _ rfl)).trans (moves_endIfEnded i _)

/-! ### The recovery ladder -/

theorem moves_enterStage1 (i : Fin 16) (op : Op) (c : Cause) (s : State) (h : (s.slot i).state.holdsOp = true) :
    Moves strict s (enterStage1 i op c s) := by
  have h1 : Moves strict s (s.modSlot i (Slot.stage1 op)) :=
    moves_modSlot s i _ ⟨rfl, rfl, rfl, rfl, rfl, rfl⟩ rfl (.recover h rfl rfl rfl rfl rfl)
  exact ((h1.trans (Moves.of (quiet_dropChunks i _ _))).trans (Moves.of (quiet_issue i _ _ _))).trans (moves_raise _ _ _)

theorem holdsOp_not_empty {x : SlotState} (h : x.holdsOp = true) : x ≠ .empty := by
  rintro rfl; cases h

theorem holdsOp_not_lotWait {x : SlotState} (h : x.holdsOp = true) : x ≠ .lotWait := by
  rintro rfl; cases h

theorem moves_enterStage2 (i : Fin 16) (op : Op) (c : Cause) (s : State) (h : (s.slot i).state.holdsOp = true) :
    Moves strict s (enterStage2 i op c s) := by
  unfold enterStage2
  simp only
  have h1 : Moves strict s (s.modSlot i (Slot.stage2 op (((s.planOf i).map Plan.offTime).getD 0))) := by
    refine moves_modSlot s i _ ⟨rfl, rfl, rfl, rfl, rfl, rfl⟩ ?_
      (.rest (.inr (.inr rfl)) (holdsOp_not_empty h) (fun e => absurd e (holdsOp_not_lotWait h)) rfl rfl)
    simp only [Slot.stage2]
    split <;> rfl
  exact (((h1.trans (Moves.of (quiet_leaveBufferList i _))).trans (Moves.of (quiet_dropChunks i _ _))).trans
    (moves_admission _)).trans (moves_raise _ _ _)

theorem moves_rejectRun (i : Fin 16) (r : Reason) (s : State) (h : (s.slot i).state.holdsOp = true) :
    Moves strict s (rejectRun i r s) := by
  refine (moves_endRun_rest i _ s ?_ ?_ ?_ ?_ ?_ (holdsOp_not_empty h)
    (fun e => absurd e (holdsOp_not_lotWait h))).trans (moves_raise _ _ _)
  · exact fun _ => ⟨rfl, rfl, rfl, rfl, rfl, rfl⟩
  · exact fun _ => rfl
  · exact fun _ => .inl rfl
  · exact fun _ => rfl
  · exact fun _ => rfl

theorem quiet_opClosed (i : Fin 16) (s : State) : Quiet s (s.modOp i OpUnit.closed) := quiet_modOp s i _ rfl

theorem moves_expire (i : Fin 16) (op : Op) (c : Cause) (s : State) : Moves strict s (expire i op c s) := by
  unfold expire
  simp only
  have h0 := quiet_opClosed i s
  split
  · rename_i h
    have h1 : Quiet s (voidRunning i ((s.modOp i OpUnit.closed).modAcc i fun a => { a with e := sat32 a.e 1 })) :=
      Quiet.trans h0 (Quiet.trans (quiet_modAcc _ i _) (quiet_voidRunning i _))
    have hs : ((voidRunning i ((s.modOp i OpUnit.closed).modAcc i fun a => { a with e := sat32 a.e 1 })).slot i).state.holdsOp
        = true := by
      rw [(h1.slots i).state, ← (h0.slots i).state]; exact h
    refine (Moves.of h1).trans ?_
    split
    · exact moves_enterStage1 i op c _ hs
    · split
      · exact moves_enterStage2 i op c _ hs
      · exact (moves_raise _ _ _).trans (moves_rejectRun i _ _ hs)
  · exact Moves.of h0

/-! ### Completions -/

theorem moves_spinDone (i : Fin 16) (s : State) : Moves strict s (spinDone i s) := by
  unfold spinDone
  split
  · rename_i h
    simp only
    have h1 : Moves strict s (s.modSlot i fun x => { x with state := .active, spun := true }) :=
      moves_modSlot s i _ ⟨rfl, rfl, rfl, rfl, rfl, rfl⟩ rfl (.activate h rfl rfl rfl)
    have h2 := h1.trans (moves_admission _)
    have ha : ((admission (s.modSlot i fun x => { x with state := .active, spun := true })).slot i).state = .active := by
      rw [admission_slot] <;> simp
    refine h2.trans ?_
    split
    · have h3 := Moves.of (strict := strict) (quiet_modOp (admission (s.modSlot i fun x => { x with state := .active, spun := true })) i
        (fun u => { u with interrupted := none }) rfl)
      have hb : (((admission (s.modSlot i fun x => { x with state := .active, spun := true })).modOp i
          fun u => { u with interrupted := none }).slot i).state = .active := by
        simp [State.modOp, ha]
      refine h3.trans ?_
      split
      · exact moves_nextStep i _ hb
      · exact (Moves.of (quiet_modExec _ i _)).trans (moves_resumeWork i _)
    · exact moves_returnDraining i _
    · exact moves_resumeWork i _
    · exact .refl _
  · exact .refl s

theorem moves_driveResetDone (i : Fin 16) (s : State) : Moves strict s (driveResetDone i s) := by
  unfold driveResetDone
  split
  · rename_i h
    split
    · rename_i hr
      have h1 : Moves strict s (s.modSlot i fun x =>
          { x with state := .spinning, op := { x.op with returnTo := none, interrupted := none } }) :=
        moves_modSlot s i _ ⟨rfl, rfl, rfl, rfl, rfl, rfl⟩ rfl (.resume h (by simp [hr]) rfl rfl rfl)
      exact h1.trans (Moves.of (quiet_issue i _ _ _))
    · rename_i hr
      have h1 : Moves strict s (s.modSlot i fun x => { x with state := .active, op := { x.op with returnTo := none } }) := by
        refine moves_modSlot s i _ ⟨rfl, rfl, rfl, rfl, rfl, rfl⟩ rfl (.resume h ?_ rfl rfl rfl)
        rw [if_neg hr]
      simp only
      refine h1.trans ?_
      split
      · exact moves_returnDraining i _
      · exact moves_resumeWork i _
  · exact .refl s

theorem moves_identDone (i : Fin 16) (n : List Byte) (c z r : Nat) (s : State) (h : (s.slot i).state = .active) :
    Moves strict s (identDone i n c z r s) := by
  unfold identDone
  split
  · exact moves_faultSlot i _ _ s (by rw [h]; decide) (by rw [h]; decide)
  · exact (Moves.of (quiet_modSlot s i _ ⟨rfl, rfl, rfl, rfl, rfl, .refl _⟩ rfl)).trans
      (moves_nextStep i _ (by simp [h]))

theorem quiet_readTransferred (i : Fin 16) (n : Nat) (s : State) : Quiet s (readTransferred i n s) := by
  unfold readTransferred
  simp only
  split
  · refine Quiet.trans (quiet_modSweep s i _ ?_) (quiet_withWork _ _)
    simp
  · refine Quiet.trans ?_ (quiet_dropChunks i _ _)
    split
    · exact .refl s
    · exact quiet_modAcc s i _

theorem quiet_remainder (i : Fin 16) (c : Chunk) (n : Nat) (s : State) : Quiet s (remainder i c n s) := by
  unfold remainder
  simp only
  split
  · exact quiet_bandCompletion i _ s
  · split
    · exact .refl s
    · exact quiet_modSweep s i _ rfl

theorem quiet_seekMade (i : Fin 16) (s : State) : Quiet s (seekMade i s) := quiet_modSweep s i _ rfl

theorem moves_workDone (i : Fin 16) (op : Op) (c : Completion) (ms : Nat) (s : State) (h : (s.slot i).state = .active) :
    Moves strict s (workDone i op c ms s) := by
  cases op with
  | spin => exact .refl s
  | driveReset => exact .refl s
  | ident =>
    simp only [workDone]
    split
    · exact moves_identDone i _ _ _ _ s h
    · exact .refl s
  | health => exact (Moves.of (quiet_modAcc s i _)).trans (moves_nextStep i _ (by simp [State.modAcc, h]))
  | write k =>
    exact ((Moves.of (quiet_dropChunks i _ s)).trans (Moves.of (quiet_bandCompletion i _ _))).trans (moves_sweepOn i _)
  | read k =>
    exact (((Moves.of (quiet_modAcc s i _)).trans (Moves.of (quiet_bandCompletion i _ _))).trans
      (Moves.of (quiet_readTransferred i _ _))).trans (moves_sweepOn i _)
  | seek k => exact ((Moves.of (quiet_modAcc s i _)).trans (Moves.of (quiet_seekMade i _))).trans (moves_sweepOn i _)
  | standby =>
    have h1 : Moves strict s (s.modSlot i fun x => { x with spun := false }) :=
      moves_modSlot s i _ ⟨rfl, rfl, rfl, rfl, rfl, rfl⟩ rfl (.stoodBy h h rfl rfl rfl)
    exact h1.trans (moves_nextStep i _ (by simp [h]))

theorem moves_mediaError (i : Fin 16) (op : Op) (r c : Nat) (s : State) : Moves strict s (mediaError i op r c s) := by
  unfold mediaError
  simp only
  have h0 := quiet_modAcc s i fun a => { a with u := sat32 a.u 1, c := sat64 a.c c }
  split
  · exact (((Moves.of h0).trans (Moves.of (quiet_remainder i _ _ _))).trans (Moves.of (quiet_readTransferred i _ _))).trans
      (moves_sweepOn i _)
  · exact (((Moves.of h0).trans (Moves.of (quiet_remainder i _ _ _))).trans (Moves.of (quiet_dropChunks i _ _))).trans
      (moves_sweepOn i _)
  · exact ((Moves.of h0).trans (Moves.of (quiet_seekMade i _))).trans (moves_sweepOn i _)
  · exact Moves.of h0

theorem moves_handle (i : Fin 16) (op : Op) (c : Completion) (ms : Nat) (s : State) : Moves strict s (handle i op c ms s) := by
  unfold handle
  simp only
  refine (Moves.of (quiet_opClosed i s)).trans ?_
  split
  · split
    · rename_i h; exact moves_rejectRun i _ _ h
    · exact .refl _
  · exact moves_expire i op _ _
  · split
    · split
      · exact moves_mediaError i _ _ _ _
      · exact .refl _
    · split
      · exact moves_mediaError i _ _ _ _
      · exact .refl _
    · split
      · exact moves_mediaError i _ _ _ _
      · exact .refl _
    · exact moves_expire i op _ _
  · split
    · exact moves_spinDone i _
    · exact moves_driveResetDone i _
    · split
      · rename_i h; exact moves_workDone i op c ms _ h
      · exact .refl _

theorem moves_completionArrives (i : Fin 16) (r : ChannelRecord) (s : State) : Moves strict s (completionArrives i r s) := by
  unfold completionArrives
  split
  · exact .refl s
  · split
    · exact .refl s
    · split
      · exact moves_handle i _ _ _ s
      · exact .refl s

theorem quiet_dataArrives (i : Fin 16) (tag : Byte) (data : List Byte) (s : State) : Quiet s (dataArrives i tag data s) := by
  unfold dataArrives
  split
  · split
    · exact quiet_modSweep s i _ (by simp)
    · exact .refl s
  · exact .refl s

theorem moves_timeoutEnds (i : Fin 16) (tag : Byte) (s : State) : Moves strict s (timeoutEnds i tag s) := by
  unfold timeoutEnds
  split
  · exact .refl s
  · split
    · exact moves_expire i _ _ s
    · exact .refl s

theorem moves_offTimeEnds (i : Fin 16) (s : State) : Moves strict s (offTimeEnds i s) := by
  unfold offTimeEnds
  split
  · rename_i h
    simp only [Bool.and_eq_true, decide_eq_true_eq] at h
    exact (moves_modSlot s i _ ⟨rfl, rfl, rfl, rfl, rfl, rfl⟩ rfl (.off h.2 rfl rfl rfl)).trans (moves_admission _)
  · exact .refl s

/-! ### Sweep events -/

theorem moves_stepTimerEnds (e : StepEntry) (s : State) : Moves strict s (stepTimerEnds e s) := by
  unfold stepTimerEnds
  split
  · exact (Moves.of (quiet_drainEngine e.slot s)).trans (moves_endIfEnded e.slot _)
  · exact .refl s

theorem quiet_pacingEnds (e : StepEntry) (s : State) : Quiet s (pacingEnds e s) := by
  unfold pacingEnds
  simp only
  split
  · refine Quiet.trans (quiet_modSweep s e.slot (fun e => { e with pacing := some e.pace.2 }) rfl) ?_
    split
    · exact quiet_modAcc _ e.slot _
    · split
      · exact Quiet.trans (quiet_issueNext e.slot _) (quiet_engineGo e.slot _)
      · split
        · exact quiet_modAcc _ e.slot _
        · exact .refl _
  · exact .refl s

theorem quiet_fillEnds (i : Fin 16) (n : Nat) (s : State) : Quiet s (fillEnds i n s) := by
  unfold fillEnds
  split
  · simp only
    exact Quiet.trans (quiet_endWork i _ s) (Quiet.trans (quiet_modSweep _ i _ (by simp)) (quiet_engineGo i _))
  · exact .refl s

theorem moves_checkEnds (i : Fin 16) (n : Nat) (s : State) : Moves strict s (checkEnds i n s) := by
  unfold checkEnds
  split
  · split
    · exact .refl s
    · exact ((Moves.of (quiet_modAcc s i _)).trans (Moves.of (quiet_dropChunks i _ _))).trans (moves_sweepOn i _)
  · exact .refl s

/-! ### Requests that start and end a run -/

theorem moves_startRun (i : Fin 16) (p f : Fin 4) (s : State) (h : (s.slot i).state = .seated ∨ (s.slot i).state = .done) :
    Moves strict s (startRun i p f s) := by
  unfold startRun awaitPower
  simp only [State.modSlot, setSlot_setSlot, slot_setSlot_same]
  refine Moves.trans ?_ (moves_admission _)
  exact Move.one (.slot s i _ ⟨rfl, rfl, rfl, rfl, rfl, rfl⟩ rfl (.start h rfl rfl rfl))

theorem moves_abortRun (i : Fin 16) (s : State) (h : (s.slot i).state.inUse = true) : Moves strict s (abortRun i s) := by
  have hx : (s.slot i).state ≠ .empty := by intro e; rw [e] at h; cases h
  refine (moves_leaveLotList i s).trans (moves_endRun_rest i _ _ ?_ ?_ ?_ ?_ ?_ hx ?_)
  · exact fun _ => ⟨rfl, rfl, rfl, rfl, rfl, rfl⟩
  · exact fun _ => rfl
  · exact fun _ => .inl rfl
  · exact fun _ => rfl
  · exact fun _ => rfl
  · intro _; simp [leaveLotList_mem]

/-! ### The credit of a second -/

theorem moves_credit (i : Fin 16) (s : State) : Moves strict s (credit i s) := by
  unfold credit
  split
  · rename_i h
    have ha : (s.slot i).state = .active := by
      simp only [Slot.credited, Bool.and_eq_true, decide_eq_true_eq] at h; exact h.1
    simp only
    refine (Moves.of (quiet_modAcc s i fun a => { a with exposure := sat32 a.exposure 1 })).trans ?_
    split
    · split
      · refine (Moves.of (quiet_modExec _ i fun x => { x with dwell := x.dwell + 1 })).trans ?_
        split
        · exact moves_dwellEnds i _ (by simp [State.modExec, State.modAcc, ha])
        · exact .refl _
      · exact .refl _
    · exact .refl _
  · exact .refl s

theorem moves_foldl (f : Fin 16 → State → State) (hf : ∀ i s, Moves strict s (f i s)) (l : List (Fin 16)) (s : State) :
    Moves strict s (l.foldl (fun t i => f i t) s) := by
  induction l generalizing s with
  | nil => exact .refl s
  | cons i l ih => exact (hf i s).trans (ih _)

theorem moves_creditZone (z : Fin 4) (s : State) : Moves strict s (creditZone z s) := by
  unfold creditZone
  split
  · exact moves_foldl credit moves_credit _ s
  · exact .refl s

theorem moves_liftZone (z : Fin 4) (s : State) : Moves strict s (liftZone z s) := moves_foldl pauseLifts moves_pauseLifts _ s

/-! ### The commands that wait -/

/-- A move is the same whatever commands wait. -/
theorem move_pending {s t : State} (h : Move strict s t) (q : List Instr) :
    Move strict { s with pending := q } { t with pending := q } := by
  cases h with
  | raise n d s => exact .raise n d { s with pending := q }
  | quiet s t h => exact .quiet _ _ ⟨h.slots, by rw [h.rest], h.total, h.bound⟩
  | reservation s r => exact .reservation { s with pending := q } r
  | grant s i hw hs hb => exact .grant { s with pending := q } i hw hs hb
  | slot s i y hp hh h => exact .slot { s with pending := q } i y hp hh h
  | lots s l hw hm => exact .lots { s with pending := q } l hw hm

theorem moves_pending {s t : State} (h : Moves strict s t) (q : List Instr) :
    Moves strict { s with pending := q } { t with pending := q } := by
  induction h with
  | refl => exact .refl _
  | tail _ h ih => exact ih.trans (move_pending h q).one

theorem moves_unmet (f : State → State) (hf : ∀ s, Moves strict s (f s)) (s : State) : Moves strict s (unmet f s) :=
  moves_pending (hf { s with pending := [] }) s.pending

end Sys2Proof.Machine
end

