-- ==== Sys2Proof/Laws/Ends.lean ====
section
/-! SUPPORT. What the record of a slot is when its run has ended, whatever the pool, admission and the other slots do
meanwhile; and what an event of one slot leaves of the others' pins. -/

namespace Sys2Proof.Machine

/-! ### The engine of one slot leaves the other records alone -/

theorem issue_slot_ne (i : Fin 16) (op : Op) (data : List Byte) (s : State) {j : Fin 16} (h : j ≠ i) :
    (issue i op data s).slot j = s.slot j := slot_modSlot_ne _ _ h

theorem lend_slot_ne (i : Fin 16) (s : State) {j : Fin 16} (h : j ≠ i) : (lend i s).slot j = s.slot j := by
  unfold lend
  simp only
  split
  · split
    · rfl
    · split <;> simp [slot_setSlot, h]
  · rfl

theorem issueChunk_slot_ne (i : Fin 16) (c : InHand) (s : State) {j : Fin 16} (h : j ≠ i) :
    (issueChunk i c s).slot j = s.slot j := by
  unfold issueChunk
  simp only
  rw [issue_slot_ne _ _ _ _ h, State.modSweep, slot_modSlot_ne _ _ h]
  split
  · exact slot_modSlot_ne _ _ h
  · rfl

theorem issueNext_slot_ne (i : Fin 16) (s : State) {j : Fin 16} (h : j ≠ i) : (issueNext i s).slot j = s.slot j := by
  unfold issueNext
  split
  · unfold issueSeek
    split
    · rfl
    · rw [issue_slot_ne _ _ _ _ h, State.modSweep, slot_modSlot_ne _ _ h]
  · split
    · rfl
    · exact issueChunk_slot_ne _ _ _ h

theorem tryIssue_slot_ne (i : Fin 16) (s : State) {j : Fin 16} (h : j ≠ i) : (tryIssue i s).slot j = s.slot j := by
  unfold tryIssue
  simp only
  split
  · split
    · rw [issue_slot_ne _ _ _ _ h, State.modOp, slot_modSlot_ne _ _ h]
    · split
      · rfl
      · exact issueChunk_slot_ne _ _ _ h
    · split
      · exact issueNext_slot_ne _ _ h
      · rfl
  · rfl

theorem engineRounds_slot_ne (n : Nat) (i : Fin 16) (s : State) {j : Fin 16} (h : j ≠ i) :
    (engineRounds n i s).slot j = s.slot j := by
  induction n generalizing s with
  | zero => rfl
  | succ n ih =>
    unfold engineRounds
    simp only
    split
    · split
      · rw [ih, lend_slot_ne _ _ h, withPool_slot, tryIssue_slot_ne _ _ h]
      · rw [withPool_slot, tryIssue_slot_ne _ _ h]
    · exact tryIssue_slot_ne _ _ h

theorem engineGo_slot_ne (i : Fin 16) (s : State) {j : Fin 16} (h : j ≠ i) : (engineGo i s).slot j = s.slot j :=
  engineRounds_slot_ne 4 i s h

/-! ### The wait list while buffers return -/

theorem tryIssue_pool (i : Fin 16) (s : State) : (tryIssue i s).pool = s.pool := by
  unfold tryIssue issueNext issueSeek issueChunk
  simp only
  repeat' split
  all_goals rfl

theorem lend_waiting (i : Fin 16) (s : State) : (lend i s).pool.waiting = s.pool.waiting := by
  unfold lend freeBuffer
  simp only
  repeat' split
  all_goals rfl

theorem engineRounds_waiting (n : Nat) (i : Fin 16) (s : State) {j : Fin 16} (h : j ≠ i) (hw : j ∉ s.pool.waiting) :
    j ∉ (engineRounds n i s).pool.waiting := by
  induction n generalizing s with
  | zero => exact hw
  | succ n ih =>
    unfold engineRounds
    simp only
    split
    · split
      · refine ih _ ?_
        rw [lend_waiting]
        simpa [tryIssue_pool] using hw
      · simp [tryIssue_pool, hw, h]
    · rw [tryIssue_pool]; exact hw

/-- A buffer that returns goes to another slot: a slot that does not wait keeps its record. -/
theorem returnBuffer_slot (s : State) {j : Fin 16} (hw : j ∉ s.pool.waiting) :
    (returnBuffer s).slot j = s.slot j ∧ j ∉ (returnBuffer s).pool.waiting := by
  unfold returnBuffer
  split
  · rename_i e
    refine ⟨rfl, ?_⟩
    simp [freeBuffer, e]
  · rename_i k rest e
    rw [e] at hw
    simp only [List.mem_cons, not_or] at hw
    refine ⟨?_, ?_⟩
    · rw [engineGo_slot_ne _ _ hw.1, lend_slot_ne _ _ hw.1, withPool_slot]
    · refine engineRounds_waiting _ _ _ hw.1 ?_
      rw [lend_waiting]
      exact hw.2

theorem returnBuffers_slot (n : Nat) (s : State) {j : Fin 16} (hw : j ∉ s.pool.waiting) :
    (returnBuffers n s).slot j = s.slot j ∧ j ∉ (returnBuffers n s).pool.waiting := by
  induction n generalizing s with
  | zero => exact ⟨rfl, hw⟩
  | succ n ih =>
    unfold returnBuffers
    obtain ⟨h1, h2⟩ := returnBuffer_slot s hw
    obtain ⟨h3, h4⟩ := ih _ h2
    exact ⟨h3.trans h1, h4⟩

/-- The record of a slot whose chunks are dropped while it does not wait for a buffer. -/
theorem dropChunks_slot (i : Fin 16) (p : InHand → Bool) (s : State) (hw : i ∉ s.pool.waiting) :
    (dropChunks i p s).slot i
      = { s.slot i with sweep := { (s.slot i).sweep with hand := (s.slot i).sweep.hand.filter fun h => !p h } } ∧
    i ∉ (dropChunks i p s).pool.waiting := by
  unfold dropChunks
  simp only
  obtain ⟨h1, h2⟩ := returnBuffers_slot ((s.slot i).sweep.hand.filter p).length
    (endWork i (((s.slot i).sweep.hand.filter p).map InHand.lending)
      (s.modSweep i fun e => { e with hand := e.hand.filter fun h => !p h })) (j := i) hw
  refine ⟨h1.trans ?_, h2⟩
  simp [endWork, State.modSweep]

theorem leaveBufferList_waiting (i : Fin 16) (s : State) : i ∉ (leaveBufferList i s).pool.waiting := by
  simp [leaveBufferList]

/-- The record of a slot whose engine has stopped: no sweep and no buffer (R99, R108). -/
theorem stopEngine_slot (i : Fin 16) (s : State) :
    (stopEngine i s).slot i = { s.slot i with sweep := { (s.slot i).sweep.retired with hand := [] } } ∧
    i ∉ (stopEngine i s).pool.waiting := by
  unfold stopEngine
  obtain ⟨h1, h2⟩ := dropChunks_slot i (fun _ => true) (leaveBufferList i (s.modSweep i Sweep.retired))
    (leaveBufferList_waiting _ _)
  refine ⟨h1.trans ?_, h2⟩
  simp [leaveBufferList, State.modSweep]

/-! ### Admission keeps the pool -/

theorem evaluate_pool (n : Nat) (s : State) : (evaluate n s).pool = s.pool := by
  induction n generalizing s with
  | zero => rfl
  | succ n ih =>
    unfold evaluate
    repeat' split
    all_goals first | rfl | (rw [ih]; rfl)

theorem admission_pool (s : State) : (admission s).pool = s.pool := evaluate_pool 17 s

theorem evaluate_line (n : Nat) (s : State) : (evaluate n s).line = s.line ∧ (evaluate n s).lots = s.lots := by
  induction n generalizing s with
  | zero => exact ⟨rfl, rfl⟩
  | succ n ih =>
    unfold evaluate
    repeat' split
    all_goals first | exact ⟨rfl, rfl⟩ | exact ih _

theorem admission_line (s : State) : (admission s).line = s.line := (evaluate_line 17 s).1

theorem admission_lots (s : State) : (admission s).lots = s.lots := (evaluate_line 17 s).2

/-- The end of a run raises no notice and touches no lot. -/
theorem endRun_line (i : Fin 16) (f : Slot → Slot) (s : State) :
    (endRun i f s).line = s.line ∧ (endRun i f s).lots = s.lots := by
  have h := quiet_stopEngine i (s.modSlot i fun x => f x.released)
  unfold endRun
  rw [admission_line, admission_lots, h.rest]
  exact ⟨rfl, rfl⟩

/-- The record of a slot at the end of its run: what `f` makes of the released record, with no sweep and no buffer; it waits for
none (R5). -/
theorem endRun_slot (i : Fin 16) (f : Slot → Slot) (s : State) (h : (f (s.slot i).released).state ≠ .waitPower) :
    (endRun i f s).slot i
      = { f (s.slot i).released with sweep := { (f (s.slot i).released).sweep.retired with hand := [] } } ∧
    i ∉ (endRun i f s).pool.waiting := by
  unfold endRun
  obtain ⟨h1, h2⟩ := stopEngine_slot i (s.modSlot i fun x => f x.released)
  rw [slot_modSlot_same] at h1
  rw [admission_slot _ _ (by rw [h1]; exact h), admission_pool]
  exact ⟨h1, h2⟩

/-- A slot that faults (R6). -/
theorem faultSlot_slot (i : Fin 16) (r : Reason) (d : Option (List Byte)) (s : State) :
    (faultSlot i r d s).slot i
      = { (s.slot i).released with
          state := .faulted, reason := r, outcome := none
          identity := if r = .duplicate then none else (s.slot i).identity
          sweep := { (s.slot i).sweep.retired with hand := [] } } ∧
    i ∉ (faultSlot i r d s).pool.waiting := by
  unfold faultSlot
  simp only
  have h := endRun_slot i (fun x => { x with
    state := .faulted, reason := r, outcome := none
    identity := if r = .duplicate then none else x.identity }) s (by simp)
  generalize endRun i _ s = t at h
  exact ⟨h.1.trans rfl, h.2⟩

end Sys2Proof.Machine
end

