-- ==== Sys2Proof/Laws/Framer.lean ====
section
/-! SUPPORT. The receive framer on whole frames: how bytes are held, when a frame is complete, and what becomes of it. -/

namespace Sys2Proof.Machine

theorem framer_nil (n : Nat) (s : State) : framer n [] [] s = s := by cases n <;> rfl

/-- In HUNT the bytes that are not the start value are dropped (R166). -/
theorem framer_hunt (n : Nat) (again : List Byte) (s : State) (hh : s.line.held = []) (hn : again.length ≤ n)
    (ha : ∀ b ∈ again, b ≠ 0xC5#8) : framer n again [] s = s := by
  induction again generalizing n with
  | nil => exact framer_nil n s
  | cons b l ih =>
    obtain _ | n := n
    · simp at hn
    have hb : b ≠ 0xC5#8 := ha b (by simp)
    have : framer (n + 1) (b :: l) [] s = framer n l [] (s.setHeld []) := by
      rw [framer]
      simp [hh, examine, Config.startByte, hb]
    rw [this]
    have e : s.setHeld [] = s := (congrArg s.setHeld hh).symm.trans rfl
    rw [e]
    exact ih n (by simp at hn; omega) (fun c hc => ha c (by simp [hc]))

theorem setHeld_setHeld (s : State) (a b : List Byte) : (s.setHeld a).setHeld b = s.setHeld b := rfl

/-- A character that only adds to the bytes held. -/
theorem framer_hold (n : Nat) (b : Byte) (rest : List LineChar) (s : State) (held : List Byte)
    (h : examine s.line.address s.line.held b = .holding held) :
    framer (n + 2) [] (.byte b :: rest) s = framer n [] rest (s.setHeld held) := by
  rw [framer, framer, h]

/-- The bytes of a body, and the first CRC byte, are held (R166). -/
theorem framer_body (pre : List Byte) (own : Nat) (a len : Byte) (body : List Byte) (n : Nat) (rest : List LineChar)
    (s : State)    (ho : s.line.address = own) (hh : s.line.held = 0xC5#8 :: a :: len :: pre)
    (hl : pre.length + body.length < len.toNat + 2) (hn : 0 < n) :
    framer (n + 2 * body.length) [] (body.map .byte ++ rest) s = framer n [] rest (s.setHeld (0xC5#8 :: a :: len :: (pre ++ body))) := by
  induction body generalizing pre s n with
  | nil =>
    have e : s.setHeld (0xC5#8 :: a :: len :: pre) = s := (congrArg s.setHeld hh).symm.trans rfl
    simp [e]
  | cons b l ih =>
    have : n + 2 * (b :: l).length = (n + 2 * l.length) + 2 := by simp; omega
    rw [this, List.map_cons, List.cons_append, framer_hold _ b _ s (0xC5#8 :: a :: len :: (pre ++ [b]))]
    · rw [ih (pre ++ [b]) n (s.setHeld (0xC5#8 :: a :: len :: (pre ++ [b]))) ho rfl (by simp at hl ⊢; omega) hn, setHeld_setHeld]
      simp
    · rw [hh]; simp [examine]; simp at hl; omega

/-- Start byte, address and length are held (R166). -/
theorem framer_head (a len : Byte) (n : Nat) (rest : List LineChar) (s : State)
    (hh : s.line.held = []) (h2 : 2 ≤ len.toNat) (h3 : len.toNat ≤ 250) :
    framer (n + 6) [] (.byte 0xC5#8 :: .byte a :: .byte len :: rest) s = framer n [] rest (s.setHeld [0xC5#8, a, len]) := by
  rw [show n + 6 = (n + 4) + 2 from rfl, framer_hold _ _ _ s [0xC5#8] (by rw [hh]; rfl)]
  rw [show n + 4 = (n + 2) + 2 from rfl, framer_hold _ _ _ _ [0xC5#8, a] rfl]
  rw [framer_hold _ _ _ _ [0xC5#8, a, len] (by simp [examine, State.setHeld, h2, h3])]
  simp only [setHeld_setHeld]

/-- A frame received whole from HUNT is complete at its last byte (R166). -/
theorem framer_whole (a : Byte) (body : List Byte) (hi lo : Byte) (n : Nat) (s : State)
    (hh : s.line.held = []) (h2 : 2 ≤ body.length) (h3 : body.length ≤ 250) :
    framer (n + 2 * body.length + 12) [] (([0xC5#8, a, BitVec.ofNat 8 body.length] ++ body ++ [hi, lo]).map .byte) s
      = match frameComplete s.line.address ([0xC5#8, a, BitVec.ofNat 8 body.length] ++ body ++ [hi, lo]) with
        | .holding held => framer (n+2) [] [] (s.setHeld held)
        | .discarded bytes => framer (n+2) bytes [] (s.setHeld [])
        | .request broadcast body =>
            let s := bodyTaken broadcast body (s.setHeld [])
            if s.line.deaf then s else framer (n+2) [] [] s := by
  have hlen : (BitVec.ofNat 8 body.length).toNat = body.length := by simp; omega
  have e : ([0xC5#8, a, BitVec.ofNat 8 body.length] ++ body ++ [hi, lo]).map LineChar.byte
      = .byte 0xC5#8 :: .byte a :: .byte (BitVec.ofNat 8 body.length) :: ((body ++ [hi]).map .byte ++ [.byte lo]) := by simp
  rw [e, show n + 2 * body.length + 12 = (n + 4 + 2 * (body ++ [hi]).length) + 6 by simp; omega]
  rw [framer_head _ _ _ _ s hh (by omega) (by omega)]
  rw [framer_body [] s.line.address a (BitVec.ofNat 8 body.length) (body ++ [hi]) (n+4) _ (s.setHeld [0xC5#8, a, BitVec.ofNat 8 body.length]) rfl rfl (by simp; omega) (by omega)]
  rw [framer, framer, setHeld_setHeld]
  have hx : examine s.line.address (0xC5#8 :: a :: BitVec.ofNat 8 body.length :: ([] ++ (body ++ [hi]))) lo
      = frameComplete s.line.address ([0xC5#8, a, BitVec.ofNat 8 body.length] ++ body ++ [hi, lo]) := by
    simp [examine]; omega
  show (match examine s.line.address (0xC5#8 :: a :: BitVec.ofNat 8 body.length :: ([] ++ (body ++ [hi]))) lo with
    | .holding held => framer (n+2) [] [] (s.setHeld held)
    | .discarded bytes => framer (n+2) (bytes ++ []) [] (s.setHeld [])
    | .request broadcast body => _) = _
  rw [hx]
  cases frameComplete s.line.address ([0xC5#8, a, BitVec.ofNat 8 body.length] ++ body ++ [hi, lo]) with
  | holding h => rfl
  | discarded b => simp
  | request b q => simp [setHeld_setHeld]

/-- A frame whose CRC agrees is taken or discarded by its address (R167). -/
theorem frameComplete_good (own : Nat) (a : Byte) (body : List Byte) :
    frameComplete own ([0xC5#8, a, BitVec.ofNat 8 body.length] ++ body ++ crcBytes ([a, BitVec.ofNat 8 body.length] ++ body))
    = match addressTaken own a with
      | some b => .request b body
      | none => .discarded (([a, BitVec.ofNat 8 body.length] ++ body) ++ crcBytes ([a, BitVec.ofNat 8 body.length] ++ body)) := by
  have hc : (crcBytes ([a, BitVec.ofNat 8 body.length] ++ body)).length = 2 := rfl
  unfold frameComplete
  have h1 : (([0xC5#8, a, BitVec.ofNat 8 body.length] ++ body ++ crcBytes ([a, BitVec.ofNat 8 body.length] ++ body)).drop 1).take
      (([0xC5#8, a, BitVec.ofNat 8 body.length] ++ body ++ crcBytes ([a, BitVec.ofNat 8 body.length] ++ body)).length - 3) = [a, BitVec.ofNat 8 body.length] ++ body := by
    simp only [List.length_append, hc]
    simp only [List.cons_append, List.nil_append, List.drop_succ_cons, List.drop_zero, List.length_cons, List.length_nil]
    have : 0 + 1 + 1 + 1 + body.length + 2 - 3 = body.length + 2 := by omega
    rw [this]
    simp
  have h2 : ([0xC5#8, a, BitVec.ofNat 8 body.length] ++ body ++ crcBytes ([a, BitVec.ofNat 8 body.length] ++ body)).drop
      (([0xC5#8, a, BitVec.ofNat 8 body.length] ++ body ++ crcBytes ([a, BitVec.ofNat 8 body.length] ++ body)).length - 2) = crcBytes ([a, BitVec.ofNat 8 body.length] ++ body) := by
    rw [List.length_append, hc, Nat.add_sub_cancel, List.drop_left]
  simp only [h1, h2, if_true]
  cases h : addressTaken own a <;> simp [h]


end Sys2Proof.Machine
end

