-- ==== Sys2Proof/Laws/Kept.lean ====
section
/-! SUPPORT. Every move of a run keeps the laws of buffers, notices, power, record and manifest. -/

namespace Sys2Proof.Machine

variable {strict : Bool}

/-! ### Buffers (R97) -/

theorem bufferLaw_quiet {s t : State} (h : Quiet s t) (k : BufferLaw s) : BufferLaw t := by
  refine ⟨?_, h.bound k.2⟩
  have := h.total
  have := k.1
  omega

theorem bufferLaw_setSlot {s : State} {i : Fin 16} {y : Slot} (hh : y.sweep.hand.length = (s.slot i).sweep.hand.length)
    (k : BufferLaw s) : BufferLaw (s.setSlot i y) := by
  refine ⟨?_, fun j => ?_⟩
  · have := buffersHeld_setSlot s i y
    have := k.1
    simp only [setSlot_pool]; omega
  · rw [slot_setSlot]; split
    · rw [hh]; exact k.2 i
    · exact k.2 j

theorem bufferLaw_move {s t : State} (h : Move strict s t) (k : BufferLaw s) : BufferLaw t := by
  cases h with
  | raise n d s => exact k
  | quiet s t h => exact bufferLaw_quiet h k
  | reservation s r => exact k
  | grant s i =>
    refine bufferLaw_quiet (quiet_issue i _ _ _) (bufferLaw_setSlot (s := s.withPower { s.power with pointer := i }) rfl ?_)
    exact k
  | slot s i y hp hh => exact bufferLaw_setSlot hh k
  | lots s l => exact k

theorem bufferLaw_moves {s t : State} (h : Moves strict s t) (k : BufferLaw s) : BufferLaw t := by
  induction h with
  | refl => exact k
  | tail _ h ih => exact bufferLaw_move h ih

/-! ### Notices (R172) -/

theorem sameKind_code (a b : Detail) : a.sameKind b = true ↔ a.code = b.code := by
  cases a <;> cases b <;> simp [Detail.sameKind, Detail.code]

theorem matches_iff (n : Notice) (k : Nat) (d : Detail) :
    n.matches k d = true ↔ n.subject = k ∧ n.detail.code = d.code := by
  simp [Notice.matches, sameKind_code]

/-- The law of a notice list. -/
def NoticesOk (l : List Notice) : Prop :=
  l.Pairwise (fun a b => ¬ a.clashes b) ∧ ∀ n ∈ l, 1 ≤ n.count ∧ n.count ≤ 255

theorem mergeNotice_none {k : Nat} {d : Detail} {l : List Notice} (h : mergeNotice k d l = none) :
    ∀ n ∈ l, ¬ (n.subject = k ∧ n.detail.code = d.code) := by
  induction l with
  | nil => simp
  | cons a l ih =>
    unfold mergeNotice at h
    split at h
    · cases h
    · rename_i ha
      rw [matches_iff] at ha
      intro n hn
      rcases List.mem_cons.1 hn with rfl | hn
      · exact ha
      · exact ih (by simpa using h) n hn

/-- A merge keeps length, subjects and kinds, in order. -/
theorem mergeNotice_some {k : Nat} {d : Detail} {l q : List Notice} (h : mergeNotice k d l = some q) :
    q.map (fun n => (n.subject, n.detail.code)) = l.map (fun n => (n.subject, n.detail.code)) ∧
      ((∀ n ∈ l, 1 ≤ n.count ∧ n.count ≤ 255) → ∀ n ∈ q, 1 ≤ n.count ∧ n.count ≤ 255) := by
  induction l generalizing q with
  | nil => cases h
  | cons a l ih =>
    unfold mergeNotice at h
    split at h
    · rename_i ha
      rw [matches_iff] at ha
      simp only [Option.some.injEq] at h
      subst h
      refine ⟨by simp [Notice.merge, ha.2], fun hc n hn => ?_⟩
      rcases List.mem_cons.1 hn with rfl | hn
      · have := hc a (List.mem_cons_self ..)
        simp only [Notice.merge]; omega
      · exact hc n (List.mem_cons_of_mem _ hn)
    · simp only [Option.map_eq_some_iff] at h
      obtain ⟨r, hr, rfl⟩ := h
      obtain ⟨h1, h2⟩ := ih hr
      refine ⟨by simp [h1], fun hc n hn => ?_⟩
      rcases List.mem_cons.1 hn with rfl | hn
      · exact hc _ (List.mem_cons_self ..)
      · exact h2 (fun m hm => hc m (List.mem_cons_of_mem _ hm)) n hn

theorem pairwise_of_keys {l : List Notice} :
    l.Pairwise (fun a b => ¬ a.clashes b) ↔ (l.map (fun n => (n.subject, n.detail.code))).Nodup := by
  rw [List.Nodup, List.pairwise_map]
  refine ⟨fun h => h.imp ?_, fun h => h.imp ?_⟩
  · intro a b hab e
    simp only [Prod.mk.injEq] at e
    exact hab e
  · intro a b hab e
    exact hab (Prod.ext e.1 e.2)

theorem noticeLaw_raise {s : State} (n : Nat) (d : Detail) (k : NoticeLaw s) : NoticeLaw (raise n d s) := by
  obtain ⟨h1, h2, h3⟩ := k
  unfold NoticeLaw raise
  simp only [withLine_line]
  unfold Line.raised
  split
  · rename_i q hq
    obtain ⟨e, c⟩ := mergeNotice_some hq
    have hl := congrArg List.length e
    simp only [List.length_map] at hl
    refine ⟨by simp only; omega, ?_, c h3⟩
    rw [pairwise_of_keys] at h2 ⊢
    simp only
    rw [e]; exact h2
  · rename_i hq
    have hn := mergeNotice_none hq
    split
    · rename_i hl
      have hl : s.line.notices.length < 24 := hl
      refine ⟨by simp; omega, ?_, ?_⟩
      · rw [List.pairwise_append]
        refine ⟨h2, List.pairwise_singleton _ _, fun a ha b hb => ?_⟩
        rw [List.mem_singleton.1 hb]
        exact hn a ha
      · intro m hm
        rcases List.mem_append.1 hm with hm | hm
        · exact h3 m hm
        · rw [List.mem_singleton.1 hm]; exact ⟨le_refl 1, by norm_num⟩
    · exact ⟨h1, h2, h3⟩

theorem noticeLaw_line {s t : State} (h : t.line = s.line) (k : NoticeLaw s) : NoticeLaw t := by
  unfold NoticeLaw at *
  rw [h]; exact k

theorem noticeLaw_move {s t : State} (h : Move strict s t) (k : NoticeLaw s) : NoticeLaw t := by
  cases h with
  | raise n d s => exact noticeLaw_raise n d k
  | quiet s t h => exact noticeLaw_line (by rw [h.rest]) k
  | reservation s r => exact k
  | grant s i => exact noticeLaw_line rfl k
  | slot s i y => exact noticeLaw_line rfl k
  | lots s l => exact k

theorem noticeLaw_moves {s t : State} (h : Moves strict s t) (k : NoticeLaw s) : NoticeLaw t := by
  induction h with
  | refl => exact k
  | tail _ h ih => exact noticeLaw_move h ih

/-! ### Power (R24, R25) -/

/-- The drive commitment of a slot record beside a plan store (R23). -/
def slotCommit (plans : Vector (Option Plan) 4) (x : Slot) : Nat :=
  let run := ((x.plan.bind fun p => plans.get p).map Plan.runCost).getD 0
  let spin := ((x.plan.bind fun p => plans.get p).map Plan.spinCost).getD 0
  match x.state with
  | .empty | .seated | .cycling | .lotWait | .done | .faulted => 0
  | .waitPower => if x.powered then run else 0
  | .spinning => spin
  | .active => run
  | .recovering => if x.op.returnTo = some .spinning then spin else run

theorem driveCommit_eq (s : State) (i : Fin 16) : s.driveCommit i = slotCommit s.plans (s.slot i) := by
  unfold State.driveCommit slotCommit State.spinCost State.runCost State.planOf State.planAt
  rfl

theorem driveTotal_eq (s : State) : s.driveTotal = (slotIds.map fun i => slotCommit s.plans (s.slot i)).sum :=
  sum_slotIds_congr fun i => driveCommit_eq s i

/-- 1 where a slot holds a place for spin-up. -/
def placeOf (x : Slot) : Nat := if x.spinPlace then 1 else 0

theorem length_filter_eq_sum {α : Type} (p : α → Bool) (l : List α) :
    (l.filter p).length = (l.map fun a => if p a then 1 else 0).sum := by
  induction l with
  | nil => rfl
  | cons a l ih => by_cases h : p a <;> simp [h, ih]; omega

theorem spinCount_eq (s : State) : s.spinCount = (slotIds.map fun i => placeOf (s.slot i)).sum :=
  length_filter_eq_sum _ _

theorem driveTotal_setSlot (s : State) (i : Fin 16) (y : Slot) :
    (s.setSlot i y).driveTotal + slotCommit s.plans (s.slot i) = s.driveTotal + slotCommit s.plans y := by
  have h := sum_slotIds_update (fun j => slotCommit s.plans (s.slot j)) i (slotCommit s.plans y)
  have e : (s.setSlot i y).driveTotal
      = (slotIds.map fun j => if j = i then slotCommit s.plans y else slotCommit s.plans (s.slot j)).sum := by
    rw [driveTotal_eq]
    refine sum_slotIds_congr fun j => ?_
    rw [slot_setSlot]; split <;> rfl
  rw [e, driveTotal_eq]; exact h

theorem spinCount_setSlot (s : State) (i : Fin 16) (y : Slot) :
    (s.setSlot i y).spinCount + placeOf (s.slot i) = s.spinCount + placeOf y := by
  have h := sum_slotIds_update (fun j => placeOf (s.slot j)) i (placeOf y)
  have e : (s.setSlot i y).spinCount = (slotIds.map fun j => if j = i then placeOf y else placeOf (s.slot j)).sum := by
    rw [spinCount_eq]
    refine sum_slotIds_congr fun j => ?_
    rw [slot_setSlot]; split <;> rfl
  rw [e, spinCount_eq]; exact h

/-- Every plan of a store has its costs in order. -/
def CostsOrdered (plans : Vector (Option Plan) 4) : Prop := ∀ p x, plans.get p = some x → x.costsOrdered

theorem run_le_spin {plans : Vector (Option Plan) 4} (h : CostsOrdered plans) (l : Option (Fin 4)) :
    ((l.bind fun p => plans.get p).map Plan.runCost).getD 0 ≤ ((l.bind fun p => plans.get p).map Plan.spinCost).getD 0 := by
  cases l with
  | none => simp
  | some p =>
    simp only [Option.bind_some]
    cases e : plans.get p with
    | none => simp
    | some x => simp only [Option.map_some, Option.getD_some]; exact h p x e

theorem fixed_commit {x y : Slot} (h : SlotFixed x y) (plans : Vector (Option Plan) 4) :
    slotCommit plans y = slotCommit plans x := by
  unfold slotCommit
  rw [h.state, h.powered, h.plan, h.returnTo]

theorem fixed_place {x y : Slot} (h : SlotFixed x y) : placeOf y = placeOf x := by
  unfold placeOf Slot.spinPlace
  rw [h.state, h.returnTo]

theorem step_commit {w : Prop} {x y : Slot} (h : SlotStep strict w x y) {plans : Vector (Option Plan) 4} (hc : CostsOrdered plans) :
    slotCommit plans y ≤ slotCommit plans x := by
  have hr := run_le_spin hc x.plan
  cases h with
  | rest hy => rcases hy with h | h | h <;> simp [slotCommit, h]
  | await hx hy hp hs hl => simp only [slotCommit, hx, hy, hl]; split <;> simp
  | start hx hy hp => simp [slotCommit, hy, hp]
  | activate hx hy hp hl => simpa only [slotCommit, hx, hy, hl] using hr
  | stoodBy hx hy hp hs hl => simp only [slotCommit, hx, hy, hl]; exact le_refl _
  | recover hx hy hr' hp hs hl =>
    simp only [slotCommit, hy, hr', hl]
    cases hst : x.state <;> rw [hst] at hx <;> try cases hx
    · simp
    · simp
    · simp only [reduceCtorEq, if_false, Option.some.injEq]; split <;> omega
  | resume hx hy hp hs hl =>
    by_cases hr' : x.op.returnTo = some .spinning
    · simp only [slotCommit, hx, hy, hl, hr', if_true]; exact le_refl _
    · simp only [slotCommit, hx, hy, hl, hr', if_false]; exact le_refl _
  | off hx hy hp => simp [slotCommit, hy, hp]
  | lotWait hx hy => simp [slotCommit, hy]
  | join hx hw hy => simp [slotCommit, hy]

theorem step_place {w : Prop} {x y : Slot} (h : SlotStep strict w x y) : placeOf y ≤ placeOf x := by
  have zero : ∀ z : Slot, z.spinPlace = false → placeOf z ≤ placeOf x := by
    intro z hz; simp [placeOf, hz]
  cases h with
  | rest hy => rcases hy with h | h | h <;> exact zero y (by simp [Slot.spinPlace, h])
  | await hx hy => exact zero y (by simp [Slot.spinPlace, hy])
  | start hx hy => exact zero y (by simp [Slot.spinPlace, hy])
  | activate hx hy => exact zero y (by simp [Slot.spinPlace, hy])
  | stoodBy hx hy => exact zero y (by simp [Slot.spinPlace, hy])
  | recover hx hy hr =>
    by_cases hs : x.state = .spinning
    · simp [placeOf, Slot.spinPlace, hy, hs]
      split <;> omega
    · exact zero y (by simp [Slot.spinPlace, hy, hr, hs])
  | resume hx hy =>
    by_cases hs : x.op.returnTo = some .spinning
    · simp [placeOf, Slot.spinPlace, hx, hs]
      split <;> omega
    · exact zero y (by simp [Slot.spinPlace, hy, hs])
  | off hx hy => exact zero y (by simp [Slot.spinPlace, hy])
  | lotWait hx hy => exact zero y (by simp [Slot.spinPlace, hy])
  | join hx hw hy => exact zero y (by simp [Slot.spinPlace, hy])

theorem powerLaw_setSlot {s : State} {i : Fin 16} {y : Slot} (hc : slotCommit s.plans y ≤ slotCommit s.plans (s.slot i))
    (hp : placeOf y ≤ placeOf (s.slot i)) (k : PowerLaw s) : PowerLaw (s.setSlot i y) := by
  obtain ⟨h1, h2, h3, h4⟩ := k
  have e1 := driveTotal_setSlot s i y
  have e2 := spinCount_setSlot s i y
  refine ⟨?_, ?_, h3, h4⟩
  · have : (s.setSlot i y).heaterTotal = s.heaterTotal := rfl
    simp only [State.committed, this, setSlot_power] at *
    omega
  · simp only [setSlot_power]; omega

/-- Power, plans and heater commitments are the same, and every slot keeps its fixed parts. -/
theorem powerLaw_fixed {s t : State} (hs : ∀ i, SlotFixed (s.slot i) (t.slot i)) (hp : t.plans = s.plans)
    (hg : t.staging = s.staging) (hz : t.zones = s.zones) (hb : t.power.budget = s.power.budget)
    (hl : t.power.limit = s.power.limit) (k : PowerLaw s) : PowerLaw t := by
  obtain ⟨h1, h2, h3, h4⟩ := k
  have e1 : t.driveTotal = s.driveTotal := by
    rw [driveTotal_eq, driveTotal_eq, hp]
    exact sum_slotIds_congr fun i => fixed_commit (hs i) _
  have e2 : t.spinCount = s.spinCount := by
    rw [spinCount_eq, spinCount_eq]
    exact sum_slotIds_congr fun i => fixed_place (hs i)
  have e3 : t.heaterTotal = s.heaterTotal := by
    unfold State.heaterTotal State.zone; rw [hz]
  refine ⟨?_, ?_, ?_, ?_⟩
  · rw [State.committed, e1, e3, hb]; exact h1
  · rw [e2, hl]; exact h2
  · intro p x h; exact h3 p x (by rw [State.planAt, ← hp]; exact h)
  · intro p x h; exact h4 p x (by rw [State.stagingAt, ← hg]; exact h)

theorem powerLaw_grant {s : State} {i : Fin 16} (hs : s.spinCount < s.power.limit)
    (hb : s.committed + s.need i ≤ s.power.budget) (k : PowerLaw s) : PowerLaw (grant i s) := by
  obtain ⟨h1, h2, h3, h4⟩ := k
  have q := quiet_issue i Op.spin []
    ((s.withPower { s.power with pointer := i }).modSlot i fun x => { x with state := .spinning, powered := true })
  refine powerLaw_fixed q.slots rfl rfl rfl rfl rfl ?_
  have e1 := driveTotal_setSlot (s.withPower { s.power with pointer := i }) i
    { s.slot i with state := .spinning, powered := true }
  have e2 := spinCount_setSlot (s.withPower { s.power with pointer := i }) i
    { s.slot i with state := .spinning, powered := true }
  have c : slotCommit s.plans { s.slot i with state := .spinning, powered := true } = s.spinCost i := rfl
  have d : (s.withPower { s.power with pointer := i }).driveTotal = s.driveTotal := rfl
  have d' : (s.withPower { s.power with pointer := i }).spinCount = s.spinCount := rfl
  have n : s.need i = s.spinCost i - slotCommit s.plans (s.slot i) := by rw [State.need, driveCommit_eq]
  simp only [withPower_slot, withPower_plans] at e1 e2
  rw [c, d] at e1
  refine ⟨?_, ?_, h3, h4⟩
  · show State.driveTotal _ + s.heaterTotal ≤ s.power.budget
    rw [State.committed] at hb h1
    simp only [State.modSlot, withPower_slot] at *
    omega
  · show State.spinCount _ ≤ s.power.limit
    have p1 : placeOf { s.slot i with state := .spinning, powered := true } = 1 := rfl
    simp only [State.modSlot, withPower_slot] at *
    omega

theorem powerLaw_move {s t : State} (h : Move strict s t) (k : PowerLaw s) : PowerLaw t := by
  cases h with
  | raise n d s => exact k
  | quiet s t h =>
    refine powerLaw_fixed h.slots ?_ ?_ ?_ ?_ ?_ k <;> rw [h.rest]
  | reservation s r => exact k
  | grant s i hw hs hb => exact powerLaw_grant hs hb k
  | slot s i y hp hh h => exact powerLaw_setSlot (step_commit h k.2.2.1) (step_place h) k
  | lots s l => exact k

theorem powerLaw_moves {s t : State} (h : Moves strict s t) (k : PowerLaw s) : PowerLaw t := by
  induction h with
  | refl => exact k
  | tail _ h ih => exact powerLaw_move h ih

/-! ### The record (R3) -/

theorem sound_fixed {x y : Slot} (h : SlotFixed x y) (k : x.Sound) : y.Sound := by
  refine ⟨?_, ?_, ?_, ?_⟩
  · rw [h.state, h.pins.1]; exact k.seat
  · rw [h.state, h.powered]; exact k.on
  · rw [h.state, h.powered]; exact k.off
  · rw [h.spun, h.powered]; exact k.spun

theorem sound_step {w : Prop} {x y : Slot} (h : SlotStep true w x y) (hp : x.SamePins y) (k : x.Sound) : y.Sound := by
  obtain ⟨ks, ko, kf, kp⟩ := k
  have seat : x.state ≠ .empty → y.state ≠ .empty → (y.seated = true ↔ y.state ≠ .empty) := by
    intro a b; rw [hp.1]; exact ⟨fun _ => b, fun _ => ks.2 a⟩
  cases h with
  | rest hy hx hw hpow hs =>
    refine ⟨seat hx ?_, ?_, fun _ => hpow, fun e => by rw [hs] at e; cases e⟩
    · rcases hy with h | h | h <;> rw [h] <;> decide
    · rcases hy with h | h | h <;> rw [h] <;> intro e <;> cases e
  | await hx hy hpow hs =>
    refine ⟨seat (by rw [hx]; decide) (by rw [hy]; decide), ?_, ?_, fun e => by rw [hs] at e; cases e⟩ <;> rw [hy] <;>
      intro e <;> cases e
  | start hx hy hpow hs =>
    refine ⟨seat (by rcases hx with h | h <;> rw [h] <;> decide) (by rw [hy]; decide), ?_, ?_,
      fun e => by rw [hs] at e; cases e⟩ <;> rw [hy] <;> intro e <;> cases e
  | activate hx hy hpow =>
    have hon : y.powered = true := by rw [hpow]; exact ko (by rw [hx]; rfl)
    refine ⟨seat (by rw [hx]; decide) (by rw [hy]; decide), fun _ => hon, ?_, fun _ => hon⟩
    rw [hy]; intro e; cases e
  | stoodBy hx hy hpow hs =>
    have hon : y.powered = true := by rw [hpow]; exact ko (by rw [hx]; rfl)
    refine ⟨seat (by rw [hx]; decide) (by rw [hy]; decide), fun _ => hon, ?_, fun _ => hon⟩
    rw [hy]; intro e; cases e
  | recover hx hy hr hpow =>
    have hon : y.powered = true := by
      rw [hpow]; refine ko ?_
      cases hst : x.state <;> rw [hst] at hx <;> first | rfl | cases hx
    refine ⟨seat (by intro e; rw [e] at hx; cases hx) (by rw [hy]; decide), fun _ => hon, ?_, fun _ => hon⟩
    rw [hy]; intro e; cases e
  | resume hx hy hpow =>
    have hon : y.powered = true := by rw [hpow]; exact ko (by rw [hx]; rfl)
    refine ⟨seat (by rw [hx]; decide) (by rw [hy]; split <;> decide), fun _ => hon, ?_, fun _ => hon⟩
    rw [hy]; split <;> intro e <;> cases e
  | off hx hy hpow hs =>
    have hoff : x.powered = false := kf (by rw [hx]; rfl)
    refine ⟨seat (by rw [hx]; decide) (by rw [hy]; decide), ?_, ?_, ?_⟩
    · rw [hy]; intro e; cases e
    · rw [hy]; intro e; cases e
    · rw [hs]; intro e; have := kp e; rw [hoff] at this; cases this
  | lotWait hx hy hpow hs =>
    have hoff : x.powered = false := kf (by rw [hx]; rfl)
    refine ⟨seat (by rw [hx]; decide) (by rw [hy]; decide), ?_, fun _ => by rw [hpow, hoff], ?_⟩
    · rw [hy]; intro e; cases e
    · rw [hs, hpow]; exact kp
  | join hx hw hy hpow hs =>
    have hx := hx rfl
    have hoff : x.powered = false := kf (by rcases hx with h | h <;> rw [h] <;> rfl)
    refine ⟨seat (by rcases hx with h | h <;> rw [h] <;> decide) (by rw [hy]; decide), ?_, fun _ => by rw [hpow, hoff], ?_⟩
    · rw [hy]; intro e; cases e
    · rw [hs, hpow]; exact kp

/-- Where a slot that stands on the lot-wait list in LOT_WAIT cannot take the step, and any other is not on the list. -/
theorem step_not_waiting {w : Prop} {x y : Slot} (h : SlotStep true w x y) (hw : w) (hs : x.state = .lotWait) : False := by
  cases h with
  | rest hy hx hn => exact hn hs hw
  | await hx => rw [hx] at hs; cases hs
  | start hx => rcases hx with h | h <;> rw [h] at hs <;> cases hs
  | activate hx => rw [hx] at hs; cases hs
  | stoodBy hx => rw [hx] at hs; cases hs
  | recover hx => rw [hs] at hx; cases hx
  | resume hx => rw [hx] at hs; cases hs
  | off hx => rw [hx] at hs; cases hs
  | lotWait hx => rw [hx] at hs; cases hs
  | join hx hn => exact hn rfl hs hw

theorem recordLaw_move {s t : State} (h : Move true s t) (k : RecordLaw s) : RecordLaw t := by
  obtain ⟨h1, h2⟩ := k
  cases h with
  | raise n d s => exact ⟨h1, h2⟩
  | quiet s t h =>
    refine ⟨fun i => sound_fixed (h.slots i) (h1 i), fun i hi => ?_⟩
    have e : t.lots = s.lots := by rw [h.rest]
    rw [(h.slots i).state]
    rw [e] at hi
    exact h2 i hi
  | reservation s r => exact ⟨h1, h2⟩
  | grant s i hw =>
    have q := quiet_issue i Op.spin []
      ((s.withPower { s.power with pointer := i }).modSlot i fun x => { x with state := .spinning, powered := true })
    have e : (grant i s).lots = s.lots := rfl
    refine ⟨fun j => sound_fixed (q.slots j) ?_, fun j hj => ?_⟩
    · by_cases hj : j = i
      · subst hj
        rw [slot_modSlot_same]
        have := (h1 j).seat
        refine ⟨?_, fun _ => rfl, fun e => (by cases e), fun _ => rfl⟩
        simp only [withPower_slot]
        rw [this, hw]; simp
      · rw [slot_modSlot_ne _ _ hj]; exact h1 j
    · rw [e] at hj
      have hs := h2 j hj
      have hne : j ≠ i := by rintro rfl; rw [hw] at hs; cases hs
      have := (q.slots j).state
      rw [slot_modSlot_ne _ _ hne] at this
      exact this.trans hs
  | slot s i y hp hh h =>
    refine ⟨fun j => ?_, fun j hj => ?_⟩
    · rw [slot_setSlot]; split
      · exact sound_step h hp (h1 i)
      · exact h1 j
    · have hs := h2 j hj
      rw [slot_setSlot]; split
      · subst_vars; exact (step_not_waiting h hj hs).elim
      · exact hs
  | lots s l hw hm =>
    refine ⟨h1, fun j hj => ?_⟩
    rcases hw j hj with h | h
    · exact h2 j h
    · exact h

theorem recordLaw_moves {s t : State} (h : Moves true s t) (k : RecordLaw s) : RecordLaw t := by
  induction h with
  | refl => exact k
  | tail _ h ih => exact recordLaw_move h ih

/-! ### The manifest (R146) -/

theorem manifestLaw_move {s t : State} (h : Move strict s t) (k : ManifestLaw s) : ManifestLaw t := by
  cases h with
  | raise n d s => exact k
  | quiet s t h => unfold ManifestLaw at *; rw [h.rest]; exact k
  | reservation s r => exact k
  | grant s i => exact k
  | slot s i y => exact k
  | lots s l hw hm => exact hm k

theorem manifestLaw_moves {s t : State} (h : Moves strict s t) (k : ManifestLaw s) : ManifestLaw t := by
  induction h with
  | refl => exact k
  | tail _ h ih => exact manifestLaw_move h ih

end Sys2Proof.Machine
end

