-- ==== Sys2Proof/Laws/PerInstr.lean ====
section
/-! SUPPORT. Fits, command by command: a well-formed request travels in a frame of the line (R164). -/

namespace Sys2Proof.Laws.Fits

open Sys2Proof Sys2Proof.Machine

/-- The frame of a well-formed request has a body of 2 to 250 bytes, and 5 characters beside it, whatever the tray's address. The
other commands travel in no frame. -/
def Statement (c : Instr) : Prop :=
  c.wf = true → ∀ kind r, requestOf c = some (kind, r) → ∀ own,
    2 ≤ r.fields.length + 2 ∧ r.fields.length + 2 ≤ 250 ∧ (requestChars own kind r).length = r.fields.length + 7

/-- The length of a request's frame. -/
theorem chars_length (own : Nat) (kind : Byte) (r : Req) : (requestChars own kind r).length = r.fields.length + 7 := by
  simp [requestChars, frame, crcBytes, byte, le]

theorem of_fields {c : Instr} {r' : Req} {kind' : Byte} (h : c.wf = true → r'.fields.length + 2 ≤ 250)
    (hr : requestOf c = some (kind', r')) : Statement c := by
  intro hw kind r hk own
  rw [hr] at hk
  cases hk
  exact ⟨Nat.le_add_left _ _, h hw, chars_length own _ _⟩

theorem of_none {c : Instr} (h : requestOf c = none) : Statement c := by
  intro _ kind r hk
  rw [h] at hk
  cases hk

theorem withAction_length (a : ZoneAction) (r : Req) : (withAction a r).fields.length = r.fields.length + 1 := by
  simp [withAction]; omega

theorem withTake_length (mark : Byte) (r : Req) : (withTake mark r).fields.length = r.fields.length + 1 := by
  simp [withTake]

theorem powerOnReset (address : BitVec 5) (rate : RateStrap) : Statement (.powerOnReset address rate) := of_none rfl
theorem poll (r : Req) : Statement (.poll r) :=
  of_fields (fun h => by simpa [Instr.wf, Req.wf] using h) rfl
theorem trayStatus (r : Req) : Statement (.trayStatus r) :=
  of_fields (fun h => by simpa [Instr.wf, Req.wf] using h) rfl
theorem trayRestart (r : Req) : Statement (.trayRestart r) :=
  of_fields (fun h => by simpa [Instr.wf, Req.wf] using h) rfl
theorem trayRestartTaken : Statement (.trayRestartTaken) := of_none rfl
theorem planLoad (r : Req) : Statement (.planLoad r) :=
  of_fields (fun h => by simpa [Instr.wf, Req.wf] using h) rfl
theorem profileLoad (r : Req) : Statement (.profileLoad r) :=
  of_fields (fun h => by simpa [Instr.wf, Req.wf] using h) rfl
theorem budgetSet (r : Req) : Statement (.budgetSet r) :=
  of_fields (fun h => by simpa [Instr.wf, Req.wf] using h) rfl
theorem zoneSetRun (r : Req) : Statement (.zoneSetRun r) :=
  of_fields (fun h => by rw [withAction_length]; simpa [Instr.wf, Req.wf, Nat.add_right_comm] using h) rfl
theorem zoneSetStop (r : Req) : Statement (.zoneSetStop r) :=
  of_fields (fun h => by rw [withAction_length]; simpa [Instr.wf, Req.wf, Nat.add_right_comm] using h) rfl
theorem zoneSetClear (r : Req) : Statement (.zoneSetClear r) :=
  of_fields (fun h => by rw [withAction_length]; simpa [Instr.wf, Req.wf, Nat.add_right_comm] using h) rfl
theorem slotStart (r : Req) : Statement (.slotStart r) :=
  of_fields (fun h => by simpa [Instr.wf, Req.wf] using h) rfl
theorem slotHold (r : Req) : Statement (.slotHold r) :=
  of_fields (fun h => by simpa [Instr.wf, Req.wf] using h) rfl
theorem slotRelease (r : Req) : Statement (.slotRelease r) :=
  of_fields (fun h => by simpa [Instr.wf, Req.wf] using h) rfl
theorem slotAbort (r : Req) : Statement (.slotAbort r) :=
  of_fields (fun h => by simpa [Instr.wf, Req.wf] using h) rfl
theorem slotReport (r : Req) : Statement (.slotReport r) :=
  of_fields (fun h => by simpa [Instr.wf, Req.wf] using h) rfl
theorem lotStatus (r : Req) : Statement (.lotStatus r) :=
  of_fields (fun h => by simpa [Instr.wf, Req.wf] using h) rfl
theorem lotTake (r : Req) : Statement (.lotTake r) :=
  of_fields (fun h => by rw [withTake_length]; simpa [Instr.wf, Req.wf, Nat.add_right_comm] using h) rfl
theorem lotTakeTakeYes (r : Req) : Statement (.lotTakeTakeYes r) :=
  of_fields (fun h => by rw [withTake_length]; simpa [Instr.wf, Req.wf, Nat.add_right_comm] using h) rfl
theorem lotClose (r : Req) : Statement (.lotClose r) :=
  of_fields (fun h => by simpa [Instr.wf, Req.wf] using h) rfl
theorem lotExclude (r : Req) : Statement (.lotExclude r) :=
  of_fields (fun h => by simpa [Instr.wf, Req.wf] using h) rfl
theorem frameDiscarded (chars : List LineChar) : Statement (.frameDiscarded chars) := of_none rfl
theorem seatSenseChange (slot : Fin 16) (raw : Bool) : Statement (.seatSenseChange slot raw) := of_none rfl
theorem seatWindowEnd (slot : Fin 16) : Statement (.seatWindowEnd slot) := of_none rfl
theorem linkBeat (slot : Fin 16) : Statement (.linkBeat slot) := of_none rfl
theorem linkLoss (slot : Fin 16) : Statement (.linkLoss slot) := of_none rfl
theorem completion (slot : Fin 16) (c : ChannelRecord) : Statement (.completion slot c) := of_none rfl
theorem dataChunk (slot : Fin 16) (tag : Byte) (data : List Byte) : Statement (.dataChunk slot tag data) := of_none rfl
theorem timeoutExpiry (timer : OpTimer) : Statement (.timeoutExpiry timer) := of_none rfl
theorem offTimeEnd (slot : Fin 16) : Statement (.offTimeEnd slot) := of_none rfl
theorem stepTimerExpiry (step : StepEntry) : Statement (.stepTimerExpiry step) := of_none rfl
theorem pacingTick (step : StepEntry) : Statement (.pacingTick step) := of_none rfl
theorem fillCompletion (slot : Fin 16) (lending : Nat) : Statement (.fillCompletion slot lending) := of_none rfl
theorem checkCompletion (slot : Fin 16) (lending : Nat) : Statement (.checkCompletion slot lending) := of_none rfl
theorem sensorReadStart : Statement (.sensorReadStart) := of_none rfl
theorem controlPeriod (zone : Fin 4) (read : SensorRead) : Statement (.controlPeriod zone read) := of_none rfl
theorem replySent : Statement (.replySent) := of_none rfl
theorem trayTimeTick : Statement (.trayTimeTick) := of_none rfl

end Sys2Proof.Laws.Fits
end

