-- ==== Sys2Proof/Tests/Slice0.lean ====
section
/-! SUPPORT. Small tests: what WellFormed refuses, values worked out in the spec's own examples, and for every statement with
hypotheses a state and operands that meet them. -/

open Sys2Proof Sys2Proof.Machine

namespace Sys2Proof.Tests

/- One test after another: a kernel evaluation that waits for those before it would hold a thread of its own. -/
set_option Elab.async false

/-! ### Small states -/

/-- An addressed request. -/
def ask (fields : List Byte) : Req := { broadcast := false, tag := 9#8, fields := fields }

/-- A broadcast request. -/
def callAll (fields : List Byte) : Req := { broadcast := true, tag := 9#8, fields := fields }

/-- The state a command leaves. -/
def after (c : Instr) (s : State) : State :=
  match exec c s with
  | .next t => t
  | .fault _ => s
  | .refused _ => s

def sweepFields : SweepFields :=
  { start := 0, stop := 1000, chunk := 128, direction := .ascending, pacing := .drive, interval := 10, pattern := .random
    continuous := false, timeLimit := 0 }

def seekFields : SeekFields := { start := 0, stop := 1000, count := 100, limit := 20, pacing := .tick, interval := 10 }

/-- Nine steps, with the boundary values of a DWELL and a REPEAT. -/
def plan : Plan :=
  { name := [65#8, 66#8], spinCost := 80, runCost := 25, offTime := 10, exposure := 480, spinTimeout := 10, identTimeout := 1000
    healthTimeout := 1000, writeTimeout := 1000, readTimeout := 2000, seekTimeout := 60000, standbyTimeout := 100
    steps := [.spin, .ident, .health, .writeSweep sweepFields, .readSweep sweepFields true, .readSweep sweepFields false,
              .seekSweep seekFields, .dwell 2, .repeatTo 3 255, .standby] }

def weights : Weights := { u := 150, k := 100, m := 255, w := 200, r := 30, p := 20, e := 50, l := 2, s := 10 }

/-- Profile 1 of Run 3 of chapter 11. -/
def profile : Profile :=
  { weights := weights, nominalRate := 150000, lotCapacity := 2, retestLimit := 1, binA := some { dmax := 400, umax := 0, wmax := 0 }
    binB := some { dmax := 1500, umax := 4, wmax := 0 }, binC := some { dmax := 6000, umax := 16, wmax := 2 }, binD := none }

def serial : List Byte := List.replicate 20 48#8

def identity : Identity := { serial := serial, capacity := 78140160, sectorSize := 512, reallocStart := 20 }

/-- The accumulators of Run 3 at plan end. -/
def accum : Accum :=
  { u := 1, k := 0, m := 0, w := 1, e := 2, l := 3, s := 78140160, c := 3000, reallocEnd := some 26, worstBand := some 134169
    exposure := 29100 }

/-- The tray with a budget, plan 0 and profile 1 loaded. -/
def tray : State :=
  { State.reset with
    plans := (Vector.replicate 4 none).set 0 (some plan), profiles := (Vector.replicate 4 none).set 1 (some profile)
    power := { budget := 400, limit := 3, cost := Vector.replicate 4 150, pointer := 15, reservation := 0 } }

def seatedSlot : Slot := { Slot.reset with state := .seated, seated := true, raw := true, linkUp := true, silence := some 50 }

/-- A slot in a run, ACTIVE at a step of the plan. -/
def runSlot (index : Nat) : Slot :=
  { seatedSlot with
    state := .active, plan := some 0, profile := some 1, powered := true, spun := true, identity := some identity
    exec := { Executor.reset with phase := .working, index := index, counters := [0], pass := 2 } }

/-- The tray with one slot set. -/
def trayWith (i : Fin 16) (x : Slot) : State := tray.setSlot i x

def done (tag : Byte) (p : Payload) : Completion :=
  { tag := tag, status := .done, error := .none, residual := 0, corrected := 0, payload := p }

def notice (subject : Nat) (d : Detail) : Notice := { subject := subject, count := 1, time := 0, detail := d }

def member (slot : Fin 16) : Member := { serial := serial, slot := slot, demerit := 2456, time := 7 }

def lot (number : Nat) (members : List Member) : Lot :=
  { number := number, profile := 1, bin := .C, capacity := 2, opened := 0, closed := none, members := members }

def theChunk : Chunk := { first := 27136, count := 128, band := 0 }

def inFlight : InHand := { lending := 4, chunk := theChunk, use := .inFlight, again := false, data := [] }

/-! ### WellFormed refuses -/

theorem test_wf_body_too_long : Instr.wf (.poll (ask (List.replicate 249 0#8))) = false := by decide +kernel
theorem test_wf_longest_body : Instr.wf (.poll (ask (List.replicate 248 0#8))) = true := by decide +kernel
theorem test_wf_action_counts : Instr.wf (.zoneSetRun (ask (List.replicate 248 0#8))) = false := by decide +kernel
theorem test_wf_take_mark_counts : Instr.wf (.lotTakeTakeYes (ask (List.replicate 248 0#8))) = false := by decide +kernel
theorem test_wf_chunk_over_buffer (d : List Byte) (h : d.length = 65537) : Instr.wf (.dataChunk 3 0#8 d) = false := by
  simp [Instr.wf, h, Config.bufferBytes]
theorem test_no_row_has_bits : decodeTableWord 8 1 = none := by decide

/-! ### The spec's own numbers -/

/-- The CRC-16 of R165 over the nine digits, the check value of this generator and initial value. -/
theorem test_crc : crc ([49, 50, 51, 52, 53, 54, 55, 56, 57].map (BitVec.ofNat 8)) = 0x29B1#16 := by decide +kernel

/-- The example of R190. -/
theorem test_stamp : stamp 7 5 2 1000 =
    [0x5A#8, 0xC3#8, 7#8, 5#8, 2#8, 0xE8#8, 3#8, 0#8, 0#8, 0#8, 0#8, 0x16#8] := by decide +kernel

/-- Run 3 of chapter 11: demerit 2,456, bin C. -/
theorem test_run3_demerit :
    judge { plan with exposure := 480 } profile { runSlot 9 with acc := accum } = .selected 2456 (some .C) := by decide +kernel

/-- Run 3: the slowest band's rate and its speed margin. -/
theorem test_run3_band : bandRate 4883760 36400 = 134169 ∧ speedMargin (some 134169) 150000 = 894 := by decide +kernel

/-- Run 1: the first grant reaches 380 of 400 PU, and the next start is blocked with 80 PU reserved. -/
theorem test_run1_grant :
    let s := (trayWith 0 seatedSlot).setSlot 1 seatedSlot
    let s := s.setZone 0 { s.zone 0 with commit := 150 }
    let s := s.setZone 1 { s.zone 1 with commit := 150 }
    let t := after (.slotStart (ask [0#8, 0#8, 1#8])) s
    let u := after (.slotStart (ask [1#8, 0#8, 1#8])) (after .replySent t)
    t.committed = 380 ∧ t.power.pointer = 0 ∧ t.power.reservation = 0 ∧ u.committed = 380 ∧ u.power.reservation = 80 ∧
      (u.slot 1).state = .waitPower := by decide +kernel

/-- Run 1: pool 240, share 120, duty 80 %, commitment 120. -/
theorem test_run1_share :
    ((Zone.reset).allowed 150 120).commit = 0 ∧
      (({ Zone.reset with demand := 100 } : Zone).allowed 150 120).applied = 80 ∧
      (({ Zone.reset with demand := 100 } : Zone).allowed 150 80).commit = 80 := by decide +kernel

/-- Run 2: the second expiry in a step is stage 2, power off, off timer 10,000 ms. -/
theorem test_run2_second_expiry :
    let x := runSlot 4
    let k : Chunk := { first := 27136, count := 128, band := 0 }
    let x := { x with op := { x.op with tag := 59#8, outstanding := some (.read k), timer := some 1, stage := 1 }
                      acc := { x.acc with e := 1 } }
    let t := after (.timeoutExpiry ⟨9, 59#8⟩) (trayWith 9 x)
    (t.slot 9).state = .cycling ∧ (t.slot 9).op.stage = 2 ∧ (t.slot 9).acc.e = 2 ∧ (t.slot 9).op.offTimer = some 10000 ∧
      (t.slot 9).op.interrupted = some (.read k) ∧ (t.slot 9).powered = false := by decide +kernel

/-- R67: a DONE completion of SPIN in its step makes the slot ACTIVE, and IDENT follows under the next tag. -/
theorem test_spin_done :
    let x := { runSlot 0 with state := .spinning, spun := false }
    let x := { x with op := { x.op with tag := 255#8, outstanding := some .spin }, exec := { x.exec with phase := .spinUp } }
    let t := after (.completion 9 (.record (done 255#8 .none))) (trayWith 9 x)
    (t.slot 9).state = .active ∧ (t.slot 9).op.outstanding = some .ident ∧ (t.slot 9).op.tag = 0#8 ∧
      (t.slot 9).exec.index = 1 := by decide +kernel

/-! ### Witnesses: the queue, the resets, the line -/

/-- The state a step leaves. -/
def stepped (s : State) : State :=
  match step s with
  | .next t => t
  | .fault _ => s
  | .refused _ => s

/-- A command takes a next state, whatever the state. -/
theorem exec_after (c : Instr) (s : State) : exec c s = .next (after c s) := by
  cases c <;> rfl

/-- A step takes a next state, whatever the state. -/
theorem step_stepped (s : State) : step s = .next (stepped s) := by
  unfold stepped step
  cases s.pending with
  | nil => rfl
  | cons c rest => simp only [exec_after]

theorem witness_StepTakesFront : ({ tray with pending := [.trayTimeTick, .replySent] } : State).pending =
    .trayTimeTick :: [.replySent] := rfl

/-- No command waits, and every running timer stands at 2 at least: one at the least value, one at no value. -/
theorem witness_IdleTickCounts :
    let s := trayWith 9 { seatedSlot with window := some 2 }
    s.pending = [] ∧ (s.slot 9).window = some 2 ∧ ∀ i : Fin 16,
      (∀ n ∈ (s.slot i).window, 2 ≤ n) ∧ (∀ n ∈ (s.slot i).silence, 2 ≤ n) ∧ (s.slot i).op.timer = none ∧
      (s.slot i).op.offTimer = none ∧ (s.slot i).exec.timer = none ∧ (s.slot i).sweep.pacing = none := by decide +kernel

theorem witness_TrayRestart : tray.line.deaf = false ∧ (ask []).fields = [] ∧ (ask []).broadcast = false ∧
    (callAll []).fields = [] ∧ (callAll []).broadcast = true ∧
    (tray.withLine { tray.line with restartDue := true }).line.restartDue = true := by decide +kernel

/-- Both clauses: an empty queue, and one of two entries. -/
theorem witness_PollTakesHead :
    let q := [notice 3 .slotSeated, notice 4 .slotSeated]
    tray.line.deaf = false ∧ tray.line.notices = [] ∧
      (tray.withLine { tray.line with notices := q }).line.deaf = false ∧
      (tray.withLine { tray.line with notices := q }).line.notices = notice 3 .slotSeated :: [notice 4 .slotSeated] ∧
      (ask []).broadcast = false ∧ (ask []).fields = [] := by decide +kernel

theorem witness_TrayStatusClearsFlags : tray.line.deaf = false ∧ (ask []).broadcast = false ∧ (ask []).fields = [] ∧
    tray.line.powerUp = true := by decide +kernel

/-- The tray with one lot in the manifest, under the highest number. -/
def stocked : State := tray.withLots { tray.lots with manifest := [lot 65535 [member 8, member 9]] }

/-- The first member at its least and at its greatest value; slots 0 and 15; the head lot named and not named. -/
theorem witness_ReportsChangeNothing :
    stocked.line.deaf = false ∧ (ask [15#8]).fields = [BitVec.ofNat 8 (15 : Fin 16).val] ∧
      (ask [0#8]).fields = [BitVec.ofNat 8 (0 : Fin 16).val] ∧ (ask []).fields = [] ∧
      stocked.lots.manifest = lot 65535 [member 8, member 9] :: [] ∧ 2 ≤ (lot 65535 [member 8, member 9]).members.length ∧
      (lot 65535 [member 8, member 9]).number < 65536 ∧ (ask (le 2 65535 ++ le 1 2)).fields = le 2 65535 ++ le 1 2 ∧
      (ask (le 2 0 ++ le 1 0)).fields = le 2 0 ++ le 1 0 := by decide +kernel

/-- A refusal, of a slot that is in no run; and bodies one byte too long, or without an id. -/
theorem witness_RefusedRequests :
    (slotAbort [0#8] tray).2.result ≠ .ok ∧ requestOf (.slotAbort (ask [0#8])) = some (0x23#8, ask [0#8]) ∧
      (slotAbort (ask [0#8]).fields tray.hunting).2.result ≠ .ok ∧ tray.line.deaf = false ∧
      requestOf (.lotTake (ask [0#8, 0#8])) = some (0x31#8, withTake 0#8 (ask [0#8, 0#8])) ∧
      (withTake 0#8 (ask [0#8, 0#8])).fields.length ≠ 4 ∧
      requestOf (.poll (ask [0#8])) = some (0x01#8, ask [0#8]) ∧ (ask [0#8]).fields.length ≠ 0 ∧
      requestOf (.planLoad (ask [])) = some (0x10#8, ask []) ∧ requestOf (.profileLoad (ask [])) = some (0x11#8, ask []) := by
  decide +kernel

theorem witness_RequestsIgnored :
    (tray.withLine { tray.line with driving := true }).line.driving = true ∧ (requestOf (.poll (ask []))).isSome ∧
      (tray.withLine { tray.line with restartDue := true }).line.restartDue = true ∧ tray.line.deaf = false ∧
      (callAll [0#8, 0#8, 0#8]).broadcast = true ∧ (callAll [0#8, 0#8, 0#8]).fields.length = 3 := by decide +kernel

theorem witness_ReplySentAndTrayTime : (after (.poll (ask [])) tray).line.driving = true ∧ tray.line.time ≤ 4294967295 := by
  decide +kernel

/-- At tray addresses 31 and 1, addressed and broadcast, with the longest body and one of no fields. -/
theorem witness_FramedRequestTaken :
    let one := tray.withLine { tray.line with address := 1 }
    let long := Instr.budgetSet (ask (List.replicate 248 0#8))
    tray.line.deaf = false ∧ tray.line.held = [] ∧ tray.line.address = 31 ∧ one.line.deaf = false ∧ one.line.address = 1 ∧
      long.wf = true ∧ (requestOf long).isSome ∧ (Instr.trayRestart (callAll [])).wf = true ∧
      requestOf (.trayRestart (callAll [])) = some (0x03#8, callAll []) := by decide +kernel

/-- A frame for another tray of the shortest body, one with a wrong CRC, and the two length bytes beside the range. -/
theorem witness_FrameDiscardedWhole :
    tray.line.deaf = false ∧ tray.line.held = [] ∧
      (∀ b ∈ [(5#8 : Byte), BitVec.ofNat 8 [1#8, 1#8].length] ++ [1#8, 1#8] ++ [0#8, 0#8], b ≠ 0xC5#8) ∧
      ((5#8 : Byte) ≠ 0#8 ∧ (5#8 : Byte).toNat ≠ tray.line.address) ∧
      [0#8, 0#8] ≠ crcBytes ([(31#8 : Byte), BitVec.ofNat 8 [1#8, 1#8].length] ++ [1#8, 1#8]) ∧
      (1#8 : Byte).toNat < 2 ∧ 250 < (251#8 : Byte).toNat ∧ (251#8 : Byte) ≠ 0xC5#8 := by decide +kernel

/-- A full queue and one with room, both without the key; and an entry to merge into whose count is at its top. -/
theorem witness_RaiseMergesAppendsOrDrops :
    let full := (List.range 24).map fun k => notice k .slotSeated
    let top := { notice 9 .slotSeated with count := 255 }
    full.length = 24 ∧ (∀ n ∈ full, ¬ (n.subject = 24 ∧ n.detail.code = Detail.slotSeated.code)) ∧
      (full.drop 1).length < 24 ∧
      (tray.withLine { tray.line with notices := [notice 3 .slotSeated, top] }).line.notices = [notice 3 .slotSeated] ++ top :: [] ∧
      (∀ m ∈ [notice 3 .slotSeated], ¬ (m.subject = 9 ∧ m.detail.code = Detail.slotSeated.code)) ∧ top.subject = 9 := by
  decide +kernel

theorem witness_AddressAndRateHold :
    let s : State := { tray with pending := [.trayTimeTick] }
    step s = .next (stepped s) ∧ ∀ (a : BitVec 5) (r : RateStrap) rest, s.pending ≠ .powerOnReset a r :: rest := by
  refine ⟨step_stepped _, fun a r rest h => ?_⟩
  cases h

theorem witness_SettingsChangeOnlyByTheirCommands :
    exec (.linkBeat 9) tray = .next (after (.linkBeat 9) tray) ∧ (∀ a r, Instr.linkBeat 9 ≠ .powerOnReset a r) ∧
      (∀ chars, Instr.linkBeat 9 ≠ .frameDiscarded chars) := by
  refine ⟨exec_after _ _, fun _ _ h => ?_, fun _ h => ?_⟩ <;> cases h

theorem witness_RunEventsLeaveTheRest : ∃ r, Instr.completion 9 .unreadable = .completion 9 r := ⟨_, rfl⟩

/-! ### Witnesses: the laws -/

/-- A slot that holds two buffers, the most it may. -/
def holding : State :=
  let k : Chunk := { first := 0, count := 128, band := 0 }
  let h : InHand := { lending := 0, chunk := k, use := .filling, again := false, data := [] }
  let x := runSlot 3
  (trayWith 9 { x with sweep := { x.sweep with hand := [h, { h with lending := 1 }] } }).withPool { tray.pool with free := 22 }

theorem witness_BufferLawKept : BufferLaw holding ∧ step holding = .next (stepped holding) := by
  refine ⟨?_, step_stepped _⟩
  unfold BufferLaw
  decide +kernel

/-- A queue of 24 entries, one of which is counted to the top. -/
def noticed : State :=
  tray.withLine { tray.line with
    notices := (List.range 24).map fun k => { notice k .slotSeated with count := if k = 3 then 255 else 1 } }

theorem witness_NoticeLawKept : NoticeLaw noticed ∧ step noticed = .next (stepped noticed) := by
  refine ⟨?_, step_stepped _⟩
  simp only [NoticeLaw, Notice.clashes]
  decide +kernel

/-- The tray committed to its whole budget, one slot on its way up. -/
def committed : State :=
  let s := trayWith 9 { runSlot 0 with state := .spinning, spun := false }
  s.withPower { s.power with budget := 80, limit := 1 }

theorem witness_PowerLawKept : PowerLaw committed ∧ committed.committed = committed.power.budget ∧
    step committed = .next (stepped committed) := by
  refine ⟨⟨by decide +kernel, by decide +kernel, ?_, ?_⟩, by decide +kernel, step_stepped _⟩
  · have h : ∀ p : Fin 4, ∀ x ∈ committed.planAt p, x.runCost ≤ x.spinCost := by decide +kernel
    exact fun p x hx => h p x hx
  · have h : ∀ p : Fin 4, ∀ x ∈ committed.stagingAt p, x.runCost ≤ x.spinCost := by decide +kernel
    exact fun p x hx => h p x hx

/-- One slot waits for a lot, another runs. -/
def waiting : State :=
  ((trayWith 9 (runSlot 3)).setSlot 12 { seatedSlot with state := .lotWait }).withLots { tray.lots with waiting := [12] }

theorem witness_RecordLawKept : RecordLaw waiting ∧ step waiting = .next (stepped waiting) := by
  refine ⟨⟨fun i => ?_, by decide +kernel⟩, step_stepped _⟩
  have h : ∀ i : Fin 16, ((waiting.slot i).seated = true ↔ (waiting.slot i).state ≠ .empty) ∧
      ((waiting.slot i).state.poweredYes = true → (waiting.slot i).powered = true) ∧
      ((waiting.slot i).state.poweredNo = true → (waiting.slot i).powered = false) ∧
      ((waiting.slot i).spun = true → (waiting.slot i).powered = true) := by decide +kernel
  exact ⟨(h i).1, (h i).2.1, (h i).2.2.1, (h i).2.2.2⟩

/-- Zone 0 in SOAK at full demand, its allowance and commitment at the whole heater cost. -/
def heated : State :=
  tray.setZone 0 { Zone.reset with
    state := .soak, temp := some 160, fine := 9600, inBand := true, noticed := true, demand := 100, applied := 100, commit := 150
    allowance := 150 }

theorem zone_sound {cost : Nat} {z : Zone} (hs : (100 ≤ z.set.setpoint ∧ z.set.setpoint ≤ 340) ∧
    (4 ≤ z.set.rate ∧ z.set.rate ≤ 80) ∧ (4 ≤ z.set.band ∧ z.set.band ≤ 20) ∧ (8 ≤ z.set.margin ∧ z.set.margin ≤ 60) ∧
    (1 ≤ z.set.kp ∧ z.set.kp ≤ 25) ∧ (1 ≤ z.set.kf ∧ z.set.kf ≤ 25) ∧ 20 ≤ z.set.fanMin ∧ z.set.fanMin ≤ 100)
    (hz : (∀ t ∈ z.temp, -160 ≤ t ∧ t ≤ 600) ∧ z.miss ≤ 3 ∧ (-9600 ≤ z.fine ∧ z.fine ≤ 36000) ∧
      (z.reason = .none ↔ z.state ≠ .fault) ∧ (z.state = .ramp ∨ z.state = .soak → z.temp.isSome = true) ∧
      (z.inBand = true → z.state = .soak) ∧ z.demand ≤ 100 ∧ z.applied ≤ z.demand ∧ z.fan ≤ 100 ∧ z.commit ≤ cost ∧
      (z.state = .off ∨ z.state = .cool ∨ z.state = .fault → z.demand = 0 ∧ z.applied = 0 ∧ z.commit = 0)) : z.Sound cost :=
  ⟨⟨hs.1, hs.2.1, hs.2.2.1, hs.2.2.2.1, hs.2.2.2.2.1, hs.2.2.2.2.2.1, hs.2.2.2.2.2.2⟩, hz.1, hz.2.1, hz.2.2.1, hz.2.2.2.1,
    hz.2.2.2.2.1, hz.2.2.2.2.2.1, hz.2.2.2.2.2.2.1, hz.2.2.2.2.2.2.2.1, hz.2.2.2.2.2.2.2.2.1, hz.2.2.2.2.2.2.2.2.2.1,
    hz.2.2.2.2.2.2.2.2.2.2⟩

theorem witness_ZoneLawKept : ZoneLaw heated ∧ step heated = .next (stepped heated) := by
  refine ⟨⟨by decide +kernel, fun z => zone_sound ?_ ?_⟩, step_stepped _⟩
  · revert z; decide +kernel
  · revert z; decide +kernel

/-- A full manifest, a FULL lot and an OPEN one of another key, and the next number at its top. -/
def lotted : State :=
  tray.withLots
    { manifest := (List.range 8).map fun k => lot (k + 1) []
      full := [lot 9 [member 8, member 9]], opens := [{ lot 10 [member 10] with bin := .A }], next := 65535, waiting := [] }

theorem witness_LotLawKept : LotLaw lotted ∧ step lotted = .next (stepped lotted) := by
  have capacity : ∀ p : Fin 4, ∀ f ∈ lotted.profileAt p, 1 ≤ f.lotCapacity := by decide +kernel
  refine ⟨?_, step_stepped _⟩
  constructor
  case capacity => exact fun p f => capacity p f
  case manifest => unfold ManifestLaw; decide +kernel
  all_goals decide +kernel

theorem plan_header : plan.HeaderSound := by constructor <;> decide

theorem plan_steps : ∀ st ∈ plan.steps, st.Sound := by
  have hs : sweepFields.Sound := by constructor <;> decide
  have hk : seekFields.Sound := by constructor <;> decide
  intro st h
  simp only [plan, List.mem_cons, List.not_mem_nil, or_false] at h
  rcases h with rfl | rfl | rfl | rfl | rfl | rfl | rfl | rfl | rfl | rfl
  · exact trivial
  · exact trivial
  · exact trivial
  · exact hs
  · exact hs
  · exact hs
  · exact hk
  · exact ⟨by decide, by decide⟩
  · exact ⟨by decide, by decide, by decide⟩
  · exact trivial

theorem profile_sound : profile.Sound := by
  have h : ∀ b : Bin, ∀ e ∈ profile.entry b, e.dmax ≤ 8608800 ∧ e.umax ≤ 4095 ∧ e.wmax ≤ 4095 := by
    intro b; cases b <;> decide
  exact ⟨by decide, by decide, by decide, by decide, fun b e he => h b e he⟩

theorem witness_StoreLawKept : StoreLaw tray ∧ step tray = .next (stepped tray) := by
  have hp : ∀ p : Fin 4, ∀ x ∈ tray.planAt p, x = plan := by decide +kernel
  have hs : ∀ p : Fin 4, tray.stagingAt p = none := by decide +kernel
  have hf : ∀ p : Fin 4, ∀ f ∈ tray.profileAt p, f = profile := by decide +kernel
  refine ⟨⟨fun p x hx => ?_, fun p x hx => ?_, fun p f hx => ?_⟩, step_stepped _⟩
  · rw [hp p x hx]
    exact ⟨plan_header, plan_steps, by decide, by decide, by decide +kernel⟩
  · rw [hs p] at hx; cases hx
  · rw [hf p f hx]; exact profile_sound

/-- The timers of a slot. -/
def timersOf (x : Slot) : List (Option Nat) := [x.window, x.silence, x.op.timer, x.op.offTimer, x.exec.timer, x.sweep.pacing]

/-- No timer of a slot stands below 2. -/
theorem timers_from {x : Slot} (h : ∀ t ∈ timersOf x, ∀ k ∈ t, 2 ≤ k) : x.TimersFrom 2 := by
  intro k hk
  rcases hk with hk | hk | hk | hk | hk | hk <;> exact h _ (by simp [timersOf]) k hk

/-- Slot 9 in a sweep, its timers running, the step timer and the pacing timer at the values said. -/
def ticking (timer pacing : Nat) : Slot :=
  let x := runSlot 5
  { x with
    op := { x.op with tag := 57#8, outstanding := some (.read theChunk), timer := some 100 }
    exec := { x.exec with timer := some timer }
    sweep := { Sweep.started (.readSweep sweepFields false) 78140160 512 with hand := [inFlight], pacing := some pacing } }

/-- Each timer of slot 9 about to end, every other timer of the tray at 2 at least. -/
theorem witness_IdleTickCounts_ends :
    let x := ticking 2 2
    let cold := { x with state := .cycling, op := { x.op with timer := none, offTimer := some 1 } }
    (trayWith 9 x).pending = [] ∧ StoreLaw (trayWith 9 x) ∧ (∀ j : Fin 16, j ≠ 9 → ((trayWith 9 x).slot j).TimersFrom 2) ∧
      ((trayWith 9 x).planOf 9).isSome = true ∧ (trayWith 9 (ticking 1 2)).mayWork 9 = true ∧
      (trayWith 9 (ticking 2 1)).mayWork 9 = true ∧ cold.op.offTimer = some 1 ∧
      Slot.TimersFrom 2 { x with window := none } ∧ Slot.TimersFrom 2 { x with silence := none } ∧
      Slot.TimersFrom 2 { x with op := { x.op with timer := none } } ∧
      Slot.TimersFrom 2 { cold with op := { cold.op with offTimer := none } } ∧
      Slot.TimersFrom 2 { ticking 1 2 with exec := { x.exec with timer := none } } ∧
      Slot.TimersFrom 2 { ticking 2 1 with sweep := { x.sweep with pacing := none } } := by
  intro x cold
  have others : ∀ j : Fin 16, j ≠ 9 → ∀ t ∈ timersOf ((trayWith 9 x).slot j), ∀ k ∈ t, 2 ≤ k := by decide +kernel
  have run : ((trayWith 9 x).planOf 9).isSome = true ∧ (trayWith 9 (ticking 1 2)).mayWork 9 = true ∧
      (trayWith 9 (ticking 2 1)).mayWork 9 = true ∧ cold.op.offTimer = some 1 := by decide +kernel
  refine ⟨rfl, witness_StoreLawKept.1, fun j hj => timers_from (others j hj), run.1, run.2.1, run.2.2.1, run.2.2.2, ?_⟩
  repeat' constructor
  all_goals exact timers_from (by decide +kernel)

/-- A drive's serial, one for each number. -/
def serialOf (k : Nat) : List Byte := List.replicate 20 (BitVec.ofNat 8 k)

/-- A full manifest, a FULL lot of slots 8 and 9, the drive of slot 8 still in it, and slots 12 and 13 that wait behind it. -/
def awaiting : State :=
  let waits := fun k => { seatedSlot with
    state := .lotWait, profile := some 1, outcome := some (.bin .C), identity := some { identity with serial := serialOf k } }
  let graded := { waits 8 with state := .done, lotNumber := some 9 }
  (((trayWith 12 (waits 12)).setSlot 13 (waits 13)).setSlot 8 graded).withLots
    { manifest := (List.range 8).map fun k => lot (k + 1) []
      full := [lot 9 [{ member 8 with serial := serialOf 8 }, { member 9 with serial := serialOf 9 }]]
      opens := [{ lot 10 [{ member 10 with serial := serialOf 10 }] with bin := .A }], next := 65535, waiting := [12, 13] }

theorem awaiting_lots : LotLaw awaiting := by
  have capacity : ∀ p : Fin 4, ∀ f ∈ awaiting.profileAt p, 1 ≤ f.lotCapacity := by decide +kernel
  constructor
  case capacity => exact fun p f => capacity p f
  case manifest => unfold ManifestLaw; decide +kernel
  all_goals decide +kernel

theorem awaiting_waits : LotWaitLaw awaiting := by
  refine ⟨by decide +kernel, by decide +kernel, fun i hi => ?_, by decide +kernel⟩
  have h : ∀ j ∈ awaiting.lots.waiting, (awaiting.slot j).identity.isSome = true ∧ (awaiting.slot j).profile = some 1 ∧
      (awaiting.slot j).outcome = some (.bin .C) ∧ (awaiting.lots.fullLot 1 .C).isSome = true := by decide +kernel
  exact ⟨(h i hi).1, 1, .C, (h i hi).2⟩

theorem awaiting_serials : SerialLaw awaiting := ⟨by decide +kernel, by decide +kernel, by decide +kernel⟩

theorem witness_LotWaitAndSerialLawsKept : LotLaw awaiting ∧ RecordLaw awaiting ∧ LotWaitLaw awaiting ∧ SerialLaw awaiting ∧
    step awaiting = .next (stepped awaiting) := by
  refine ⟨awaiting_lots, ⟨fun i => ?_, by decide +kernel⟩, awaiting_waits, awaiting_serials, step_stepped _⟩
  have h : ∀ i : Fin 16, ((awaiting.slot i).seated = true ↔ (awaiting.slot i).state ≠ .empty) ∧
      ((awaiting.slot i).state.poweredYes = true → (awaiting.slot i).powered = true) ∧
      ((awaiting.slot i).state.poweredNo = true → (awaiting.slot i).powered = false) ∧
      ((awaiting.slot i).spun = true → (awaiting.slot i).powered = true) := by decide +kernel
  exact ⟨(h i).1, (h i).2.1, (h i).2.2.1, (h i).2.2.2⟩

/-! ### Witnesses: slots -/

/-- Both clauses: a window that ends with a drive, and one that does not run. -/
theorem witness_SeatedTaken :
    let x := ((trayWith 9 { Slot.reset with raw := true, window := some 1 }).slot 9)
    x.window.isSome = true ∧ x.raw = true ∧ x.seated = false ∧ (tray.slot 9).window = none := by decide +kernel

theorem witness_UnseatedTaken :
    let x := ((trayWith 9 { runSlot 3 with raw := false, window := some 1 }).slot 9)
    x.window.isSome = true ∧ x.raw = false ∧ x.seated = true := by decide +kernel

/-- A slot in a run and one that is not, each with its silence timer running. -/
theorem witness_LinkLossActs :
    ((trayWith 9 (runSlot 3)).slot 9).silence.isSome = true ∧
      ((trayWith 9 (runSlot 3)).slot 9).state ∈ [SlotState.waitPower, .spinning, .active, .recovering, .cycling] ∧
      ((trayWith 9 seatedSlot).slot 9).silence.isSome = true ∧
      ((trayWith 9 seatedSlot).slot 9).state ∈ [SlotState.empty, .seated, .lotWait, .done, .faulted] := by decide +kernel

/-- A slot SEATED, and the last slot DONE with REJECT. -/
theorem witness_SlotStartAccepted :
    let s := (trayWith 0 seatedSlot).setSlot 15 { seatedSlot with state := .done, outcome := some .reject }
    s.line.deaf = false ∧ (s.slot 0).state = .seated ∧ (s.slot 0).linkUp = true ∧ (s.slot 15).state = .done ∧
      (s.slot 15).outcome = some .reject ∧ (s.slot 15).linkUp = true ∧ s.planAt 0 = some plan ∧
      (s.profileAt 1).isSome = true := by decide +kernel

/-- Each check at the least value that fails it: slot 16, plan 4, profile 4, an empty slot, an empty plan position. -/
theorem witness_SlotStartRefused :
    let s := trayWith 9 seatedSlot
    s.line.deaf = false ∧ 16 ≤ (16#8 : Byte).toNat ∧ (15#8 : Byte).toNat < 16 ∧ 4 ≤ (4#8 : Byte).toNat ∧
      (3#8 : Byte).toNat < 4 ∧ (s.slot 15).state ∉ [SlotState.seated, .done] ∧ (s.slot 9).state = .seated ∧
      (s.slot 9).linkUp = true ∧ s.planAt 3 = none ∧
      ((trayWith 9 { seatedSlot with linkUp := false }).slot 9).linkUp = false := by decide +kernel

theorem witness_SlotHoldAndRelease :
    let s := (trayWith 15 (runSlot 3)).setZone 3 { Zone.reset with state := .fault, reason := .over }
    s.line.deaf = false ∧ (ask [15#8]).fields = [BitVec.ofNat 8 (15 : Fin 16).val] ∧ 16 ≤ (16#8 : Byte).toNat ∧ (s.slot 15).state ≠ .waitPower ∧
      (s.zone (zoneOf 15)).state = .fault := by decide +kernel

/-- A slot in ACTIVE at a step of the plan as each case of `Resumes` finds it: in WAITING, with STANDBY interrupted, with nothing
issued, with an operation in flight, and in a SEEK SWEEP. -/
def paused : List Slot :=
  let at_ := runSlot
  [{ at_ 2 with exec := { (at_ 2).exec with phase := .waiting } }, { at_ 9 with op := { (at_ 9).op with interrupted := some .standby } },
    at_ 1, { at_ 1 with op := { (at_ 1).op with outstanding := some .ident } },
    { at_ 6 with sweep := Sweep.started (.seekSweep { seekFields with pacing := .drive }) 78140160 512 }]

theorem resumes_cases : ∀ x ∈ paused, x.state = .active ∧ (trayWith 9 { x with held := true }).planOf 9 = some plan ∧
    ((trayWith 9 x).zone (zoneOf 9)).state ≠ .fault := by decide +kernel

/-- A held slot in each case of `Resumes`, under no zone fault. -/
theorem witness_SlotHoldAndRelease_resumes :
    let v := fun k => (paused.getD k Slot.reset)
    ((v 0).exec.phase = .waiting ∧ (v 0).spun = true ∧ plan.steps[(v 0).exec.index]? = some .health) ∧
      ((v 1).exec.phase = .working ∧ (v 1).sweep.step = none ∧ (v 1).op.outstanding = none ∧
        (v 1).op.interrupted = some .standby) ∧
      ((v 2).exec.phase = .working ∧ (v 2).sweep.step = none ∧ (v 2).op.outstanding = none ∧ (v 2).op.interrupted = none ∧
        plan.steps[(v 2).exec.index]? = some .ident) ∧
      ((v 3).exec.phase = .working ∧ (v 3).sweep.step = none ∧ (v 3).op.outstanding.isSome = true) ∧
      (v 4).exec.phase = .working ∧ (v 4).sweep.step = some (.seekSweep { seekFields with pacing := .drive }) ∧
      (v 4).op.outstanding = none ∧ (v 4).op.interrupted = none ∧ (v 4).sweep.lowNext = true ∧
      (v 4).sweep.lo ≤ (v 4).sweep.hi ∧ 0 < (v 4).sweep.grid := by decide +kernel

/-- A slot in LOT_WAIT, one in a run, and one in neither. -/
theorem witness_SlotAbortEndsTheRun :
    let runs := [SlotState.waitPower, .spinning, .active, .recovering, .cycling, .lotWait]
    tray.line.deaf = false ∧ (ask [15#8]).fields = [BitVec.ofNat 8 (15 : Fin 16).val] ∧ 16 ≤ (16#8 : Byte).toNat ∧
      (waiting.slot 12).state ∈ runs ∧
      (waiting.slot 9).state ∈ runs ∧ (waiting.slot 15).state ∈ [SlotState.empty, .seated, .done, .faulted] := by decide +kernel

/-! ### Witnesses: power -/

/-- Slot 9 alone waits for power, in a tray of some budget and limit. -/
def hopeful (budget limit : Nat) : State :=
  let s := trayWith 9 { runSlot 0 with state := .waitPower, powered := false, spun := false }
  s.withPower { s.power with budget := budget, limit := limit }

/-- Each clause: no place, no candidate, a candidate that fits exactly, and one that is 1 PU short; and a plan to grant by. -/
theorem witness_AdmissionEvaluation :
    (hopeful 80 0).power.limit ≤ (hopeful 80 0).spinCount ∧ (hopeful 80 1).spinCount < (hopeful 80 1).power.limit ∧
      tray.spinCount < tray.power.limit ∧
      (∀ i : Fin 16, (tray.slot i).state = .waitPower → (tray.slot i).held = true) ∧
      ((hopeful 80 1).slot 9).state = .waitPower ∧ ((hopeful 80 1).slot 9).held = false ∧
      (∀ j : Fin 16, ((hopeful 80 1).slot j).state = .waitPower → ((hopeful 80 1).slot j).held = false →
        (9 - (hopeful 80 1).power.pointer - 1).val ≤ (j - (hopeful 80 1).power.pointer - 1).val) ∧
      (hopeful 80 1).committed + ((hopeful 80 1).spinCost 9 - (hopeful 80 1).driveCommit 9) ≤ (hopeful 80 1).power.budget ∧
      (hopeful 79 1).power.budget < (hopeful 79 1).committed + ((hopeful 79 1).spinCost 9 - (hopeful 79 1).driveCommit 9) ∧
      (hopeful 79 1).spinCount < (hopeful 79 1).power.limit ∧ (hopeful 79 1).planOf 9 = some plan := by decide +kernel

/-- Beside drive commitments of 80 PU and one slot on its way up: a budget of 79 PU is refused and one of 80 PU taken, with the
limit at its least. -/
theorem witness_BudgetSetTakenOrRefused :
    let s := committed
    let low := le 2 79 ++ le 1 1 ++ List.replicate 8 255#8
    let just := le 2 80 ++ le 1 0 ++ List.replicate 8 0#8
    s.line.deaf = false ∧ low.length = 11 ∧ just.length = 11 ∧ min 2000 (fieldAt low 0 2) < s.driveTotal ∧
      s.driveTotal ≤ min 2000 (fieldAt just 0 2) ∧ s.spinCount ≤ max 1 (min 8 (fieldAt just 2 1)) := by decide +kernel

/-! ### Witnesses: loading -/

/-- A first part with the steps of the plan, and a part of one step behind 31 staged. -/
def staged : State :=
  { tray with staging := (Vector.replicate 4 none).set 3 (some { plan with steps := List.replicate 31 .spin }) }

theorem witness_PlanPartStaged :
    tray.line.deaf = false ∧ (∀ st ∈ plan.steps, st.Sound) ∧ plan.steps.length ≤ 12 ∧ plan.HeaderSound ∧
      staged.stagingAt 3 = some { plan with steps := List.replicate 31 .spin } ∧ staged.line.deaf = false ∧
      (∀ st ∈ [Step.standby], st.Sound) ∧ 31 + [Step.standby].length ≤ 32 := by
  refine ⟨rfl, plan_steps, by decide, plan_header, by decide +kernel, rfl, fun st h => ?_, by decide⟩
  simp only [List.mem_singleton] at h
  rw [h]
  exact trivial

/-- A header of 0 name bytes and of a length past 16; an entry of each kind that uses no byte, the others at 255; an entry of each kind with fields to clamp, its named values at their first and their last;
behind 31 steps. -/
theorem witness_PlanPartStaged_clamped :
    let low := 0#8 :: List.replicate 34 0#8
    let high := 17#8 :: List.replicate 34 255#8
    let bare := fun k : Byte => k :: List.replicate 15 255#8
    let first := fun k : Byte => k :: List.replicate 15 0#8
    let last := fun k : Byte => k :: le 2 1001 ++ le 2 65535 ++ [129#8, 3#8, 1#8] ++ le 2 1001 ++ [3#8, 1#8, 1#8] ++ le 3 604801
    let seek := 6#8 :: le 2 1001 ++ le 2 65535 ++ le 4 1000001 ++ le 2 1001 ++ [1#8] ++ le 2 1001 ++ [0#8, 0#8]
    (low.length = 35 ∧ fieldAt low 0 1 = 0) ∧ (high.length = 35 ∧ fieldAt high 0 1 = 17) ∧
      (∀ k ∈ [1#8, 2#8, 3#8, 8#8], (bare k).length = 16 ∧ fieldAt (bare k) 0 1 = k.toNat) ∧
      (∀ k : Byte, (first k).length = 16 ∧ (last k).length = 16) ∧ seek.length = 16 ∧ fieldAt (first 7#8) 0 1 = 7 ∧
      fieldAt (first 9#8) 0 1 = 9 ∧ fieldAt seek 0 1 = 6 ∧ fieldAt seek 11 1 = Pacing.tick.code.toNat ∧
      fieldAt (first 4#8) 0 1 = 4 ∧ fieldAt (first 4#8) 6 1 = Direction.ascending.code.toNat ∧
      fieldAt (first 4#8) 7 1 = Pacing.drive.code.toNat ∧ fieldAt (first 4#8) 10 1 = Pattern.zero.code.toNat ∧
      fieldAt (first 4#8) 11 1 = false.toNat ∧ fieldAt (last 5#8) 0 1 = 5 ∧
      fieldAt (last 5#8) 6 1 = Direction.butterfly.code.toNat ∧ fieldAt (last 5#8) 7 1 = Pacing.tick.code.toNat ∧
      fieldAt (last 5#8) 10 1 = Pattern.random.code.toNat ∧ fieldAt (last 5#8) 11 1 = true.toNat ∧
      fieldAt (last 5#8) 12 1 = true.toNat ∧ 1 ≤ (List.replicate 31 Step.spin).length ∧
      (List.replicate 31 Step.spin).length ≤ 31 := by
  refine ⟨by decide +kernel, by decide +kernel, by decide +kernel, fun k => ⟨rfl, rfl⟩, ?_⟩
  decide +kernel

/-- A sound plan whose position no slot uses, the same beside a slot that uses it, and a plan that validation refuses. -/
theorem witness_PlanInstalledAsSent :
    tray.line.deaf = false ∧ plan.HeaderSound ∧ (∀ st ∈ plan.steps, st.Sound) ∧ plan.steps.length ≤ 12 ∧ plan.invalid = none ∧
      (∀ i : Fin 16, (tray.slot i).plan = some 3 → (tray.slot i).state ∈ [SlotState.empty, .seated, .done, .faulted]) ∧
      ((trayWith 9 (runSlot 3)).slot 9).plan = some 0 ∧ ((trayWith 9 (runSlot 3)).slot 9).state = .active ∧
      { plan with steps := [] }.HeaderSound ∧ ({ plan with steps := [] } : Plan).invalid = some 0 := by
  have bare : { plan with steps := [] }.HeaderSound := by constructor <;> decide
  have rest : plan.steps.length ≤ 12 ∧ plan.invalid = none ∧
      (∀ i : Fin 16, (tray.slot i).plan = some 3 → (tray.slot i).state ∈ [SlotState.empty, .seated, .done, .faulted]) ∧
      ((trayWith 9 (runSlot 3)).slot 9).plan = some 0 ∧ ((trayWith 9 (runSlot 3)).slot 9).state = .active ∧
      ({ plan with steps := [] } : Plan).invalid = some 0 := by decide +kernel
  exact ⟨rfl, plan_header, plan_steps, rest.1, rest.2.1, rest.2.2.1, rest.2.2.2.1, rest.2.2.2.2.1, bare, rest.2.2.2.2.2⟩

/-- Behind SPIN and IDENT a last part that passes, one with a REPEAT that names itself, and none; the position unused and in use. -/
theorem witness_PlanInstalledAsSent_behind :
    let image := { plan with steps := [.spin, .ident] }
    let whole := fun steps : List Step => { image with steps := image.steps ++ steps }
    let held := fun s : State => s.setStaging 0 (some image)
    (held tray).line.deaf = false ∧ (held tray).stagingAt 0 = some image ∧ 1 ≤ image.steps.length ∧ image.steps.length ≤ 31 ∧
      image.steps.length + [Step.standby].length ≤ 32 ∧ (whole [.standby]).invalid = none ∧ (whole []).invalid = none ∧
      (whole [.repeatTo 2 1]).invalid = some 2 ∧
      (∀ i : Fin 16, ((held tray).slot i).plan = some 0 → ((held tray).slot i).state = .empty) ∧
      ((held (trayWith 9 (runSlot 3))).slot 9).plan = some 0 ∧ ((held (trayWith 9 (runSlot 3))).slot 9).state = .active := by
  decide +kernel

/-- Parts refused, each at the least that fails its check: id 4; no index, a mark of 2, a first part one byte short, a later part
of half an entry; behind 31 steps an index of 30, and two entries; and behind a sound entry one of kind 0, and of each named value
past its last. -/
theorem witness_PlanInstalledAsSent_refused :
    let later := fun (k mark : Byte) (e : List Byte) => [3#8, k, mark] ++ e
    let entry := fun b : List Byte => padTo 16 b
    let one := later 0#8 0#8 (List.replicate 35 0#8 ++ (entry [1#8] ++ entry [0#8]))
    4 ≤ fieldAt [4#8] 0 1 ∧ fieldAt [3#8] 0 1 < 4 ∧ [3#8].length < 3 ∧ 1 < fieldAt (later 0#8 2#8 []) 2 1 ∧
      (∀ n, n ≤ 12 → (later 0#8 0#8 (List.replicate 34 0#8)).length ≠ 38 + 16 * n) ∧
      (fieldAt (later 1#8 0#8 (List.replicate 8 0#8)) 1 1 ≠ 0 ∧
        ∀ n, n ≤ 12 → (later 1#8 0#8 (List.replicate 8 0#8)).length ≠ 3 + 16 * n) ∧
      (fieldAt (later 30#8 1#8 []) 1 1 = 30 ∧ fieldAt (later 30#8 1#8 []) 2 1 ≤ 1 ∧
        ∀ x, staged.stagingAt 3 = some x → x.steps.length ≠ 30) ∧
      (later 31#8 1#8 (entry [1#8] ++ entry [1#8])).length = 3 + 16 * 2 ∧ 32 < 31 + 2 ∧
      fieldAt one 1 1 = 0 ∧ one.length = 38 + 16 * 2 ∧
      one.drop 38 = [Step.spin].flatMap Step.bytes ++ entry [0#8] ++ [] ∧ fieldAt (entry [0#8]) 0 1 = 0 ∧
      9 < fieldAt (entry [10#8]) 0 1 ∧ 3 < fieldAt (entry [4#8, 0#8, 0#8, 0#8, 0#8, 0#8, 4#8]) 6 1 ∧
      1 < fieldAt (entry (5#8 :: List.replicate 11 0#8 ++ [2#8])) 12 1 ∧
      1 < fieldAt (entry (6#8 :: List.replicate 10 0#8 ++ [2#8])) 11 1 := by
  refine ⟨by decide, by decide, by decide, by decide, fun n _ => ?_, ⟨by decide, fun n _ => ?_⟩, ⟨by decide, by decide, ?_⟩, ?_⟩
  · simp; omega
  · simp; omega
  · decide +kernel
  · decide +kernel

/-- Profile bytes of one mark for each bin, the numeric fields at their least or their greatest. -/
def profileBytes (id : Byte) (fill : Byte) (marks : List Byte) : List Byte :=
  id :: List.replicate 15 fill ++ marks.flatMap fun m => m :: List.replicate 8 fill

/-- Fields below and above their ranges with marks of both values; profile 4, one byte short, and a mark of 2 in the last bin. -/
theorem witness_ProfileInstalledAsSent_bytes :
    (∀ fill ∈ [0#8, 255#8], (profileBytes 3#8 fill [0#8, 1#8, 0#8, 1#8]).length = 52 ∧
        fieldAt (profileBytes 3#8 fill [0#8, 1#8, 0#8, 1#8]) 0 1 = 3 ∧
        ∀ k : Fin 4, fieldAt (profileBytes 3#8 fill [0#8, 1#8, 0#8, 1#8]) (16 + 9 * k.val) 1 ≤ 1) ∧
      4 ≤ fieldAt (profileBytes 4#8 0#8 []) 0 1 ∧ ((profileBytes 3#8 0#8 [0#8, 0#8, 0#8, 0#8]).drop 1).length ≠ 52 ∧
      1 < fieldAt (profileBytes 3#8 0#8 [0#8, 1#8, 0#8, 2#8]) (16 + 9 * (3 : Fin 4).val) 1 ∧
      ∀ j : Fin 4, j < 3 → fieldAt (profileBytes 3#8 0#8 [0#8, 1#8, 0#8, 2#8]) (16 + 9 * j.val) 1 ≤ 1 := by decide +kernel

theorem witness_ProfileInstalledAsSent :
    tray.line.deaf = false ∧ profile.Sound ∧
      (∀ i : Fin 16, (tray.slot i).profile = some 3 → (tray.slot i).state ∈ [SlotState.empty, .seated, .done, .faulted]) ∧
      (∀ x ∈ tray.lots.opens ++ tray.lots.full, x.profile ≠ 3) ∧ ((trayWith 9 (runSlot 3)).slot 9).profile = some 1 ∧
      ((trayWith 9 (runSlot 3)).slot 9).state = .active ∧ ∃ x ∈ lotted.lots.opens ++ lotted.lots.full, x.profile = 1 :=
  ⟨rfl, profile_sound, by decide +kernel⟩

/-! ### Witnesses: zones -/

/-- A zone with a reading, one without, one in COOL, and one in FAULT; and one in SOAK. -/
theorem witness_ZoneSetRunAndStop :
    let s := (tray.setZone 0 { Zone.reset with temp := some 600 }).setZone 3 { Zone.reset with state := .fault, reason := .over }
    let s := s.setZone 2 { Zone.reset with state := .cool }
    s.line.deaf = false ∧ (s.zone 2).state = .cool ∧ (heated.zone 0).state ∈ [ZoneState.off, .ramp, .soak] ∧
      heated.line.deaf = false ∧ (s.zone 0).state ≠ .fault ∧ (s.zone 0).temp = some 600 ∧ (s.zone 1).temp = none ∧
      (s.zone 3).state = .fault ∧
      (ask (BitVec.ofNat 8 (3 : Fin 4).val :: List.replicate 7 0#8)).fields =
        [BitVec.ofNat 8 (3 : Fin 4).val, 0#8, 0#8, 0#8, 0#8, 0#8, 0#8, 0#8] := by decide +kernel

/-- A zone in FAULT just below the limit of the settings sent, and the same at the limit. -/
theorem witness_ZoneSetClear :
    let set := settingsOf 85#8 0#8 0#8 15#8 0#8 0#8 0#8
    let s := (tray.setZone 0 { Zone.reset with state := .fault, reason := .over, temp := some 379 }).setZone 3
      { Zone.reset with state := .fault, reason := .over, temp := some 380 }
    s.line.deaf = false ∧ (s.zone 0).state = .fault ∧ (s.zone 0).miss = 0 ∧ (s.zone 0).temp = some 379 ∧
      (379 : Int) < min ((set.setpoint : Int) + set.margin) 380 ∧ (s.zone 3).temp = some 380 ∧
      ¬ (380 : Int) < min ((set.setpoint : Int) + set.margin) 380 := by decide +kernel

/-- A slot of the cleared zone that goes on where it stood, the only one of its zone; the cases are those of a release. -/
theorem witness_ZoneSetClear_resumes :
    let s := (trayWith 9 (runSlot 1)).setZone 2 { Zone.reset with state := .fault, reason := .over, temp := some 379 }
    zoneOf 9 = 2 ∧ (s.zone 2).state = .fault ∧ (s.slot 9).state = .active ∧ (s.slot 9).held = false ∧ s.planOf 9 = some plan ∧
      (∀ j : Fin 16, zoneOf j = 2 → j ≠ 9 → (s.slot j).state ≠ .active ∨ (s.slot j).held = true) ∧
      ∀ j : Fin 16, zoneOf j = 3 → (s.slot j).state ≠ .active ∨ (s.slot j).held = true := by decide +kernel

theorem witness_SensorBusTakesTurns : tray.bus.reading = none ∧ (after .sensorReadStart tray).bus.reading.isSome = true := by
  decide +kernel

/-- A third miss; and a reading exactly at the limit. -/
theorem witness_ControlPeriodFaults :
    let s := tray.setZone 0 { Zone.reset with state := .soak, temp := some 160, miss := 2 }
    (s.zone 0).state ≠ .fault ∧ goodRead .late = none ∧ 2 ≤ (s.zone 0).miss ∧ goodRead (.word 0#8 180#8) = some 180 ∧
      min (((s.zone 0).set.setpoint : Int) + (s.zone 0).set.margin) 380 ≤ 180 := by decide +kernel

/-- OFF with a second miss, COOL with a reading just below the limit, and FAULT. -/
theorem witness_ControlPeriodUnheated :
    let s := ((tray.setZone 0 { Zone.reset with temp := some 160, miss := 1 }).setZone 1 { Zone.reset with state := .cool }).setZone 2
      { Zone.reset with state := .fault, reason := .over }
    goodRead .noAck = none ∧ (s.zone 0).miss < 2 ∧ (s.zone 0).state = .off ∧ (s.zone 1).state = .cool ∧
      (s.zone 2).state = .fault ∧ goodRead (.word 0#8 179#8) = some 179 ∧
      (179 : Int) < min (((s.zone 1).set.setpoint : Int) + (s.zone 1).set.margin) 380 := by decide +kernel

/-- Zone 2 in SOAK; slot 9 at a DWELL of 2 minutes with 118 s done. -/
def dwelling : State :=
  let x := runSlot 7
  (trayWith 9 { x with exec := { x.exec with dwell := 118 } }).setZone 2
    { Zone.reset with state := .soak, temp := some 160, fine := 9600, noticed := true }

/-- A second missed read, a good one just below the limit, and the DWELL one second from its end. -/
theorem witness_ControlPeriodHeated :
    (dwelling.zone 2).state = .soak ∧ goodRead .late = none ∧ (dwelling.zone 2).temp = some 160 ∧ (dwelling.zone 2).miss < 2 ∧
      goodRead (.word 0#8 179#8) = some 179 ∧
      (179 : Int) < min (((dwelling.zone 2).set.setpoint : Int) + (dwelling.zone 2).set.margin) 380 ∧
      ∀ i : Fin 16, zoneOf i = 2 → ∀ m, dwelling.stepAt i = some (.dwell m) → (dwelling.slot i).exec.dwell + 1 < m * 60 := by
  have read : (dwelling.zone 2).state = .soak ∧ goodRead .late = none ∧ (dwelling.zone 2).temp = some 160 ∧
      (dwelling.zone 2).miss < 2 ∧ goodRead (.word 0#8 179#8) = some 179 ∧
      (179 : Int) < min (((dwelling.zone 2).set.setpoint : Int) + (dwelling.zone 2).set.margin) 380 := by decide +kernel
  have dwells : ∀ i : Fin 16, zoneOf i = 2 → ∀ st ∈ dwelling.stepAt i, ∃ m, m < 3 ∧ st = .dwell m ∧
      (dwelling.slot i).exec.dwell + 1 < m * 60 := by decide +kernel
  refine ⟨read.1, read.2.1, read.2.2.1, read.2.2.2.1, read.2.2.2.2.1, read.2.2.2.2.2, fun i hi m hm => ?_⟩
  obtain ⟨k, -, hk, hd⟩ := dwells i hi _ hm
  cases hk
  exact hd

/-- Slot 9 at the second that ends a DWELL of 2 minutes, before a HEALTH step. -/
def dwelt : State :=
  let x := runSlot 7
  { trayWith 9 { x with exec := { x.exec with dwell := 119 } } with
    plans := tray.plans.set 0 (some { plan with steps := plan.steps.set 8 .health }) }

/-- The commands that meet a step end of slot 9: its SLOT HOLD, and the period that faults its zone (R62, R144). -/
def pauses : List Instr := [.slotHold (ask [9#8]), .controlPeriod 2 (.word 1#8 144#8)]

/-- No command waits; each pause does; and one of another slot and of another zone. -/
theorem witness_ControlPeriodHeated_meets :
    dwelt.pauseMeets 9 = false ∧ (∀ c ∈ pauses, ({ dwelt with pending := [c] } : State).pauseMeets 9 = true) ∧
      ∀ c ∈ [Instr.slotHold (ask [8#8]), .controlPeriod 1 (.word 1#8 144#8)],
        ({ dwelt with pending := [c] } : State).pauseMeets 9 = false := by decide +kernel

/-- R62: the credit taken first ends the DWELL, and the next step waits in WAITING; without the hold it begins. -/
theorem test_credit_meets_hold :
    let t := credit 9 { dwelt with pending := pauses }
    (t.slot 9).exec.phase = .waiting ∧ (t.slot 9).exec.index = 8 ∧ (t.slot 9).op.outstanding = none ∧
      ((credit 9 dwelt).slot 9).op.outstanding = some .health := by decide +kernel

theorem witness_ControlPeriodHeated_ends :
    let p := { plan with steps := plan.steps.set 8 .health }
    let s := dwelt
    (s.slot 9).state = .active ∧ (s.slot 9).held = false ∧ (s.zone (zoneOf 9)).state ≠ .fault ∧ s.planOf 9 = some p ∧
      (s.slot 9).exec.phase = .working ∧ (s.slot 9).spun = true ∧ p.steps[(s.slot 9).exec.index]? = some (.dwell 2) ∧
      2 * 60 ≤ (s.slot 9).exec.dwell + 1 ∧ p.steps[(s.slot 9).exec.index + 1]? = some .health := by decide +kernel

/-! ### Witnesses: lots and grading -/

/-- An empty manifest; and one of one lot, named, not named, named wrongly, its first member in range and past it. -/
theorem witness_LotTakeRemovesAndDrains :
    tray.line.deaf = false ∧ tray.lots.manifest = [] ∧ stocked.line.deaf = false ∧
      stocked.lots.manifest = lot 65535 [member 8, member 9] :: [] ∧ (65534 : Nat) ≠ (lot 65535 []).number ∧ (65535 : Nat) < 65536 ∧
      (lot 65535 [member 8, member 9]).members.length < 3 ∧ 2 ≤ (lot 65535 [member 8, member 9]).members.length ∧
      stocked.lots.waiting = [] := by decide +kernel

/-- From a full manifest, two slots waiting for the key of the head FULL lot, which fill the lot opened for them. -/
theorem witness_LotTakeRemovesAndDrains_waiting :
    awaiting.line.deaf = false ∧ LotLaw awaiting ∧ LotWaitLaw awaiting ∧
      awaiting.lots.manifest = lot 1 [] :: awaiting.lots.manifest.drop 1 ∧ (awaiting.lots.manifest.drop 1).length = 7 ∧
      (awaiting.lots.full.head?.map fun y => (y.profile, y.bin)) = some (1, .C) ∧
      (awaiting.lots.waiting.filter fun j => decide ((awaiting.slot j).profile = some 1) &&
        decide ((awaiting.slot j).outcome = some (.bin .C))).length = ((awaiting.profileAt 1).map Profile.lotCapacity).getD 1 :=
  ⟨rfl, awaiting_lots, awaiting_waits, by decide +kernel⟩

/-- No lot of the key, a FULL one, and an OPEN one beside a manifest of 8 and of 7; profile 4, and profile 3 with bin 4. -/
theorem witness_LotCloseMovesTheLot :
    let room := lotted.withLots { lotted.lots with manifest := lotted.lots.manifest.drop 1 }
    lotted.line.deaf = false ∧ lotted.lots.openLot 1 .D = none ∧ lotted.lots.fullLot 1 .D = none ∧
      (lotted.lots.fullLot 1 .C).isSome = true ∧
      lotted.lots.openLot 1 .A = some { lot 10 [member 10] with bin := .A } ∧ lotted.lots.fullLot 1 .A = none ∧
      8 ≤ lotted.lots.manifest.length ∧ room.lots.manifest.length < 8 ∧
      room.lots.openLot 1 .A = some { lot 10 [member 10] with bin := .A } ∧ 4 ≤ (4#8 : Byte).toNat ∧
      (3#8 : Byte).toNat < 4 := by decide +kernel

/-- A member of a FULL lot, whose slot still holds the drive; a serial in the manifest alone; and one in no lot. -/
def excludable : State :=
  let other : Member := { member 8 with serial := List.replicate 20 50#8 }
  (trayWith 9 { seatedSlot with
    state := .done, outcome := some (.bin .C), identity := some identity, lotNumber := some 9 }).withLots
    { tray.lots with manifest := [lot 8 [{ other with serial := List.replicate 20 49#8 }]], full := [lot 9 [other, member 9]] }

theorem witness_LotExcludeTakesTheMember :
    let other : Member := { member 8 with serial := List.replicate 20 50#8 }
    excludable.line.deaf = false ∧ serial.length = 20 ∧ (excludable.lots.all.map Lot.number).Nodup ∧
      (lot 9 [other, member 9]).members = [other] ++ member 9 :: [] ∧ (member 9).serial = serial ∧
      (∀ k ∈ [other], k.serial ≠ serial) ∧ excludable.lots.waiting = [] ∧
      (∀ o ∈ excludable.lots.opens, ¬ ∃ m ∈ o.members, m.serial = serial) ∧
      excludable.lots.full.find? (Lot.holds serial) = some (lot 9 [other, member 9]) ∧
      (excludable.slot 9).state = .done ∧ (excludable.slot 9).identity.map Identity.serial = some serial ∧
      (excludable.slot 9).lotNumber = some 9 ∧
      (∀ x ∈ excludable.lots.opens ++ excludable.lots.full, ¬ ∃ m ∈ x.members, m.serial = List.replicate 20 49#8) ∧
      (∃ x ∈ excludable.lots.manifest, ∃ m ∈ x.members, m.serial = List.replicate 20 49#8) ∧
      ∀ x ∈ excludable.lots.all, ¬ ∃ m ∈ x.members, m.serial = List.replicate 20 51#8 := by decide +kernel

/-- The drive of slot 8, still in it, out of a FULL lot of two; slot 12 joins, and slot 13 goes on waiting. -/
theorem witness_LotExcludeTakesTheMember_refill :
    let m : Member := { member 8 with serial := serialOf 8 }
    let other : Member := { member 9 with serial := serialOf 9 }
    LotLaw awaiting ∧ LotWaitLaw awaiting ∧ SerialLaw awaiting ∧ awaiting.line.deaf = false ∧ m.serial.length = 20 ∧
      (awaiting.lots.all.map Lot.number).Nodup ∧ lot 9 [m, other] ∈ awaiting.lots.full ∧
      (lot 9 [m, other]).members = [] ++ m :: [other] ∧
      (awaiting.slot 8).state = .done ∧ (awaiting.slot 8).identity.map Identity.serial = some m.serial ∧
      (awaiting.slot 8).lotNumber = some 9 ∧ 12 ∈ awaiting.lots.waiting ∧ (awaiting.slot 12).profile = some 1 ∧
      (awaiting.slot 12).outcome = some (.bin .C) ∧ (lot 9 [m, other]).capacity = ([] ++ [other]).length + 1 :=
  ⟨awaiting_lots, awaiting_waits, awaiting_serials, by decide +kernel⟩

/-- While slots 12 and 13 wait: a drive out of an OPEN lot, and one out of a FULL lot of a key no slot waits for. -/
theorem witness_LotExcludeTakesTheMember_others_wait :
    let m : Member := { member 10 with serial := serialOf 10 }
    let n : Member := { member 11 with serial := serialOf 11 }
    let x := { lot 11 [n] with bin := Bin.B }
    let s := awaiting.withLots { awaiting.lots with full := awaiting.lots.full ++ [x] }
    s.line.deaf = false ∧ (s.lots.all.map Lot.number).Nodup ∧ s.lots.waiting = [12, 13] ∧ m.serial.length = 20 ∧
      s.lots.opens.find? (Lot.holds m.serial) = some { lot 10 [m] with bin := .A } ∧
      (∀ o ∈ s.lots.opens, ¬ ∃ k ∈ o.members, k.serial = n.serial) ∧ s.lots.full.find? (Lot.holds n.serial) = some x ∧
      ∀ j ∈ s.lots.waiting, ¬ ((s.slot j).profile = some x.profile ∧ (s.slot j).outcome = some (.bin x.bin)) := by decide +kernel

/-- Behind a FULL lot; into an OPEN one that it fills; and with neither, where the next number is its top. -/
theorem witness_GradeReachesTheLots :
    lotted.lots.fullLot 1 .C = some (lot 9 [member 8, member 9]) ∧ lotted.lots.fullLot 1 .A = none ∧
      lotted.lots.openLot 1 .A = some { lot 10 [member 10] with bin := .A } ∧
      (2 : Nat) ≤ [member 10].length + 1 ∧ 8 ≤ lotted.lots.manifest.length ∧ lotted.lots.openLot 1 .D = none ∧
      lotted.lots.fullLot 1 .D = none ∧ lotted.lots.next ∉ lotted.lots.all.map Lot.number ∧ lotted.lots.all.length ≤ 24 ∧
      stocked.lots.manifest.length < 8 := by decide +kernel

/-- An identity with the exposure just reached, and one short by a second; and S at 0 and above it. -/
theorem witness_GraderFinds :
    let x := { runSlot 9 with acc := { accum with exposure := 28800 } }
    x.identity = some identity ∧ ¬ x.acc.exposure < plan.exposure * 60 ∧ x.acc.s ≠ 0 ∧
      ({ x.acc with exposure := 28799 } : Accum).exposure < plan.exposure * 60 ∧
      .readSweep sweepFields true ∈ plan.steps ∧ ({ x.acc with s := 0 } : Accum).s = 0 := by decide +kernel

/-- Slot 9 at the last step, HEALTH outstanding, with the accumulators said. -/
def ending (a : Accum) (retests : Nat) (id : Option Identity) : State :=
  let x := runSlot 2
  let p := { plan with steps := [.spin, .ident, .health] }
  { trayWith 9 { x with
      acc := a, retests := retests, identity := id, op := { x.op with tag := 57#8, outstanding := some .health } } with
    plans := tray.plans.set 0 (some p) }

/-- Plan end with each finding of the grader: a bin, none, no identity, a gate missed with a retest left, and with none. -/
theorem witness_GraderFinds_ends :
    let p := { plan with steps := [.spin, .ident, .health] }
    let found := fun s : State => judge p profile { s.slot 9 with acc := { (s.slot 9).acc with reallocEnd := some 26 } }
    let early := { accum with exposure := 28799 }
    let s := ending early 0 (some identity)
    s.planOf 9 = some p ∧ (s.slot 9).profile = some 1 ∧ s.profileAt 1 = some profile ∧ (s.slot 9).state = .active ∧
      (s.slot 9).op.outstanding = some .health ∧ (s.slot 9).op.tag = 57#8 ∧
      (done 57#8 (.health 26)).payload = .health 26 ∧ p.steps.length = (s.slot 9).exec.index + 1 ∧
      found s = .retest .exposure ∧ (s.slot 9).spun = true ∧ (s.slot 9).held = false ∧ (s.zone (zoneOf 9)).state ≠ .fault ∧
      p.steps[0]? = some .spin ∧ p.steps[1]? = some .ident ∧ found (ending early 1 (some identity)) = .incomplete ∧
      found (ending accum 0 none) = .incomplete ∧ found (ending accum 0 (some identity)) = .selected 2456 (some .C) ∧
      found (ending { accum with m := 99 } 0 (some identity)) = .selected 27701 none := by decide +kernel

theorem witness_GraderFinds_meets :
    let s := ending { accum with exposure := 28799 } 0 (some identity)
    s.pauseMeets 9 = false ∧ ∀ c ∈ pauses, ({ s with pending := [c] } : State).pauseMeets 9 = true := by decide +kernel

/-- R144: a retest that a SLOT HOLD meets passes SPIN and issues nothing further; the release lets the next step begin. -/
theorem test_retest_meets_hold :
    let s := ending { accum with exposure := 28799 } 0 (some identity)
    let t := after (.completion 9 (.record (done 57#8 (.health 26)))) { s with pending := pauses }
    let u := after (.slotRelease (ask [9#8])) (after .replySent (after (.slotHold (ask [9#8])) t))
    (t.slot 9).exec.phase = .waiting ∧ (t.slot 9).exec.index = 1 ∧ (t.slot 9).op.outstanding = none ∧
      (u.slot 9).op.outstanding = some .ident := by decide +kernel

/-! ### Witnesses: drive operations -/

/-- Slot 9 at a sweep step of the plan with an operation outstanding under tag 57, held as said, one chunk on its redo list. -/
def sweeping (index : Nat) (step : Step) (op : Op) (held : Bool) : State :=
  let x := runSlot index
  (trayWith 9 { x with
    held := held
    op := { x.op with tag := 57#8, outstanding := some op, timer := some 100 }
    sweep := { Sweep.started step 78140160 512 with redo := [theChunk], hand := [inFlight] } }).withPool
    { tray.pool with free := 23, lendings := 5 }

theorem witness_ChannelMatchedByTag :
    let s := sweeping 5 (.readSweep sweepFields false) (.read theChunk) false
    (s.slot 9).op.outstanding = some (.read theChunk) ∧ (57#8 : Byte) = (s.slot 9).op.tag ∧ (58#8 : Byte) ≠ (s.slot 9).op.tag ∧
      (tray.slot 9).op.outstanding = none := by decide +kernel

theorem witness_AbortedEndsThePlan :
    let s := sweeping 5 (.readSweep sweepFields false) (.read theChunk) false
    (s.slot 9).op.outstanding.isSome = true ∧ (57#8 : Byte) = (s.slot 9).op.tag ∧
      (s.slot 9).state ∈ [SlotState.spinning, .active, .recovering] := by decide +kernel

/-- Slot 9 spinning up at the first step, and at the IDENT step; and a tray where slot 3 holds the serial. -/
def spinning : State :=
  let x := { runSlot 0 with state := .spinning, spun := false }
  trayWith 9 { x with op := { x.op with tag := 57#8, outstanding := some .spin }, exec := { x.exec with phase := .spinUp } }

def identifying : State :=
  let x := { runSlot 1 with identity := none }
  trayWith 9 { x with op := { x.op with tag := 57#8, outstanding := some .ident } }

theorem witness_CompletionsAdvanceTheRun :
    spinning.planOf 9 = some plan ∧ (57#8 : Byte) = (spinning.slot 9).op.tag ∧ (spinning.slot 9).held = false ∧
      (spinning.zone (zoneOf 9)).state ≠ .fault ∧ (spinning.slot 9).op.outstanding = some .spin ∧
      plan.steps[0]? = some .spin ∧ plan.steps[1]? = some .ident ∧ plan.steps[2]? = some .health ∧
      identifying.planOf 9 = some plan ∧ (identifying.slot 9).op.outstanding = some .ident ∧
      (identifying.slot 9).state = .active ∧ (identifying.slot 9).spun = true ∧
      ((identifying.setSlot 3 { seatedSlot with identity := some identity }).slot 3).identity.map Identity.serial =
        some serial := by decide +kernel

/-- Slot 9 with an operation outstanding under tag 57 at an index of a plan of the steps said. -/
def working (steps : List Step) (index : Nat) (counter : Nat) (op : Op) : State :=
  let x := runSlot index
  { trayWith 9 { x with exec := { x.exec with counters := [counter] }, op := { x.op with tag := 57#8, outstanding := some op } } with
    plans := tray.plans.set 0 (some { plan with steps := steps }) }

/-- HEALTH before STANDBY, before a REPEAT at the last value that jumps and the first that passes; STANDBY before a DWELL. -/
theorem witness_CompletionsAdvanceTheRun_more :
    let again := [.spin, .ident, .health, .repeatTo 2 255, .health]
    let s := working [.spin, .ident, .health, .standby] 2 0 .health
    let t := working again 2 254 .health
    let u := working [.spin, .standby, .dwell 1] 1 0 .standby
    (s.slot 9).op.tag = 57#8 ∧ s.planOf 9 = some { plan with steps := [.spin, .ident, .health, .standby] } ∧
      (s.slot 9).held = false ∧ (s.zone (zoneOf 9)).state ≠ .fault ∧ (s.slot 9).state = .active ∧ (s.slot 9).spun = true ∧
      (s.slot 9).op.outstanding = some .health ∧ (s.slot 9).exec.index = 2 ∧ t.planOf 9 = some { plan with steps := again } ∧
      (t.slot 9).exec.index = 2 ∧ (t.slot 9).op.outstanding = some .health ∧ repeatPlace again 3 = 0 ∧
      (t.slot 9).exec.counters[0]? = some 254 ∧ ((working again 2 255 .health).slot 9).exec.counters[0]? = some 255 ∧
      again[2]? = some .health ∧ again[4]? = some .health ∧ (u.slot 9).op.outstanding = some .standby ∧
      (u.slot 9).exec.index = 1 := by decide +kernel

/-- Sweep steps behind HEALTH and behind STANDBY: a range and its empty kind, with no buffer free, one and two; and SPIN outstanding in
the spin phase of a SEEK SWEEP. -/
theorem witness_CompletionsAdvanceTheRun_sweeps :
    let seek := { seekFields with pacing := Pacing.drive }
    let steps := fun st : Step => [Step.spin, .ident, .health, st, .health]
    let s := fun st : Step => working (steps st) 2 0 .health
    let at_ := fun p => identity.capacity * p / 1000
    let x := { runSlot 3 with state := .spinning, spun := false, sweep := Sweep.started (.seekSweep seek) 78140160 512 }
    let u := trayWith 9 { x with
      op := { x.op with tag := 57#8, outstanding := some .spin }, exec := { x.exec with phase := .spinUp } }
    (∀ st ∈ [Step.writeSweep sweepFields, .readSweep sweepFields true, .seekSweep seek],
      (s st).planOf 9 = some { plan with steps := steps st } ∧ (steps st)[3]? = some st ∧ (steps st)[4]? = some .health ∧
        st.isSweep = true ∧ ((s st).slot 9).exec.index = 2 ∧ ((s st).slot 9).identity = some identity ∧
        ((s st).slot 9).sweep.hand = [] ∧ 9 ∉ (s st).pool.waiting ∧
        ((working (steps st) 2 0 .standby).slot 9).op.outstanding = some .standby) ∧
      at_ 0 < at_ 1000 ∧ at_ 1000 ≤ at_ 1000 ∧ 1 ≤ seek.count ∧ 1 ≤ sweepFields.chunk ∧ identity.sectorSize ≤ 65536 ∧
      (∀ n ∈ [0, 1, 2], (tray.withPool { tray.pool with free := n }).pool.free = n) ∧
      (u.slot 9).state = .spinning ∧ (u.slot 9).exec.phase = .spinUp ∧ (u.slot 9).op.outstanding = some .spin ∧
      (u.slot 9).sweep.step = some (.seekSweep seek) ∧ (u.slot 9).sweep.lowNext = true ∧
      (u.slot 9).sweep.lo ≤ (u.slot 9).sweep.hi ∧ 0 < (u.slot 9).sweep.grid := by decide +kernel

/-- Slot 9 with a READ without verify of two sectors outstanding, whose bytes have all arrived. -/
def reading : State :=
  let k : Chunk := { theChunk with count := 2 }
  (sweeping 5 (.readSweep sweepFields false) (.read k) true).modSweep 9 fun e =>
    { e with hand := [{ inFlight with chunk := k, data := List.replicate 1024 0#8 }] }

/-- A READ without verify, and a SEEK with two seeks to come, both of a held slot; residuals of 1 and of the whole chunk. -/
theorem witness_SweepCompletionsCount :
    let k : Chunk := { theChunk with count := 2 }
    let s := reading
    let t := sweeping 6 (.seekSweep seekFields) (.seek 5) true
    (57#8 : Byte) = (s.slot 9).op.tag ∧ (s.slot 9).held = true ∧ (s.slot 9).state = .active ∧
      (s.slot 9).exec.phase = .working ∧ s.pool.waiting = [] ∧
      (s.slot 9).sweep.step = some (.readSweep sweepFields false) ∧ (s.slot 9).op.outstanding = some (.read k) ∧
      (s.slot 9).sweep.redo ≠ [] ∧ (s.slot 9).op.interrupted = none ∧ (s.slot 9).covers k.count = true ∧
      (s.slot 9).covers (k.count - 1) = true ∧ (s.slot 9).covers (k.count - 2) = true ∧
      (t.slot 9).held = true ∧ (t.slot 9).state = .active ∧ (t.slot 9).exec.phase = .working ∧ t.pool.waiting = [] ∧
      (57#8 : Byte) = (t.slot 9).op.tag ∧
      (t.slot 9).sweep.step = some (.seekSweep seekFields) ∧ (t.slot 9).op.outstanding = some (.seek 5) ∧
      2 ≤ (t.slot 9).sweep.remaining := by decide +kernel

/-- A WRITE and a verify READ of a held slot; the last READ of a RUNNING band and the last but one; and the ranges that lay no
band, one band, and bands of one chunk each. -/
theorem witness_SweepCompletionsCount_more :
    let k : Chunk := { theChunk with count := 2 }
    let s := sweeping 3 (.writeSweep sweepFields) (.write theChunk) true
    let t := (sweeping 4 (.readSweep sweepFields true) (.read k) true).modSweep 9 fun e =>
      { e with hand := [{ inFlight with data := List.replicate 1024 0#8 }] }
    let running := fun left : Nat =>
      t.modSweep 9 fun e => { e with bands := e.bands.set 0 { state := .running 0, sectors := 256, left := left } }
    let range := fun capacity : Nat => capacity * sweepFields.stop / 1000 - capacity * sweepFields.start / 1000
    (s.slot 9).op.tag = 57#8 ∧ (s.slot 9).held = true ∧ (s.slot 9).state = .active ∧ (s.slot 9).exec.phase = .working ∧
      s.pool.waiting = [] ∧ (s.slot 9).sweep.redo ≠ [] ∧ (s.slot 9).op.interrupted = none ∧
      (s.slot 9).sweep.step = some (.writeSweep sweepFields) ∧ (s.slot 9).op.outstanding = some (.write theChunk) ∧
      ((s.slot 9).sweep.bands.get 0).state = .void ∧
      (t.slot 9).op.tag = 57#8 ∧ (t.slot 9).held = true ∧ (t.slot 9).state = .active ∧ (t.slot 9).exec.phase = .working ∧
      t.pool.waiting = [] ∧ (t.slot 9).sweep.redo ≠ [] ∧ (t.slot 9).op.interrupted = none ∧
      (t.slot 9).sweep.step = some (.readSweep sweepFields true) ∧ (t.slot 9).op.outstanding = some (.read k) ∧
      1 ≤ (t.slot 9).exec.pass ∧ (t.slot 9).covers k.count = true ∧
      (∀ left ∈ [1, 2], ((running left).slot 9).sweep.bands.get k.band = { state := .running 0, sectors := 256, left := left }) ∧
      sweepFields.chunk * 512 ≤ 65536 ∧ range 0 = 0 ∧ range 15 < 16 ∧ 0 < range 15 ∧ range 2048 = 16 * (1 * sweepFields.chunk) := by
  decide +kernel

/-- The last chunk of a WRITE and of a READ SWEEP, in WORKING with the lap done and while DRAINING; and the last seek. -/
theorem witness_SweepCompletionsCount_ends :
    let k : Chunk := { theChunk with count := 2 }
    let handed := fun (step : Step) (op : Op) =>
      let steps := [Step.spin, .ident, .health, .standby, .standby, step, .health]
      { (sweeping 5 step op false).modSweep 9 fun e => { e with
          redo := [], lo := e.grid, hand := [{ inFlight with chunk := k, data := List.replicate 1024 0#8 }] } with
        plans := tray.plans.set 0 (some { plan with steps := steps }) }
    let s := handed (.writeSweep sweepFields) (.write k)
    let t := handed (.readSweep sweepFields false) (.read k)
    let seeks := (handed (.seekSweep seekFields) (.seek 5)).modSweep 9 fun e => { e with hand := [], hi := 0, lo := 1, remaining := 1 }
    (∀ u ∈ [s, t, seeks], (u.slot 9).op.tag = 57#8 ∧ (u.slot 9).held = false ∧ (u.zone (zoneOf 9)).state ≠ .fault ∧
      (u.slot 9).state = .active ∧ u.pool.waiting = [] ∧ (u.slot 9).op.interrupted = none ∧ (u.slot 9).sweep.takeIndex = none ∧
      (u.slot 9).sweep.redo = [] ∧ (u.slot 9).exec.phase = .working ∧ (u.slot 9).spun = true ∧ (u.slot 9).exec.index = 5 ∧
      ((u.planOf 9).map fun p => p.steps[6]?) = some (some .health)) ∧
      (s.slot 9).sweep.step = some (.writeSweep sweepFields) ∧ (s.slot 9).op.outstanding = some (.write k) ∧
      (∀ h ∈ (s.slot 9).sweep.hand, h.use = .inFlight) ∧ (t.slot 9).covers k.count = true ∧
      ((setPhase 9 .draining t).slot 9).exec.phase = .draining ∧ (seeks.slot 9).op.outstanding = some (.seek 5) ∧
      (seeks.slot 9).sweep.hand = [] ∧ (seeks.slot 9).sweep.remaining ≤ 1 := by decide +kernel

/-- A chunk in flight and one prepared: of a WRITE SWEEP, and of a verify READ SWEEP with pass 2, with a chunk to take and with none. -/
theorem witness_SweepCompletionsCount_next :
    let k : Chunk := { theChunk with count := 2 }
    let a := { inFlight with chunk := k, data := List.replicate 1024 0#8 }
    let b := { inFlight with lending := 5, use := .prepared }
    let s := fun (step : Step) (op : Op) => (sweeping 5 step op false).modSweep 9 fun e => { e with redo := [], hand := [a, b] }
    let w := s (.writeSweep sweepFields) (.write k)
    let v := s (.readSweep sweepFields true) (.read k)
    let last := w.modSweep 9 fun e => { e with lo := e.grid }
    (∀ u ∈ [w, v, last], (u.slot 9).held = false ∧ (u.slot 9).state = .active ∧ (u.slot 9).exec.phase = .working ∧
      u.planOf 9 = some plan ∧ u.pool.waiting = [] ∧ (u.slot 9).op.interrupted = none ∧ (u.slot 9).sweep.hand = [a, b] ∧
      (u.slot 9).sweep.hand.filter (fun h => decide (h.use ≠ .inFlight)) = [b] ∧
      (u.slot 9).sweep.hand.filter (fun h => decide (h.use = .inFlight)) ≠ []) ∧
      sweepFields.pacing = .drive ∧ (w.slot 9).take.isSome = true ∧ (last.slot 9).take = none ∧ a.lending ≠ b.lending ∧
      1 ≤ (v.slot 9).exec.pass ∧ (v.slot 9).covers k.count = true := by decide +kernel

/-- A completion taken as an expiry: ERROR INTERFACE of a READ, and ERROR MEDIA of DRIVE RESET; and another tag. -/
theorem witness_TimeoutClimbsTheLadder_completions :
    let s := sweeping 5 (.readSweep sweepFields false) .driveReset false
    let c : Completion := { done 57#8 .none with status := .error, error := .media }
    (s.slot 9).op.outstanding = some .driveReset ∧ s.planOf 9 = some plan ∧ (s.slot 9).state = .active ∧
      c.tag = (s.slot 9).op.tag ∧ c.status = .error ∧ c.error = .media ∧
      Op.driveReset ∈ [Op.spin, .ident, .health, .standby, .driveReset] ∧
      ({ c with error := .interface } : Completion).error = .interface ∧ (58#8 : Byte) ≠ (s.slot 9).op.tag := by decide +kernel

/-- DRIVE RESET outstanding with each return, and SPIN outstanding after stage 2. -/
theorem witness_TimeoutClimbsTheLadder_returns :
    let back := fun (state : SlotState) (x : Slot) (op : Op) (ret : Option ReturnTo) =>
      trayWith 9 { x with state := state, op := { x.op with outstanding := some op, returnTo := ret, interrupted := some .standby } }
    let a := back .recovering (runSlot 0) .driveReset (some .spinning)
    let b := back .recovering (runSlot 9) .driveReset (some .active)
    let d := (b.modExec 9 fun x => { x with phase := .draining }).modSweep 9 fun e => { e with hand := [inFlight] }
    let g := back .spinning (runSlot 9) .spin none
    a.planOf 9 = some plan ∧ (a.slot 9).state = .recovering ∧ (a.slot 9).op.outstanding = some .driveReset ∧
      (a.slot 9).op.returnTo = some .spinning ∧ (b.slot 9).op.returnTo = some .active ∧ (b.slot 9).sweep.step = none ∧
      (b.slot 9).op.interrupted = some .standby ∧ (b.slot 9).exec.phase = .working ∧ (b.slot 9).held = false ∧
      (b.zone (zoneOf 9)).state ≠ .fault ∧ ((b.modSlot 9 fun x => { x with held := true }).slot 9).held = true ∧
      (d.slot 9).op.returnTo = some .active ∧ (d.slot 9).exec.phase = .draining ∧ (d.slot 9).sweep.hand ≠ [] ∧
      (g.slot 9).state = .spinning ∧ (g.slot 9).op.outstanding = some .spin ∧ (g.slot 9).exec.phase = .working ∧
      (g.slot 9).sweep.step = none ∧ (g.slot 9).op.interrupted = some .standby := by decide +kernel

/-- Any of the three states, at each stage of the ladder. -/
theorem witness_TimeoutClimbsTheLadder :
    let s := sweeping 5 (.readSweep sweepFields false) (.read theChunk) false
    let at_ := fun stage => s.modOp 9 fun u => { u with stage := stage }
    (s.slot 9).op.outstanding = some (.read theChunk) ∧ s.planOf 9 = some plan ∧
      (s.slot 9).state ∈ [SlotState.spinning, .active, .recovering] ∧ (s.slot 9).op.stage = 0 ∧
      ((at_ 1).slot 9).op.stage = 1 ∧ 2 ≤ ((at_ 2).slot 9).op.stage := by decide +kernel

theorem witness_OffTimeEndWaitsForPower :
    let x := { runSlot 4 with state := .cycling, powered := false, spun := false }
    let s := trayWith 9 { x with op := { x.op with offTimer := some 1 } }
    (s.slot 9).state = .cycling ∧ (s.slot 9).op.offTimer.isSome = true ∧ (tray.slot 9).state ≠ .cycling ∧
      (tray.slot 9).op.offTimer = none := by decide +kernel

/-! ### Witnesses: sweeps and the pattern unit -/

theorem witness_StepTimerDrains :
    let s := (sweeping 5 (.readSweep sweepFields false) (.read theChunk) false).modExec 9 fun x => { x with timer := some 1 }
    (s.slot 9).exec.timer.isSome = true ∧ (s.slot 9).state = .active ∧ (s.slot 9).exec.phase = .working ∧
      (s.slot 9).held = false ∧ (s.zone (zoneOf 9)).state ≠ .fault ∧ (s.slot 9).op.outstanding.isSome = true ∧
      (tray.slot 9).exec.timer = none := by decide +kernel

/-- Nothing outstanding: one chunk being checked; and a WRITE SWEEP with one being filled and one prepared, before a HEALTH step. -/
theorem witness_StepTimerDrains_idle :
    let s := fun (step : Step) (hand : List InHand) =>
      let x := runSlot 5
      { trayWith 9 { x with
          exec := { x.exec with timer := some 1 }, sweep := { Sweep.started step 78140160 512 with hand := hand } } with
        plans := tray.plans.set 0 (some { plan with steps := [.spin, .ident, .health, .standby, .standby, step, .health] }) }
    let v := s (.readSweep sweepFields true) [{ inFlight with use := .checking }]
    let w := s (.writeSweep sweepFields) [{ inFlight with use := .filling }, { inFlight with use := .prepared }]
    (∀ u ∈ [v, w], (u.slot 9).exec.timer.isSome = true ∧ (u.slot 9).state = .active ∧ (u.slot 9).exec.phase = .working ∧
      (u.slot 9).held = false ∧ (u.zone (zoneOf 9)).state ≠ .fault ∧ (u.slot 9).op.outstanding = none ∧ (u.slot 9).spun = true ∧
      ((u.planOf 9).map fun p => p.steps[(u.slot 9).exec.index + 1]?) = some (some .health)) ∧
      (∃ h ∈ (v.slot 9).sweep.hand, h.use = .inFlight ∨ h.use = .checking) ∧
      (w.slot 9).sweep.step = some (.writeSweep sweepFields) ∧
      ∀ h ∈ (w.slot 9).sweep.hand, h.use = .filling ∨ h.use = .prepared := by decide +kernel

/-- The entry before in the index, in the repeat counters and in the retest count, all the rest alike. -/
theorem witness_StepTimerDrains_stale :
    let s := sweeping 5 (.readSweep sweepFields false) (.read theChunk) false
    let e := s.stepEntry 9
    e.slot = 9 ∧ ({ e with index := 4 } : StepEntry).index ≠ (s.slot 9).exec.index ∧
      ({ e with counters := [254] } : StepEntry).counters ≠ (s.slot 9).exec.counters ∧
      ({ e with retests := 1 } : StepEntry).retests ≠ (s.slot 9).retests := by decide +kernel

/-- R62: behind the completion of a timed sweep's last chunk, the end of its timer leaves the timed sweep that follows working. -/
theorem test_step_timer_behind_completion :
    let timed := { sweepFields with timeLimit := 1 }
    let steps := [Step.spin, .ident, .health, .standby, .standby, .readSweep timed false, .readSweep timed false]
    let s := (sweeping 5 (.readSweep timed false) (.read { theChunk with count := 2 }) false).modSweep 9 fun e =>
      { e with redo := [], lo := e.grid, hand := reading.slot 9 |>.sweep.hand }
    let s := { s.modExec 9 fun x => { x with timer := some 1 } with
      plans := tray.plans.set 0 (some { plan with steps := steps }) }
    let t := after (.completion 9 (.record (done 57#8 .none))) s
    let u := after (.stepTimerExpiry (s.stepEntry 9)) t
    (t.slot 9).exec.index = 6 ∧ (u.slot 9).exec.phase = .working ∧ (u.slot 9).exec.timer = some 1000 ∧
      ((after (.stepTimerExpiry (t.stepEntry 9)) t).slot 9).exec.phase = .draining := by decide +kernel

/-- A tick that finds an operation outstanding, and one that finds none and the first seek to issue. -/
theorem witness_PacingTickIssuesOrMisses :
    let s := (sweeping 6 (.seekSweep seekFields) (.seek 5) false).modSweep 9 fun e => { e with pacing := some 1 }
    let t := s.modOp 9 fun u => { u with outstanding := none, timer := none }
    (s.slot 9).sweep.pacing.isSome = true ∧ (s.slot 9).state = .active ∧ (s.slot 9).exec.phase = .working ∧
      (s.slot 9).held = false ∧ (s.zone (zoneOf 9)).state ≠ .fault ∧ (s.slot 9).op.outstanding.isSome = true ∧
      (t.slot 9).op.outstanding = none ∧ (t.slot 9).op.interrupted = none ∧ t.planOf 9 = some plan ∧
      (t.slot 9).sweep.step = some (.seekSweep seekFields) ∧ (t.slot 9).sweep.lo ≤ (t.slot 9).sweep.hi ∧
      0 < (t.slot 9).sweep.grid := by decide +kernel

/-- Of a TICK-PACED WRITE SWEEP with nothing outstanding: one chunk prepared with room for another, with a buffer free and with none;
two in hand; none prepared, one being filled; and nothing left but a check. -/
theorem witness_PacingTickIssuesOrMisses_chunks :
    let paced := { sweepFields with pacing := Pacing.tick }
    let s := fun (step : Step) (hand : List InHand) =>
      (trayWith 9 { runSlot 5 with sweep := { Sweep.started step 78140160 512 with hand := hand } })
    let b := { inFlight with use := .prepared }
    let one := s (.writeSweep paced) [b]
    let two := s (.writeSweep paced) [b, { b with lending := 5 }]
    let filling := s (.writeSweep paced) [{ b with use := .filling }]
    let check := (s (.readSweep paced true) [{ b with use := .checking }]).modSweep 9 fun e => { e with lo := e.grid }
    (∀ u ∈ [one, two, filling, check], (u.slot 9).sweep.pacing.isSome = true ∧ (u.slot 9).state = .active ∧
      (u.slot 9).exec.phase = .working ∧ (u.slot 9).held = false ∧ (u.zone (zoneOf 9)).state ≠ .fault ∧
      (u.slot 9).op.outstanding = none ∧ (u.slot 9).op.interrupted = none ∧ u.planOf 9 = some plan ∧
      (u.slot 9).sweep.hand.length ≤ 2) ∧
      (one.slot 9).sweep.step = some (.writeSweep paced) ∧
      (∀ u ∈ [one, two], (u.slot 9).sweep.hand.find? (fun y => decide (y.use = .prepared)) = some b) ∧
      (one.slot 9).sweep.hand.length < 2 ∧ 9 ∉ one.pool.waiting ∧ (one.slot 9).take.isSome = true ∧ 0 < one.pool.free ∧
      (one.withPool { one.pool with free := 0 }).pool.free = 0 ∧ ¬ (two.slot 9).sweep.hand.length < 2 ∧
      (∀ u ∈ [filling, check], ∀ h ∈ (u.slot 9).sweep.hand, h.use ≠ .prepared) ∧
      (∃ h ∈ (filling.slot 9).sweep.hand, h.use = .filling) ∧ (check.slot 9).take = none ∧
      ∀ h ∈ (check.slot 9).sweep.hand, h.use ≠ .filling := by decide +kernel

/-- A take of an interrupted chunk, of the redo list, of the cursor, and of nothing; the cursor in a lap's midst and past its end, in
each direction. -/
theorem witness_PacingTickIssuesOrMisses_takes :
    let x := (sweeping 5 (.readSweep sweepFields false) (.read theChunk) true).slot 9
    let again := { inFlight with again := true }
    let back := { x with op := { x.op with interrupted := some (.read theChunk) } }
    let cursor := fun (d : Direction) (continuous : Bool) (lo hi : Nat) => { x.sweep with
      step := some (.writeSweep { sweepFields with direction := d, continuous := continuous }), redo := [], lo := lo, hi := hi }
    let idle := { x with sweep := cursor .ascending false 610470 0 }
    x.state = .active ∧ (∀ h ∈ back.sweep.hand, h.again = false) ∧ back.op.interrupted = some (.read theChunk) ∧
      (∃ h ∈ ({ back with sweep := { x.sweep with hand := [again] } } : Slot).sweep.hand, h.again = true) ∧
      x.op.interrupted = none ∧ x.sweep.redo = theChunk :: [] ∧ 0 < x.sweep.grid ∧ x.sweep.grid = 610470 ∧
      (cursor .ascending false 610469 0).lo < x.sweep.grid ∧ (cursor .ascending false 610469 0).takeIndex.isSome = true ∧
      idle.op.interrupted = none ∧ idle.sweep.redo = [] ∧ idle.sweep.takeIndex = none ∧
      x.sweep.grid ≤ (cursor .descending true 610470 0).lo ∧ (cursor .butterfly false 5 5).lo ≤ (cursor .butterfly false 5 5).hi ∧
      (cursor .butterfly true 6 5).hi < (cursor .butterfly true 6 5).lo := by decide +kernel

/-- A fill and a check at work, of a held slot, each with its buffer in hand; and a lending that is not at work. -/
def patterned (check : Bool) (use : BufferUse) : State :=
  let k : Chunk := { theChunk with count := 2 }
  ((sweeping 4 (.readSweep sweepFields true) (.read k) true).modSweep 9 fun e =>
      { e with hand := [{ inFlight with chunk := k, use := use }] }).withWork [{ slot := 9, lending := 4, check := check }]

theorem witness_PatternUnitCompletes :
    let f := patterned false .filling
    let c := patterned true .checking
    let h : InHand := { inFlight with chunk := { theChunk with count := 2 }, use := .checking }
    (f.slot 9).held = true ∧ ({ slot := 9, lending := 4, check := false } : Work) ∈ f.work ∧
      ({ slot := 9, lending := 4, check := true } : Work) ∉ f.work ∧ ({ slot := 9, lending := 5, check := false } : Work) ∉ f.work ∧
      (c.slot 9).held = true ∧ ({ slot := 9, lending := 4, check := true } : Work) ∈ c.work ∧
      ({ slot := 9, lending := 4, check := false } : Work) ∉ c.work ∧ c.pool.waiting = [] ∧
      (∀ y ∈ (c.slot 9).sweep.hand, y.lending = 4 → y = h) ∧
      (c.slot 9).sweep.hand.countP (fun y => decide (y.lending = 4)) = 1 ∧ (c.slot 9).state = .active ∧
      (c.slot 9).exec.phase = .working ∧ (c.slot 9).sweep.redo ≠ [] ∧ (c.slot 9).op.interrupted = none ∧
      (c.slot 9).sweep.verifies = true := by decide +kernel

/-- The check of slot 9 while held slot 4 waits: in a READ SWEEP with one buffer in hand, and in a WRITE SWEEP with none. -/
theorem witness_PatternUnitCompletes_lent :
    let y := fun (st : Step) (hand : List InHand) => { runSlot 4 with
      held := true, sweep := { Sweep.started st 78140160 512 with hand := hand } }
    let c := fun x : Slot => ((patterned true .checking).setSlot 4 x).withPool { tray.pool with free := 0, waiting := [4, 7] }
    let s := c (y (.readSweep sweepFields false) [{ inFlight with lending := 3 }])
    let t := c (y (.writeSweep sweepFields) [])
    s.pool.waiting = 4 :: [7] ∧ (s.slot 4).held = true ∧ (s.slot 4).sweep.hand.length < 2 ∧
      (s.slot 4).sweep.step = some (.readSweep sweepFields false) ∧ (s.slot 4).take.isSome = true ∧
      (t.slot 4).sweep.step = some (.writeSweep sweepFields) ∧ (t.slot 4).take.isSome = true ∧ (s.slot 9).held = true ∧
      (s.slot 9).sweep.verifies = true := by decide +kernel

theorem witness_FilledSectorsCheckGood : 12 ≤ 512 ∧ 31 < 256 ∧ 255 < 256 ∧ 281474976710654 + 2 ≤ 281474976710656 := by decide

end Sys2Proof.Tests
end

section
/-! SUPPORT. Requests that name one slot: the state their handler finds, and the slot check of R15 and R16. -/

namespace Sys2Proof.Machine

/-! ### The state a request's handler finds -/

@[simp] theorem hunting_lots (s : State) : s.hunting.lots = s.lots := rfl
@[simp] theorem hunting_slot (s : State) (i : Fin 16) : s.hunting.slot i = s.slot i := rfl

/-! ### The slot check -/

theorem fieldAt_head (a : Byte) (rest : List Byte) : fieldAt (a :: rest) 0 1 = a.toNat := by
  simp [fieldAt, ofLe]

theorem slotNo?_val (i : Fin 16) : slotNo? i.val = some i := dif_pos i.isLt

theorem slotNo?_of_le {n : Nat} (h : 16 ≤ n) : slotNo? n = none := dif_neg (by omega)

/-- A field that names a slot passes the check. -/
theorem withSlot_val (i : Fin 16) (s : State) (k : Fin 16 → State × Reply) :
    withSlot [BitVec.ofNat 8 i.val] s k = k i := by
  have hi : (BitVec.ofNat 8 i.val).toNat = i.val := by simp; omega
  simp [withSlot, withLength, fieldAt_head, hi, slotNo?_val]

/-- A field outside 0 to 15 is refused (R15, R16). -/
theorem withSlot_of_le {a : Byte} (h : 16 ≤ a.toNat) (s : State) (k : Fin 16 → State × Reply) :
    withSlot [a] s k = (s, Reply.refuse (.badArgument 0)) := by
  simp [withSlot, withLength, fieldAt_head, slotNo?_of_le h, refused]

/-! ### The three requests answered -/

theorem slotHold_answers {r : Req} {s u : State} {rep : Reply} (hd : s.line.deaf = false)
    (h : slotHold r.fields s.hunting = (u, rep)) : Answers (.slotHold r) r 0x21#8 rep s u :=
  answers_taken rfl hd (fun _ => rfl) h

theorem slotRelease_answers {r : Req} {s u : State} {rep : Reply} (hd : s.line.deaf = false)
    (h : slotRelease r.fields s.hunting = (u, rep)) : Answers (.slotRelease r) r 0x22#8 rep s u :=
  answers_taken rfl hd (fun _ => rfl) h

theorem slotAbort_answers {r : Req} {s u : State} {rep : Reply} (hd : s.line.deaf = false)
    (h : slotAbort r.fields s.hunting = (u, rep)) : Answers (.slotAbort r) r 0x23#8 rep s u :=
  answers_taken rfl hd (fun _ => rfl) h

end Sys2Proof.Machine
end

section
/-! SUPPORT. The admission evaluation as a fixed point (R28, R31): where it has run to its end another evaluation repeats its
result, and nothing that leaves power, plans and the slots with a commitment alone changes that. -/

namespace Sys2Proof.Machine

/-! ### One round -/

/-- What a round of the evaluation reserves where it grants nothing; none where it grants (R28). -/
def reserveOf (s : State) : Option Nat :=
  if s.power.limit ≤ s.spinCount then some 0
  else
    match s.candidate with
    | none => some 0
    | some i => if s.committed + s.need i ≤ s.power.budget then none else some (s.need i)

theorem evaluate_reserving {s : State} {r : Nat} (h : reserveOf s = some r) (n : Nat) :
    evaluate (n + 1) s = s.setReservation r := by
  unfold reserveOf at h
  unfold evaluate
  by_cases hl : s.power.limit ≤ s.spinCount
  · rw [if_pos hl] at h ⊢
    cases h; rfl
  · rw [if_neg hl] at h ⊢
    cases hc : s.candidate with
    | none =>
      simp only [hc] at h
      cases h; rfl
    | some i =>
      simp only [hc] at h
      split at h
      · cases h
      · rename_i hb
        cases h
        exact if_neg hb

theorem evaluate_granting {s : State} (h : reserveOf s = none) :
    ∃ i, (s.slot i).state = .waitPower ∧ ∀ n, evaluate (n + 1) s = evaluate n (grant i s) := by
  unfold reserveOf at h
  split at h
  · cases h
  · rename_i hl
    split at h
    · cases h
    · rename_i i hc
      split at h
      · rename_i hb
        refine ⟨i, candidate_waits hc, fun n => ?_⟩
        rw [evaluate, if_neg hl, hc]
        exact if_pos hb
      · cases h

/-! ### The end of the evaluation -/

/-- An evaluation would grant nothing and reserve what is reserved. -/
def Settled (s : State) : Prop := reserveOf s = some s.power.reservation

theorem admission_of_settled {s : State} (h : Settled s) : admission s = s := evaluate_reserving h 16

theorem reserveOf_setReservation (s : State) (r : Nat) : reserveOf (s.setReservation r) = reserveOf s := rfl

theorem grant_slot_ne {i j : Fin 16} (s : State) (h : j ≠ i) : (grant i s).slot j = s.slot j := by
  simp [grant, issue, State.modOp, slot_modSlot_ne _ _ h]

theorem grant_slot_state (i : Fin 16) (s : State) : ((grant i s).slot i).state = .spinning := by
  simp [grant, issue, State.modOp]

/-- The slots that wait for power, as a set. -/
def awaiting (s : State) : Finset (Fin 16) := Finset.univ.filter fun j => (s.slot j).state = .waitPower

theorem mem_awaiting (s : State) (j : Fin 16) : j ∈ awaiting s ↔ (s.slot j).state = .waitPower := by simp [awaiting]

theorem awaiting_grant (i : Fin 16) (s : State) : awaiting (grant i s) = (awaiting s).erase i := by
  ext j
  rw [Finset.mem_erase, mem_awaiting, mem_awaiting]
  by_cases h : j = i
  · subst h; simp [grant_slot_state]
  · rw [grant_slot_ne s h]; simp [h]

/-- Each round but the last grants a slot that waits, so more rounds than slots that wait reach the end. -/
theorem settled_evaluate (n : Nat) (s : State) (h : (awaiting s).card < n) : Settled (evaluate n s) := by
  induction n generalizing s with
  | zero => omega
  | succ n ih =>
    cases hr : reserveOf s with
    | some r => rw [evaluate_reserving hr]; exact (reserveOf_setReservation s r).trans hr
    | none =>
      obtain ⟨i, hi, he⟩ := evaluate_granting hr
      have hlt := Finset.card_erase_lt_of_mem ((mem_awaiting s i).2 hi)
      rw [he]
      exact ih _ (by rw [awaiting_grant]; omega)

theorem settled_admission (s : State) : Settled (admission s) :=
  settled_evaluate 17 s (Nat.lt_succ_of_le (Finset.card_le_univ _))

/-! ### What keeps it settled -/

theorem settled_raise {s : State} (h : Settled s) (n : Nat) (d : Detail) : Settled (raise n d s) := h

theorem settled_refreshLamps {s : State} (h : Settled s) : Settled (refreshLamps s) := h

theorem slotCommit_of_poweredNo {x : Slot} (h : x.state.poweredNo = true) (plans : Vector (Option Plan) 4) :
    slotCommit plans x = 0 := by
  unfold slotCommit
  cases hx : x.state <;> simp_all [SlotState.poweredNo]

theorem placeOf_of_poweredNo {x : Slot} (h : x.state.poweredNo = true) : placeOf x = 0 := by
  unfold placeOf Slot.spinPlace
  cases hx : x.state <;> simp_all [SlotState.poweredNo]

theorem ne_waitPower_of_poweredNo {x : SlotState} (h : x.poweredNo = true) : x ≠ .waitPower := by
  rintro rfl; cases h

section
variable {s : State} {i : Fin 16} {y : Slot} (hx : (s.slot i).state.poweredNo = true) (hy : y.state.poweredNo = true)
include hx hy

theorem committed_setSlot_of_poweredNo : (s.setSlot i y).committed = s.committed := by
  have h := driveTotal_setSlot s i y
  rw [slotCommit_of_poweredNo hx, slotCommit_of_poweredNo hy] at h
  have hz : (s.setSlot i y).heaterTotal = s.heaterTotal := rfl
  rw [State.committed, State.committed, hz]
  omega

theorem spinCount_setSlot_of_poweredNo : (s.setSlot i y).spinCount = s.spinCount := by
  have h := spinCount_setSlot s i y
  rwa [placeOf_of_poweredNo hx, placeOf_of_poweredNo hy] at h

theorem candidate_setSlot_of_poweredNo : (s.setSlot i y).candidate = s.candidate := by
  simp only [State.candidate, State.pendingList, List.find?_filter, setSlot_power]
  congr 1
  funext j
  by_cases h : j = i
  · subst h; simp [ne_waitPower_of_poweredNo hx, ne_waitPower_of_poweredNo hy]
  · rw [slot_setSlot_ne s y h]

/-- A slot without power that changes, and stays without, changes nothing for admission. -/
theorem reserveOf_setSlot_of_poweredNo : reserveOf (s.setSlot i y) = reserveOf s := by
  unfold reserveOf
  rw [spinCount_setSlot_of_poweredNo hx hy, candidate_setSlot_of_poweredNo hx hy, committed_setSlot_of_poweredNo hx hy]
  cases hc : s.candidate with
  | none => rfl
  | some j =>
    have hne : j ≠ i := fun e => ne_waitPower_of_poweredNo hx (e ▸ candidate_waits hc)
    have hn : (s.setSlot i y).need j = s.need j := by
      simp only [State.need, driveCommit_eq, State.spinCost, State.planOf, slot_setSlot_ne s y hne, setSlot_plans]
      rfl
    simp only [hn, setSlot_power]

theorem settled_setSlot_of_poweredNo (h : Settled s) : Settled (s.setSlot i y) :=
  (reserveOf_setSlot_of_poweredNo hx hy).trans h

end

theorem settled_endRun (i : Fin 16) (f : Slot → Slot) (s : State) : Settled (endRun i f s) := settled_admission _

/-! ### States after an evaluation -/

/-- An evaluation changes the state of a slot to SPINNING or not at all (R28, R29). -/
theorem evaluate_state (n : Nat) (s : State) (i : Fin 16) :
    ((evaluate n s).slot i).state = (s.slot i).state ∨ ((evaluate n s).slot i).state = .spinning := by
  induction n generalizing s with
  | zero => exact .inl rfl
  | succ n ih =>
    cases hr : reserveOf s with
    | some r => rw [evaluate_reserving hr]; exact .inl rfl
    | none =>
      obtain ⟨j, -, he⟩ := evaluate_granting hr
      rw [he]
      by_cases h : i = j
      · subst h
        have := ih (grant i s)
        rw [grant_slot_state, or_self] at this
        exact .inr this
      · have := ih (grant j s)
        rwa [grant_slot_ne s h] at this

/-- No evaluation brings a slot to ACTIVE. -/
theorem admission_state_ne_active {s : State} {i : Fin 16} (h : (s.slot i).state ≠ .active) :
    ((admission s).slot i).state ≠ .active := by
  rcases evaluate_state 17 s i with e | e
  · rw [admission, e]; exact h
  · rw [admission, e]; decide

theorem admission_zone (s : State) (z : Fin 4) : (admission s).zone z = s.zone z := by
  rw [State.zone, State.zone, (moves_untouched (moves_admission (strict := true) s)).zones]

theorem admission_planOf (s : State) (i : Fin 16) (h : (s.slot i).state ≠ .waitPower) : (admission s).planOf i = s.planOf i := by
  unfold State.planOf
  rw [admission_slot s i h]
  unfold State.planAt
  rw [(moves_untouched (moves_admission (strict := true) s)).plans]

end Sys2Proof.Machine
end

section
/-! SUPPORT. How an executor goes on when a pause has lifted (R58), and how the events of one slot leave the rest of the machine. -/

namespace Sys2Proof.Machine

/-! ### A pause that lifts -/

theorem paused_eq_false {s : State} {i : Fin 16} (hh : (s.slot i).held = false) (hz : (s.zone (zoneOf i)).state ≠ .fault) :
    s.paused i = false := by
  simp [State.paused, State.zoneHold, hh, hz]

theorem paused_of_zone {s : State} {i : Fin 16} (hz : (s.zone (zoneOf i)).state = .fault) : s.paused i = true := by
  simp [State.paused, State.zoneHold, hz]

theorem mayWork_of {s : State} {i : Fin 16} (ha : (s.slot i).state = .active) (hw : (s.slot i).exec.phase = .working)
    (hp : s.paused i = false) : s.mayWork i = true := by
  simp [State.mayWork, ha, hw, hp]

theorem pauseLifts_of_paused {s : State} {i : Fin 16} (h : s.paused i = true) : pauseLifts i s = s := if_pos h

/-- Outside ACTIVE nothing goes on. -/
theorem pauseLifts_of_ne_active {s : State} {i : Fin 16} (h : (s.slot i).state ≠ .active) : pauseLifts i s = s := by
  have hm : s.mayWork i = false := by simp [State.mayWork, h]
  simp [pauseLifts, resumeWork, h, hm]

theorem pauseLifts_waiting {s : State} {i : Fin 16} (ha : (s.slot i).state = .active) (hp : s.paused i = false)
    (hw : (s.slot i).exec.phase = .waiting) : pauseLifts i s = proceed i s := by
  simp [pauseLifts, ha, hp, hw]

theorem pauseLifts_working {s : State} {i : Fin 16} (hp : s.paused i = false) (hw : (s.slot i).exec.phase = .working) :
    pauseLifts i s = resumeWork i s := by
  simp [pauseLifts, hp, hw]

/-! ### What the step in progress issues -/

/-- An issue without data, for a slot that names a loaded plan (R65, R66). -/
theorem issue_planned {s : State} {i : Fin 16} {plan : Plan} (h : s.planOf i = some plan) (op : Op) :
    issue i op [] s = s.modOp i (OpUnit.sending op s.now (opTimeout plan op)) := by
  simp only [issue, h]
  rfl

theorem planOf_setSlot {s : State} {i : Fin 16} {y : Slot} (h : y.plan = (s.slot i).plan) :
    (s.setSlot i y).planOf i = s.planOf i := by
  simp only [State.planOf, slot_setSlot_same, h]
  rfl

theorem stepAt_eq {s : State} {i : Fin 16} {plan : Plan} (h : s.planOf i = some plan) :
    s.stepAt i = plan.steps[(s.slot i).exec.index]? := by
  simp [State.stepAt, State.stepsOf, h]

theorem running_of_none {e : Sweep} (h : e.step = none) : e.running = false := by
  simp [Sweep.running, Sweep.kindCode, h]

section
variable {s : State} {i : Fin 16} (hm : s.mayWork i = true) (he : (s.slot i).sweep.step = none)
include hm he

theorem resumeWork_inFlight (ho : (s.slot i).op.outstanding.isSome = true) : resumeWork i s = s := by
  have hn : (s.slot i).op.outstanding ≠ none := Option.isSome_iff_ne_none.1 ho
  simp [resumeWork, hm, running_of_none he, hn]

theorem resumeWork_interrupted {op : Op} (ho : (s.slot i).op.outstanding = none)
    (hi : (s.slot i).op.interrupted = some op) :
    resumeWork i s = issue i op [] (s.modOp i fun u => { u with interrupted := none }) := by
  simp [resumeWork, hm, running_of_none he, ho, hi]

theorem resumeWork_firstOp {st : Step} {op : Op} (ho : (s.slot i).op.outstanding = none)
    (hi : (s.slot i).op.interrupted = none) (hs : s.stepAt i = some st) (hf : st.firstOp = some op) :
    resumeWork i s = issue i op [] s := by
  simp [resumeWork, hm, running_of_none he, ho, hi, hs, hf]

end

/-! ### The step that waits -/

theorem walkFuel_pos : 0 < walkFuel := Nat.mul_pos (Nat.two_pow_pos _) (Nat.two_pow_pos _)

/-- A step that does not end at once is all the executor does (R48). -/
theorem proceed_begins {s t : State} {i : Fin 16} {st : Step} (hs : s.stepAt i = some st)
    (hr : ∀ target count, st ≠ .repeatTo target count) (hb : beginStep false i st s = (t, false)) : proceed i s = t := by
  obtain ⟨n, hn⟩ : ∃ n, walkFuel = n + 1 := Nat.exists_eq_succ_of_ne_zero walkFuel_pos.ne'
  rw [proceed, hn, walk, hs]
  cases st with
  | repeatTo target count => exact absurd rfl (hr target count)
  | _ => simp only [hb]

/-- A HEALTH step of a spun drive under no pause issues HEALTH (R52). -/
theorem beginStep_health {s : State} {i : Fin 16} (hp : s.paused i = false) (hs : (s.slot i).spun = true) :
    beginStep false i .health s = (issue i .health [] (setPhase i .working (s.modSlot i (Slot.begun .health))), false) := by
  simp [beginStep, hp, hs, Slot.begun, startWork]

/-! ### The next seek of a sweep -/

theorem takeIndex_seek {e : Sweep} {f : SeekFields} (hk : e.step = some (.seekSweep f)) (hl : e.lowNext = true)
    (hle : e.lo ≤ e.hi) (hg : 0 < e.grid) : e.takeIndex = some (e.lo, { e with lo := e.lo + 1, lowNext := false }) := by
  have hd : e.direction = .butterfly := by simp [Sweep.direction, Sweep.fields, hk]
  have hs : e.isSeek = true := by simp [Sweep.isSeek, Sweep.kindCode, hk]
  have hn : e.lapDone = false := by simp [Sweep.lapDone, hd]; omega
  simp [Sweep.takeIndex, hn, Sweep.nextIndex, Sweep.stepped, hd, hl, hs]

/-- A SEEK SWEEP moves no chunks, so its engine issues once and asks for no buffer (R95, R97). -/
theorem engineGo_seek {s : State} {i : Fin 16} {f : SeekFields} (h : ((tryIssue i s).slot i).sweep.step = some (.seekSweep f)) :
    engineGo i s = tryIssue i s := by
  have hw : (tryIssue i s).wantsBuffer i = false := by
    simp [State.wantsBuffer, Sweep.movesChunks, Sweep.kindCode, h]
  simp [engineGo, engineRounds, hw]

/-- While an operation is outstanding no sweep ends (R91). -/
theorem endIfEnded_outstanding {s : State} {i : Fin 16} (h : (s.slot i).op.outstanding.isSome = true) : endIfEnded i s = s := by
  have hn : (s.slot i).op.outstanding ≠ none := Option.isSome_iff_ne_none.1 h
  simp [endIfEnded, State.sweepEnded, hn]

section
variable {s : State} {i : Fin 16} {plan : Plan} {f : SeekFields} (hm : s.mayWork i = true) (hpl : s.planOf i = some plan)
  (hk : (s.slot i).sweep.step = some (.seekSweep f)) (hf : f.pacing = .drive) (ho : (s.slot i).op.outstanding = none)
  (hi : (s.slot i).op.interrupted = none) (hl : (s.slot i).sweep.lowNext = true)
  (hle : (s.slot i).sweep.lo ≤ (s.slot i).sweep.hi) (hg : 0 < (s.slot i).sweep.grid)
include hm hpl hk hf ho hi hl hle hg

/-- A DRIVE-PACED SEEK SWEEP issues the next seek, here from the low end (R89, R92, R95). -/
theorem tryIssue_seek : tryIssue i s = s.setSlot i { s.slot i with
    sweep := { (s.slot i).sweep with lo := (s.slot i).sweep.lo + 1, lowNext := false }
    op := (s.slot i).op.sending (.seek ((s.slot i).sweep.seekLba (s.slot i).sweep.lo)) s.now plan.seekTimeout } := by
  have hr : (s.slot i).sweep.running = true := by simp [Sweep.running, Sweep.kindCode, hk]
  have hd : (s.slot i).sweep.pace.1 = .drive := by simp [Sweep.pace, hk, hf]
  have hs : (s.slot i).sweep.isSeek = true := by simp [Sweep.isSeek, Sweep.kindCode, hk]
  simp only [tryIssue, hm, hr, ho, hi, hd, issueNext, hs, issueSeek, takeIndex_seek hk hl hle hg, Option.isNone_none,
    Bool.and_self, if_true]
  rw [issue_planned (plan := plan) (by rw [← hpl]; exact planOf_setSlot rfl)]
  simp [State.modOp, State.modSweep, State.modSlot, opTimeout]

/-- With the seek out the sweep cannot end, so that seek is all (R91). -/
theorem resumeWork_seek : resumeWork i s = tryIssue i s := by
  have hr : (s.slot i).sweep.running = true := by simp [Sweep.running, Sweep.kindCode, hk]
  have ht := tryIssue_seek hm hpl hk hf ho hi hl hle hg
  have hgo : engineGo i s = tryIssue i s := engineGo_seek (f := f) (by rw [ht]; simpa using hk)
  have hend : endIfEnded i (tryIssue i s) = tryIssue i s := endIfEnded_outstanding (by rw [ht]; simp [OpUnit.sending])
  simp only [resumeWork, hm, hr, if_true, sweepOn, hgo, hend]

end

/-! ### The executor goes on where it stood -/

/-- A pause that has lifted from a slot in ACTIVE (R58). -/
theorem resumes_pauseLifts {s : State} {i : Fin 16} {plan : Plan} (hpl : s.planOf i = some plan)
    (ha : (s.slot i).state = .active) (hp : s.paused i = false) : Resumes i plan s (pauseLifts i s) where
  waiting := by
    intro hw hs hst
    rw [pauseLifts_waiting ha hp hw, proceed_begins ((stepAt_eq hpl).trans hst) (by simp) (beginStep_health hp hs),
      issue_planned (plan := plan) (by rw [← hpl]; simp [setPhase, State.modExec, State.modSlot, planOf_setSlot, Slot.begun])]
    simp [setPhase, State.modExec, State.modOp, State.modSlot, Slot.begun, Slot.engineBegun, Step.timer, Step.isSweep,
      Step.isWriteSweep, OpUnit.sending, opTimeout]
  interrupted := by
    intro hw he ho hi
    rw [pauseLifts_working hp hw, resumeWork_interrupted (mayWork_of ha hw hp) he ho hi,
      issue_planned (plan := plan) (by rw [← hpl]; exact planOf_setSlot rfl)]
    simp [State.modOp, State.modSlot, OpUnit.sending, opTimeout]
  firstOp := by
    intro hw he ho hi hst
    rw [pauseLifts_working hp hw, resumeWork_firstOp (mayWork_of ha hw hp) he ho hi ((stepAt_eq hpl).trans hst) rfl,
      issue_planned hpl]
    rfl
  inFlight := by
    intro hw he ho
    rw [pauseLifts_working hp hw, resumeWork_inFlight (mayWork_of ha hw hp) he ho]
  seeks := by
    intro f hw hk hf ho hi hl hle hg
    have hm := mayWork_of ha hw hp
    rw [pauseLifts_working hp hw, resumeWork_seek hm hpl hk hf ho hi hl hle hg, tryIssue_seek hm hpl hk hf ho hi hl hle hg]
    rfl

/-- The commands that wait play no part in how the executor goes on. -/
theorem resumes_pending {v u : State} {i : Fin 16} {plan : Plan} {q : List Instr}
    (h : Resumes i plan { v with pending := q } u) : Resumes i plan v { u with pending := v.pending } where
  waiting := fun hw hs hst => by rw [h.waiting hw hs hst]; rfl
  interrupted := fun hw he ho hi => by rw [h.interrupted hw he ho hi]; rfl
  firstOp := fun hw he ho hi hst => by rw [h.firstOp hw he ho hi hst]; rfl
  inFlight := fun hw he ho => by rw [h.inFlight hw he ho]
  seeks := fun f hw hk hf ho hi hl hle hg => by rw [h.seeks f hw hk hf ho hi hl hle hg]; rfl

/-! ### What the events of one slot leave alone -/

/-- Where a run event and changes of one record leave that slot's pins as another change would, only that change is seen. -/
theorem untouched_modSlot {s t : State} {i : Fin 16} {f g h : Slot → Slot} (k : Untouched (s.modSlot i h) t)
    (hp : (f (s.slot i)).SamePins (g (t.slot i))) : Untouched (s.modSlot i f) (t.modSlot i g) := by
  refine ⟨k.pending, k.now, k.line, k.bus, k.budget, k.limit, k.cost, k.plans, k.staging, k.profiles, k.zones, fun j => ?_⟩
  by_cases hj : j = i
  · subst hj; simpa using hp
  · have hpins := k.pins j
    rw [slot_modSlot_ne _ _ hj] at hpins ⊢
    rwa [slot_modSlot_ne _ _ hj]

@[simp] theorem raise_line (n : Nat) (d : Detail) (s : State) : (raise n d s).line = s.line.raised n d := rfl
@[simp] theorem raise_lots (n : Nat) (d : Detail) (s : State) : (raise n d s).lots = s.lots := rfl
@[simp] theorem raise_pool (n : Nat) (d : Detail) (s : State) : (raise n d s).pool = s.pool := rfl
@[simp] theorem raise_slot (n : Nat) (d : Detail) (s : State) (i : Fin 16) : (raise n d s).slot i = s.slot i := rfl

theorem untouched_raise {s t : State} (h : Untouched s t) (n : Nat) (d : Detail) : Untouched s (raise n d t) :=
  h.trans (moves_untouched (moves_raise (strict := true) n d t))

theorem untouched_admission {s t : State} (h : Untouched s t) : Untouched s (admission t) :=
  h.trans (moves_untouched (moves_admission (strict := true) t))

/-- A change of one slot alone, the lamp chain left out. -/
theorem sameOutsideSlots_modSlot (s : State) (i : Fin 16) (f : Slot → Slot) :
    SameOutsideSlots s (refreshLamps (s.modSlot i f)) ∧
      ∀ j : Fin 16, j ≠ i → (refreshLamps (s.modSlot i f)).slot j = s.slot j :=
  ⟨⟨rfl, rfl, rfl, rfl, rfl, rfl, rfl, rfl, rfl, rfl, rfl, rfl⟩, fun j hj => by
    rw [refreshLamps_slot, slot_modSlot_ne s f hj]⟩

end Sys2Proof.Machine
end

section
/-! The statements about a slot's removal, its link, its pauses and its abort (O29, O30, O33, O34). -/

namespace Sys2Proof.Proofs

open Sys2Proof Sys2Proof.Machine

/-! ### Removal (R9, R10) -/

theorem seatWindowEnds_unseated {i : Fin 16} {s : State} (hw : (s.slot i).window.isSome = true) (hr : (s.slot i).raw = false)
    (hs : (s.slot i).seated = true) : seatWindowEnds i s = remove i s := by
  simp [seatWindowEnds, hw, hr, hs]

/-- What unseated, taken, makes of the record before it is cleared (R9). -/
def unseated (x : Slot) : Slot := { x with state := .empty, seated := false, window := none }

/-- The end of the run that a removal begins with (R9). -/
def unseatedRun (i : Fin 16) (s : State) : State := endRun i unseated (leaveLotList i s)

theorem remove_eq (i : Fin 16) (s : State) : remove i s =
    raise i.val (.slotRemoved (s.slot i).state ((s.slot i).identity.map Identity.serial))
      ((unseatedRun i s).modSlot i Slot.removed) := rfl

theorem unseatedRun_slot (i : Fin 16) (s : State) :
    (unseatedRun i s).slot i
      = { unseated (s.slot i).released with sweep := { (s.slot i).sweep.retired with hand := [] } } ∧
    i ∉ (unseatedRun i s).pool.waiting :=
  endRun_slot i unseated (leaveLotList i s) (by simp [unseated])

theorem unseatedRun_line (i : Fin 16) (s : State) :
    (unseatedRun i s).line = s.line ∧ (unseatedRun i s).lots = (leaveLotList i s).lots :=
  endRun_line i unseated (leaveLotList i s)

theorem unseatedRun_untouched (i : Fin 16) (s : State) :
    Untouched (s.modSlot i fun x => unseated x.released) (unseatedRun i s) :=
  (moves_untouched (moves_leaveLotList (strict := true) i _)).trans
    (moves_untouched (moves_endRun (strict := true) i unseated (leaveLotList i s)))

/-- The operation unit of an empty slot: the tag stays, and what was last sent on the channel (R86; log entry 8). -/
def keptOp (u : OpUnit) : OpUnit :=
  { OpUnit.reset with tag := u.tag, issuedAt := u.issuedAt, sent := u.sent, sentData := u.sentData }

/-- What removal leaves of the record: power-on values but for the link watch and the operation tag (R10). -/
theorem remove_slot (i : Fin 16) (s : State) (hr : (s.slot i).raw = false) :
    (remove i s).slot i = { Slot.reset with
      linkUp := (s.slot i).linkUp, silence := (s.slot i).silence, op := keptOp (s.slot i).op } := by
  rw [remove_eq, raise_slot, slot_modSlot_same, (unseatedRun_slot i s).1]
  simp [Slot.removed, unseated, Slot.released, OpUnit.closed, keptOp, hr, Slot.reset, Sweep.reset]

theorem remove_untouched (i : Fin 16) (s : State) (hr : (s.slot i).raw = false) :
    Untouched (s.modSlot i fun x => { x with seated := false, window := none, held := false }) (remove i s) := by
  have hslot := remove_slot i s hr
  rw [remove_eq, raise_slot, slot_modSlot_same] at hslot
  rw [remove_eq]
  refine untouched_raise (untouched_modSlot (unseatedRun_untouched i s) ?_) _ _
  rw [hslot]
  exact ⟨rfl, hr.symm, rfl, rfl, rfl, rfl⟩

/-- The record is cleared after the evaluation, from EMPTY to EMPTY. -/
theorem settled_remove (i : Fin 16) (s : State) : Settled (remove i s) := by
  have h : ((unseatedRun i s).slot i).state = .empty := by rw [(unseatedRun_slot i s).1]; rfl
  have hrun : Settled (unseatedRun i s) := settled_endRun i unseated _
  rw [remove_eq, State.modSlot]
  exact settled_raise (settled_setSlot_of_poweredNo (congrArg SlotState.poweredNo h) rfl hrun) _ _

/-- Settles O29: a removal is a run's end with the record cleared behind it, which leaves the evaluation settled. -/
theorem unseatedTaken : Obligations.UnseatedTaken := by
  intro i s hw hr hs
  obtain ⟨hline, hlots⟩ := unseatedRun_line i s
  refine ⟨refreshLamps (remove i s), keptOp (s.slot i).op, congrArg completed (seatWindowEnds_unseated hw hr hs),
    untouched_refreshLamps (remove_untouched i s hr), (refreshLamps_slot _ i).trans (remove_slot i s hr), rfl, ?_, ?_, ?_,
    admission_of_settled (settled_refreshLamps (settled_remove i s))⟩
  · rw [refreshLamps_line, remove_eq, raise_line, modSlot_line, hline]
  · rw [refreshLamps_lots, remove_eq, raise_lots, modSlot_lots, hlots]
    rfl
  · rw [refreshLamps_pool, remove_eq, raise_pool, modSlot_pool]
    exact (unseatedRun_slot i s).2

/-! ### Link loss (R11, R12) -/

theorem inRun_of_mem {x : SlotState} (h : x ∈ [SlotState.waitPower, .spinning, .active, .recovering, .cycling]) :
    x.inRun = true := by
  simp only [List.mem_cons, List.not_mem_nil, or_false] at h
  rcases h with rfl | rfl | rfl | rfl | rfl <;> rfl

theorem not_inRun_of_mem {x : SlotState} (h : x ∈ [SlotState.empty, .seated, .lotWait, .done, .faulted]) :
    x.inRun = false := by
  simp only [List.mem_cons, List.not_mem_nil, or_false] at h
  rcases h with rfl | rfl | rfl | rfl | rfl <;> rfl

/-- The link watch after its silence timer has run out. -/
abbrev unlinked (i : Fin 16) (s : State) : State := s.modSlot i fun x => { x with linkUp := false, silence := none }

theorem linkLost_idle {i : Fin 16} {s : State} (hs : (s.slot i).silence.isSome = true) (hr : (s.slot i).state.inRun = false) :
    linkLost i s = unlinked i s := by
  simp [linkLost, hs, hr]

theorem linkLost_inRun {i : Fin 16} {s : State} (hs : (s.slot i).silence.isSome = true) (hr : (s.slot i).state.inRun = true) :
    linkLost i s = faultSlot i .link none (unlinked i s) := by
  simp [linkLost, hs, hr]

theorem linkLost_untouched {i : Fin 16} {s : State} (hs : (s.slot i).silence.isSome = true) :
    Untouched (unlinked i s) (linkLost i s) := by
  cases hr : (s.slot i).state.inRun with
  | false => rw [linkLost_idle hs hr]; exact .refl _
  | true =>
    rw [linkLost_inRun hs hr]
    refine moves_untouched (moves_faultSlot (strict := true) i _ _ _ ?_ ?_) <;>
      · intro e
        simp only [slot_modSlot_same] at e
        rw [e] at hr
        cases hr

theorem faultSlot_line (i : Fin 16) (r : Reason) (d : Option (List Byte)) (s : State) :
    (faultSlot i r d s).line = s.line.raised i.val (.slotFaulted r d) ∧ (faultSlot i r d s).lots = s.lots := by
  simp only [faultSlot, raise_line, raise_lots, endRun_line, and_self]

theorem settled_faultSlot (i : Fin 16) (r : Reason) (d : Option (List Byte)) (s : State) : Settled (faultSlot i r d s) :=
  settled_raise (settled_endRun i _ s) _ _

/-- Settles O30, by whether the slot is in a run. -/
theorem linkLossActs : Obligations.LinkLossActs := by
  intro i s hs
  refine ⟨refreshLamps (linkLost i s), rfl, untouched_refreshLamps (linkLost_untouched hs), fun hm => ?_, fun hm => ?_⟩
  · rw [linkLost_idle hs (not_inRun_of_mem hm)]
    obtain ⟨hsame, hothers⟩ := sameOutsideSlots_modSlot s i fun x => { x with linkUp := false, silence := none }
    exact ⟨hsame, hothers, (refreshLamps_slot _ i).trans (slot_modSlot_same s i _)⟩
  · rw [linkLost_inRun hs (inRun_of_mem hm)]
    obtain ⟨hline, hlots⟩ := faultSlot_line i .link none (unlinked i s)
    obtain ⟨hslot, hwait⟩ := faultSlot_slot i .link none (unlinked i s)
    simp only [refreshLamps_lots, refreshLamps_pool, refreshLamps_line, refreshLamps_slot]
    refine ⟨hlots, hwait, hline, admission_of_settled (settled_refreshLamps (settled_faultSlot i _ _ _)),
      { (s.slot i).sweep.retired with hand := [] }, rfl, rfl, rfl, rfl, ?_⟩
    rw [hslot, slot_modSlot_same]
    rfl

/-! ### Hold and release (R16, R58, R106) -/

/-- A hold is one change of the slot's record and an evaluation. -/
theorem hold_eq (i : Fin 16) (s : State) : hold i s = admission (s.setSlot i { s.slot i with
    held := true, sweep := { (s.slot i).sweep with bands := (s.slot i).sweep.bands.map Band.stopped } }) := by
  simp [hold, voidRunning, State.modSweep, State.modSlot]

theorem hold_untouched (i : Fin 16) (s : State) : Untouched (s.modSlot i fun x => { x with held := true }) (hold i s) :=
  untouched_admission (quiet_untouched (quiet_voidRunning i _))

/-- The release without what it lets go on. -/
abbrev freed (i : Fin 16) (s : State) : State := admission (s.setSlot i { s.slot i with held := false })

theorem freed_slot {i : Fin 16} {s : State} (h : (s.slot i).state ≠ .waitPower) :
    (freed i s).slot i = { s.slot i with held := false } := by
  rw [admission_slot _ _ (by simpa using h), slot_setSlot_same]

theorem freed_state_ne_active {i : Fin 16} {s : State} (h : (s.slot i).state ≠ .active) :
    ((freed i s).slot i).state ≠ .active :=
  admission_state_ne_active (by simpa using h)

theorem releaseHold_of_not_paused {i : Fin 16} {s : State} (h : s.paused i = false) : releaseHold i s = freed i s := by
  simp [releaseHold, h, State.modSlot]

theorem releaseHold_of_paused {i : Fin 16} {s : State} (h : s.paused i = true) :
    releaseHold i s = unmet (pauseLifts i) (freed i s) := by
  simp [releaseHold, h, State.modSlot]

theorem unmet_of_eq {f : State → State} {s : State} (h : f { s with pending := [] } = { s with pending := [] }) :
    unmet f s = s := by
  rw [unmet, h]

theorem releaseHold_zoneFault {i : Fin 16} {s : State} (hz : (s.zone (zoneOf i)).state = .fault) :
    releaseHold i s = freed i s := by
  rw [releaseHold_of_paused (paused_of_zone hz)]
  refine unmet_of_eq (pauseLifts_of_paused (paused_of_zone ?_))
  exact (congrArg Zone.state (admission_zone _ _)).trans hz

/-- A release goes on with nothing where no pause lifts from a slot in ACTIVE. -/
theorem releaseHold_idle {i : Fin 16} {s : State}
    (h : (s.slot i).held = false ∨ (s.zone (zoneOf i)).state = .fault ∨ (s.slot i).state ≠ .active) :
    releaseHold i s = freed i s := by
  by_cases hz : (s.zone (zoneOf i)).state = .fault
  · exact releaseHold_zoneFault hz
  · rcases h with hh | hz' | ha
    · exact releaseHold_of_not_paused (paused_eq_false hh hz)
    · exact absurd hz' hz
    · cases hp : s.paused i with
      | false => exact releaseHold_of_not_paused hp
      | true =>
        rw [releaseHold_of_paused hp]
        exact unmet_of_eq (pauseLifts_of_ne_active (freed_state_ne_active ha))

theorem releaseHold_untouched (i : Fin 16) (s : State) :
    Untouched (s.modSlot i fun x => { x with held := false }) (releaseHold i s) := by
  have hv : Untouched (s.modSlot i fun x => { x with held := false }) (freed i s) := untouched_admission (.refl _)
  cases hp : s.paused i with
  | false => rw [releaseHold_of_not_paused hp]; exact hv
  | true =>
    rw [releaseHold_of_paused hp]
    exact hv.trans (moves_untouched (moves_unmet (strict := true) _ (moves_pauseLifts i) _))

/-- A release that lifts the pause of a slot in ACTIVE (R58). -/
theorem releaseHold_resumes {i : Fin 16} {s : State} {plan : Plan} (hh : (s.slot i).held = true)
    (hz : (s.zone (zoneOf i)).state ≠ .fault) (ha : (s.slot i).state = .active) (hpl : s.planOf i = some plan) :
    Resumes i plan (freed i s) (releaseHold i s) := by
  have hw : (s.slot i).state ≠ .waitPower := by rw [ha]; decide
  have hslot := freed_slot hw
  have hplan : (freed i s).planOf i = some plan := by
    rw [admission_planOf _ _ (by simpa using hw), planOf_setSlot (by rfl), hpl]
  have hpaused : (freed i s).paused i = false :=
    paused_eq_false (by rw [hslot]) (by rw [admission_zone, setSlot_zone]; exact hz)
  rw [releaseHold_of_paused (by simp [State.paused, hh])]
  exact resumes_pending (resumes_pauseLifts (s := { freed i s with pending := [] }) hplan
    (show ((freed i s).slot i).state = .active by rw [hslot]; exact ha) hpaused)

/-- SLOT HOLD of a slot the tray has. -/
theorem slotHold_taken {i : Fin 16} {r : Req} {s : State} (hd : s.line.deaf = false)
    (hr : r.fields = [BitVec.ofNat 8 i.val]) : Answers (.slotHold r) r 0x21#8 (Reply.ok []) s (hold i s.hunting) :=
  slotHold_answers hd (by rw [hr]; exact withSlot_val i _ _)

/-- SLOT RELEASE of a slot the tray has. -/
theorem slotRelease_taken {i : Fin 16} {r : Req} {s : State} (hd : s.line.deaf = false)
    (hr : r.fields = [BitVec.ofNat 8 i.val]) : Answers (.slotRelease r) r 0x22#8 (Reply.ok []) s (releaseHold i s.hunting) :=
  slotRelease_answers hd (by rw [hr]; exact withSlot_val i _ _)

/-- Settles O33: a hold is a record change and an evaluation; a release is that, and the executor goes on where a pause lifts. -/
theorem slotHoldAndRelease : Obligations.SlotHoldAndRelease := by
  refine ⟨fun i r s hd hr => ⟨⟨hold i s.hunting, slotHold_taken hd hr, hold_eq i _, hold_untouched i _, ?_, ?_, ?_⟩,
    releaseHold i s.hunting, slotRelease_taken hd hr, releaseHold_untouched i _, ?_,
    fun h => releaseHold_idle (s := s.hunting) h, ?_⟩, ?_⟩
  · rw [hold_eq, admission_lots, setSlot_lots, hunting_lots]
  · intro j hj hw
    rw [hold_eq, admission_slot _ _ (by rw [slot_setSlot_ne _ _ hj]; exact hw), slot_setSlot_ne _ _ hj, hunting_slot]
  · intro hw
    rw [hold_eq, admission_slot _ _ (by simpa using hw), slot_setSlot_same, hunting_slot]
  · intro hz hw
    rw [releaseHold_zoneFault (s := s.hunting) hz]
    exact freed_slot (s := s.hunting) hw
  · exact fun plan hh hz ha hpl => releaseHold_resumes hh hz ha hpl
  · intro a r s hd ha hr
    exact ⟨slotHold_answers hd (by rw [hr]; exact withSlot_of_le ha _ _),
      slotRelease_answers hd (by rw [hr]; exact withSlot_of_le ha _ _)⟩

/-! ### Abort (R15) -/

theorem inUse_of_mem {x : SlotState} (h : x ∈ [SlotState.waitPower, .spinning, .active, .recovering, .cycling, .lotWait]) :
    x.inUse = true := by
  simp only [List.mem_cons, List.not_mem_nil, or_false] at h
  rcases h with rfl | rfl | rfl | rfl | rfl | rfl <;> rfl

theorem not_inUse_of_mem {x : SlotState} (h : x ∈ [SlotState.empty, .seated, .done, .faulted]) : x.inUse = false := by
  simp only [List.mem_cons, List.not_mem_nil, or_false] at h
  rcases h with rfl | rfl | rfl | rfl <;> rfl

theorem slotAbort_inUse {i : Fin 16} {s : State} (h : (s.slot i).state.inUse = true) :
    slotAbort [BitVec.ofNat 8 i.val] s = (abortRun i s, Reply.ok []) := by
  rw [slotAbort, withSlot_val]
  exact if_pos h

theorem slotAbort_not_inUse {i : Fin 16} {s : State} (h : (s.slot i).state.inUse = false) :
    slotAbort [BitVec.ofNat 8 i.val] s = (s, Reply.refuse .badState) := by
  rw [slotAbort, withSlot_val, h]
  rfl

/-- What an abort makes of the released record (R15). -/
def aborted (x : Slot) : Slot := { x with state := .done, outcome := some .aborted, reason := .none, grade := none }

theorem abortRun_slot (i : Fin 16) (s : State) :
    (abortRun i s).slot i = { aborted (s.slot i).released with sweep := { (s.slot i).sweep.retired with hand := [] } } ∧
    i ∉ (abortRun i s).pool.waiting :=
  endRun_slot i aborted (leaveLotList i s) (by simp [aborted])

theorem abortRun_line (i : Fin 16) (s : State) :
    (abortRun i s).line = s.line ∧ (abortRun i s).lots = (leaveLotList i s).lots :=
  endRun_line i aborted (leaveLotList i s)

/-- Settles O34: an abort accepted is a run's end in DONE; by the state of the slot, then by the slot number. -/
theorem slotAbortEndsTheRun : Obligations.SlotAbortEndsTheRun := by
  refine ⟨fun i r s hd hr => ⟨fun hm => ?_, fun hm => ?_⟩, fun a r s hd ha hr => ?_⟩
  · have hu : (s.hunting.slot i).state.inUse = true := inUse_of_mem hm
    obtain ⟨hslot, hwait⟩ := abortRun_slot i s.hunting
    obtain ⟨hline, hlots⟩ := abortRun_line i s.hunting
    exact ⟨abortRun i s.hunting, slotAbort_answers hd (by rw [hr]; exact slotAbort_inUse hu),
      moves_untouched (moves_abortRun (strict := true) i _ hu), hline, admission_of_settled (settled_endRun i aborted _), hlots, hwait,
      { (s.slot i).sweep.retired with hand := [] }, rfl, rfl, rfl, rfl, hslot⟩
  · exact slotAbort_answers hd (by rw [hr]; exact slotAbort_not_inUse (not_inUse_of_mem hm))
  · exact slotAbort_answers hd (by rw [hr]; exact withSlot_of_le ha _ _)

end Sys2Proof.Proofs
end

section
/-! SUPPORT. The candidate of an admission evaluation (R26, R27), how an evaluation begins again behind a grant (R28), what a
grant changes (R29), and what an evaluation leaves alone. -/

namespace Sys2Proof.Machine

/-! ### The candidate -/

theorem slotIds_eq_finRange : slotIds = List.finRange 16 := rfl

/-- The search of the slots in number order finds the least. -/
theorem slotIds_find?_of_least {p : Fin 16 → Bool} {k : Fin 16} (hk : p k = true) (hleast : ∀ j, p j = true → k ≤ j) :
    slotIds.find? p = some k := by
  rw [slotIds_eq_finRange, List.find?_eq_some_iff_getElem]
  refine ⟨hk, k.val, by simp, by simp, fun j hj => ?_⟩
  have hlt : (⟨j, by omega⟩ : Fin 16) < k := hj
  have hp : p ⟨j, by omega⟩ ≠ true := fun h => absurd (hleast _ h) (not_le.2 hlt)
  simpa using hp

/-- A slot the evaluation may grant: in WAIT_POWER, held no (R26, R27). -/
def Slot.grantable (x : Slot) : Bool := decide (x.state = .waitPower) && !x.held

theorem Slot.grantable_iff (x : Slot) : x.grantable = true ↔ x.state = .waitPower ∧ x.held = false := by
  simp [Slot.grantable]

/-- The candidate by its distance from the pointer. -/
theorem candidate_eq (s : State) : s.candidate =
    (slotIds.find? fun k => (s.slot (s.power.pointer + k + 1)).grantable).map fun k => s.power.pointer + k + 1 := by
  simp [State.candidate, State.pendingList, priorityOrder, List.find?_filter, List.find?_map, Slot.grantable]

/-- The slot as far behind the pointer as `i` is `i`. -/
theorem pointer_add_distance (p i : Fin 16) : p + (i - p - 1) + 1 = i := by abel

theorem distance_pointer_add (p k : Fin 16) : p + k + 1 - p - 1 = k := by abel

theorem candidate_eq_none {s : State} (h : ∀ i, (s.slot i).state = .waitPower → (s.slot i).held = true) :
    s.candidate = none := by
  rw [candidate_eq, Option.map_eq_none_iff, List.find?_eq_none]
  intro k _ hk
  obtain ⟨hwait, hheld⟩ := (Slot.grantable_iff _).1 hk
  rw [h _ hwait] at hheld
  cases hheld

/-- The candidate is the slot in WAIT_POWER, held no, that comes first after the pointer (R27). -/
theorem candidate_eq_some {s : State} {i : Fin 16} (hwait : (s.slot i).state = .waitPower) (hheld : (s.slot i).held = false)
    (hfirst : ∀ j, (s.slot j).state = .waitPower → (s.slot j).held = false →
      (i - s.power.pointer - 1).val ≤ (j - s.power.pointer - 1).val) : s.candidate = some i := by
  have hfind : (slotIds.find? fun k => (s.slot (s.power.pointer + k + 1)).grantable) = some (i - s.power.pointer - 1) := by
    refine slotIds_find?_of_least ?_ fun k hk => ?_
    · rw [pointer_add_distance]
      exact (Slot.grantable_iff _).2 ⟨hwait, hheld⟩
    · obtain ⟨hkw, hkh⟩ := (Slot.grantable_iff _).1 hk
      have hle := hfirst _ hkw hkh
      rwa [distance_pointer_add] at hle
  rw [candidate_eq, hfind, Option.map_some, pointer_add_distance]

/-! ### The rounds of an evaluation -/

theorem admission_of_reserve {s : State} {r : Nat} (h : reserveOf s = some r) : admission s = s.setReservation r :=
  evaluate_reserving h 16

theorem reserveOf_no_place {s : State} (h : s.power.limit ≤ s.spinCount) : reserveOf s = some 0 := if_pos h

theorem reserveOf_no_candidate {s : State} (hc : s.candidate = none) : reserveOf s = some 0 := by
  simp [reserveOf, hc]

section
variable {s : State} {i : Fin 16} (hl : s.spinCount < s.power.limit) (hc : s.candidate = some i)
include hl hc

theorem reserveOf_short (hb : s.power.budget < s.committed + s.need i) : reserveOf s = some (s.need i) := by
  simp [reserveOf, not_le.2 hl, hc, not_le.2 hb]

theorem evaluate_grant (hb : s.committed + s.need i ≤ s.power.budget) (n : Nat) :
    evaluate (n + 1) s = evaluate n (grant i s) := by
  simp [evaluate, not_le.2 hl, hc, hb]

end

/-- More rounds than slots that wait are as good as one more. -/
theorem evaluate_succ_of_card_lt (n : Nat) (s : State) (h : (awaiting s).card < n) : evaluate (n + 1) s = evaluate n s := by
  induction n generalizing s with
  | zero => omega
  | succ n ih =>
    cases hr : reserveOf s with
    | some r => rw [evaluate_reserving hr, evaluate_reserving hr]
    | none =>
      obtain ⟨i, hi, he⟩ := evaluate_granting hr
      have hlt := Finset.card_erase_lt_of_mem ((mem_awaiting s i).2 hi)
      rw [he, he]
      exact ih _ (by rw [awaiting_grant]; omega)

/-- A candidate that fits is granted and the evaluation begins again (R28). -/
theorem admission_grant {s : State} {i : Fin 16} (hl : s.spinCount < s.power.limit) (hc : s.candidate = some i)
    (hb : s.committed + s.need i ≤ s.power.budget) : admission s = admission (grant i s) := by
  have hcard : (awaiting (grant i s)).card < 16 := by
    have hlt := Finset.card_erase_lt_of_mem ((mem_awaiting s i).2 (candidate_waits hc))
    have hle : (awaiting s).card ≤ 16 := Finset.card_le_univ _
    rw [awaiting_grant]
    omega
  rw [admission, evaluate_grant hl hc hb, admission, evaluate_succ_of_card_lt 16 _ hcard]

/-! ### A grant -/

/-- A grant, by a plan that gives SPIN its timeout (R29, R66). -/
theorem grant_planned {s : State} {i : Fin 16} {plan : Plan} (h : s.planOf i = some plan) :
    grant i s = (s.setSlot i { s.slot i with
      state := .spinning, powered := true
      op := (s.slot i).op.sending .spin s.now (plan.spinTimeout * 1000) }).withPower { s.power with pointer := i } := by
  have hplan : ((s.withPower { s.power with pointer := i }).modSlot i fun x =>
      { x with state := .spinning, powered := true }).planOf i = some plan := by
    rw [← h]
    exact planOf_setSlot rfl
  rw [grant, issue_planned hplan]
  simp only [State.modOp, State.modSlot, slot_setSlot_same, setSlot_setSlot]
  rfl

/-! ### What an evaluation leaves alone -/

theorem evaluate_work (n : Nat) (s : State) : (evaluate n s).work = s.work := by
  induction n generalizing s with
  | zero => rfl
  | succ n ih =>
    cases hr : reserveOf s with
    | some r => rw [evaluate_reserving hr, setReservation_work]
    | none =>
      obtain ⟨i, -, he⟩ := evaluate_granting hr
      rw [he, ih]
      rfl

theorem admissionOnly_admission (s : State) : AdmissionOnly s (admission s) where
  untouched := untouched_admission (.refl s)
  line := admission_line s
  pool := admission_pool s
  work := evaluate_work 17 s
  lots := admission_lots s
  slots := admission_slot s

end Sys2Proof.Machine
end

section
/-! SUPPORT. BUDGET SET: its fields clamped (R36), and the recompute of the four zones (R33 to R35). -/

namespace Sys2Proof.Machine

/-! ### The recompute -/

theorem recomputeZones_eq (s : State) : recomputeZones s = { s with zones := (recomputeZones s).zones } := rfl

/-- Every zone takes its part of the one share (R35). -/
theorem recomputeZones_zone (s : State) (z : Fin 4) : (recomputeZones s).zone z =
    (s.zone z).applyAllowance (s.power.cost.get z) (if (s.zone z).demanding then s.share else 0) := by
  fin_cases z <;> simp [recomputeZones, quadIds, zone_setZone]

theorem Zone.applyAllowance_eq (z : Zone) (cost allowance : Nat) : z.applyAllowance cost allowance = z.allowed cost allowance :=
  rfl

theorem Zone.demanding_iff (z : Zone) : z.demanding = true ↔ (z.state = .ramp ∨ z.state = .soak) ∧ 0 < z.demand := by
  simp [Zone.demanding]

theorem Zone.shareOf_eq (z : Zone) (share : Nat) : (if z.demanding then share else 0) = z.shareOf share := by
  simp only [Zone.shareOf, Zone.demanding_iff]

/-- The share of R33 by the budget in force. -/
theorem share_eq (s : State) : s.share = heaterPoolOf s.power.budget s / demandersIn [0, 1, 2, 3] s := by
  have hcount : s.demandCount = demandersIn [0, 1, 2, 3] s := by
    unfold State.demandCount demandersIn
    congr 2
    funext z
    rw [Bool.eq_iff_iff, Zone.demanding_iff, decide_eq_true_iff]
  rw [State.share, hcount]
  rfl

/-! ### The fields -/

/-- The heater costs of a BUDGET SET, each from its own field. -/
theorem budgetFields_cost (f : List Byte) (p : Power) (z : Fin 4) :
    (budgetFields f p).cost.get z = max 10 (min 400 (fieldAt f (3 + 2 * z.val) 2)) := by
  fin_cases z <;> rfl

theorem budgetFields_budget (f : List Byte) (p : Power) : (budgetFields f p).budget = min 2000 (fieldAt f 0 2) :=
  Nat.zero_max _

/-- The settings in force, for each zone its heater cost (R36). -/
theorem inForce_eq (p : Power) :
    p.inForce = le 2 p.budget ++ le 1 p.limit ++ [0, 1, 2, 3].flatMap fun z => le 2 (p.cost.get z) := rfl

/-- The clamped values, as the reply gives them back. -/
theorem budgetFields_inForce (f : List Byte) (p : Power) : (budgetFields f p).inForce =
    le 2 (min 2000 (fieldAt f 0 2)) ++ le 1 (max 1 (min 8 (fieldAt f 2 1))) ++
      [0, 1, 2, 3].flatMap fun z : Fin 4 => le 2 (max 10 (min 400 (fieldAt f (3 + 2 * z.val) 2))) := by
  simp only [inForce_eq, budgetFields_budget, budgetFields_cost]
  rfl

/-! ### The request -/

theorem budgetSet_refused {f : List Byte} {s : State} (hf : f.length = 11)
    (h : (budgetFields f s.power).budget < s.driveTotal ∨ (budgetFields f s.power).limit < s.spinCount) :
    budgetSet f s = (s, { result := .belowCommitted, fields := s.power.inForce }) := by
  rw [budgetSet, withLength, if_pos hf, budgetTaken, if_pos h]

theorem budgetSet_stored {f : List Byte} {s : State} (hf : f.length = 11)
    (hb : s.driveTotal ≤ (budgetFields f s.power).budget) (hl : s.spinCount ≤ (budgetFields f s.power).limit) :
    budgetSet f s = (admission (recomputeZones (s.withPower (budgetFields f s.power))),
      Reply.ok (budgetFields f s.power).inForce) := by
  rw [budgetSet, withLength, if_pos hf, budgetTaken, if_neg (by omega)]

theorem budgetSet_answers {r : Req} {s u : State} {rep : Reply} (hd : s.line.deaf = false)
    (h : budgetSet r.fields s.hunting = (u, rep)) : Answers (.budgetSet r) r 0x12#8 rep s u :=
  answers_taken rfl hd (fun _ => rfl) h

end Sys2Proof.Machine
end

section
/-! The statements about the power budget and admission (O35, O36). -/

namespace Sys2Proof.Proofs

open Sys2Proof Sys2Proof.Machine

/-- Settles O35: one round by whether there is a place, a candidate, and power for it; and the parts of a grant. -/
theorem admissionEvaluation : Obligations.AdmissionEvaluation := by
  refine ⟨fun s => ⟨fun hfull => admission_of_reserve (reserveOf_no_place hfull), fun hl => ⟨fun hnone => ?_, ?_⟩⟩,
    fun i plan s hplan => grant_planned hplan⟩
  · exact admission_of_reserve (reserveOf_no_candidate (candidate_eq_none hnone))
  · intro i hwait hheld hfirst
    have hc : s.candidate = some i := candidate_eq_some hwait hheld hfirst
    exact ⟨admission_grant hl hc, fun hb => admission_of_reserve (reserveOf_short hl hc hb)⟩

/-- Settles O36: the clamped fields are refused or stored, and each zone takes its allowance by them. -/
theorem budgetSetTakenOrRefused : Obligations.BudgetSetTakenOrRefused := by
  intro r s hd hf
  dsimp only
  rw [← budgetFields_inForce r.fields s.power, ← budgetFields_budget r.fields s.power]
  refine ⟨fun h => ?_, fun hb hl => ?_⟩
  · exact budgetSet_answers hd (budgetSet_refused (s := s.hunting) hf h)
  · have hstored := budgetSet_stored (s := s.hunting) hf hb hl
    refine ⟨recomputeZones (s.hunting.withPower (budgetFields r.fields s.power)), _,
      budgetSet_answers hd hstored, rfl, admissionOnly_admission _, recomputeZones_eq _,
      rfl, rfl, rfl, fun z => ⟨budgetFields_cost _ _ z, ?_⟩⟩
    rw [recomputeZones_zone, Zone.shareOf_eq, Zone.applyAllowance_eq, share_eq, withPower_power, budgetFields_cost]
    rfl

end Sys2Proof.Proofs
end

section
/-! SUPPORT. The end of a run in REJECT (R74, R83): the record, the notice and the settled evaluation it leaves. -/

namespace Sys2Proof.Machine

/-- What a rejection makes of the released record: DONE with REJECT and no demerit (R74, R83). -/
def rejected (r : Reason) (x : Slot) : Slot := { x with state := .done, outcome := some .reject, reason := r, grade := none }

theorem rejectRun_eq (i : Fin 16) (r : Reason) (s : State) : rejectRun i r s =
    raise i.val (.slotGraded (.ended .reject) r none ((endRun i (rejected r) s).slot i).retests none)
      (endRun i (rejected r) s) := rfl

theorem rejectRun_slot (i : Fin 16) (r : Reason) (s : State) :
    (rejectRun i r s).slot i = { rejected r (s.slot i).released with sweep := { (s.slot i).sweep.retired with hand := [] } } ∧
    i ∉ (rejectRun i r s).pool.waiting :=
  endRun_slot i (rejected r) s (by simp [rejected])

/-- The notice carries the retests of the run that ends (R74). -/
theorem rejectRun_line (i : Fin 16) (r : Reason) (s : State) :
    (rejectRun i r s).line = s.line.raised i.val (.slotGraded (.ended .reject) r none (s.slot i).retests none) ∧
    (rejectRun i r s).lots = s.lots := by
  obtain ⟨hline, hlots⟩ := endRun_line i (rejected r) s
  obtain ⟨hslot, -⟩ := endRun_slot i (rejected r) s (by simp [rejected])
  rw [rejectRun_eq, raise_line, raise_lots, hline, hlots, hslot]
  exact ⟨rfl, rfl⟩

theorem settled_rejectRun (i : Fin 16) (r : Reason) (s : State) : Settled (rejectRun i r s) :=
  settled_raise (settled_endRun i (rejected r) s) _ _

end Sys2Proof.Machine
end

section
/-! SUPPORT. How a completion reaches the operation it ends (R68), and how one of ERROR ABORTED is taken (R69, R74). -/

namespace Sys2Proof.Machine

theorem holdsOp_of_mem {x : SlotState} (h : x ∈ [SlotState.spinning, .active, .recovering]) : x.holdsOp = true := by
  simp only [List.mem_cons, List.not_mem_nil, or_false] at h
  rcases h with rfl | rfl | rfl <;> rfl

/-- A completion under the tag of the operation outstanding is handled for that operation (R68). -/
theorem completionArrives_matched {i : Fin 16} {c : Completion} {s : State} {op : Op}
    (ho : (s.slot i).op.outstanding = some op) (ht : c.tag = (s.slot i).op.tag) :
    completionArrives i (.record c) s = handle i op c (s.now - (s.slot i).op.issuedAt) s := by
  simp only [completionArrives, ho, if_pos ht]

/-- ERROR ABORTED is read as such whatever the operation (R69). -/
theorem readCompletion_aborted (x : Slot) (op : Op) {c : Completion} (hs : c.status = .error) (he : c.error = .aborted) :
    readCompletion x op c = .aborted := by
  simp only [readCompletion, hs, he]

/-- In a state that holds an operation ERROR ABORTED of any kind rejects the run, at any recovery stage (R74). -/
theorem handle_aborted {i : Fin 16} {op : Op} {c : Completion} {ms : Nat} {s : State} (hs : c.status = .error)
    (he : c.error = .aborted) (hh : (s.slot i).state.holdsOp = true) :
    handle i op c ms s = rejectRun i .driveRefused (s.modOp i OpUnit.closed) := by
  have hclosed : ((s.modOp i OpUnit.closed).slot i).state.holdsOp = true := by
    rwa [State.modOp, slot_modSlot_same]
  simp only [handle, readCompletion_aborted _ op hs he, if_pos hclosed]

end Sys2Proof.Machine
end

section
/-! The statements about drive operations and recovery (O52). -/

namespace Sys2Proof.Proofs

open Sys2Proof Sys2Proof.Machine

/-- Settles O52: ERROR ABORTED closes the operation and rejects the run, which ends with the evaluation settled. -/
theorem abortedEndsThePlan : Obligations.AbortedEndsThePlan := by
  intro i c s ho ht hs he hm
  obtain ⟨op, ho⟩ := Option.isSome_iff_exists.1 ho
  have htaken := (completionArrives_matched ho ht).trans (handle_aborted hs he (holdsOp_of_mem hm))
  have huntouched := moves_untouched (moves_completionArrives (strict := true) i (.record c) s)
  obtain ⟨hslot, hwait⟩ := rejectRun_slot i .driveRefused (s.modOp i OpUnit.closed)
  obtain ⟨hline, hlots⟩ := rejectRun_line i .driveRefused (s.modOp i OpUnit.closed)
  rw [State.modOp, slot_modSlot_same] at hslot hline
  refine ⟨refreshLamps (completionArrives i (.record c) s), rfl, untouched_refreshLamps huntouched, ?_⟩
  simp only [refreshLamps_lots, refreshLamps_pool, refreshLamps_line, refreshLamps_slot]
  rw [htaken]
  refine ⟨hlots, hwait, admission_of_settled (settled_refreshLamps (settled_rejectRun i _ _)), hline,
    { (s.slot i).sweep.retired with hand := [] }, rfl, rfl, rfl, rfl, hslot⟩

end Sys2Proof.Proofs
end

section
/-! SUPPORT. What a request and the framer do to a law of the state: where a change of the line keeps the law, they keep it as
far as the requests' handlers do. With it, what the two loads leave alone. -/

namespace Sys2Proof.Machine

variable {P : State → Prop}

/-! ### The checks before a handler -/

theorem withLength_keeps {n : Nat} {fields : List Byte} {s : State} {k : State × Reply} (hs : P s) (hk : P k.1) :
    P (withLength n fields s k).1 := by
  unfold withLength
  split
  · exact hk
  · exact hs

theorem withSlot_keeps {fields : List Byte} {s : State} {k : Fin 16 → State × Reply} (hs : P s) (hk : ∀ i, P (k i).1) :
    P (withSlot fields s k).1 := by
  refine withLength_keeps hs ?_
  split
  · exact hs
  · exact hk _

/-! ### The line -/

theorem taken_keeps (hline : ∀ u l, P u → P (u.withLine l)) {handler : List Byte → State → State × Reply}
    (hh : ∀ fields u, P u → P (handler fields u).1) {kind : Byte} {discards : Bool} {r : Req} {s : State} (hs : P s) :
    P (taken kind discards r handler s) := by
  have hhunt := hline s { s.line with held := [] } hs
  unfold taken
  split
  · exact hs
  · split
    · split
      · exact hhunt
      · exact hh _ _ hhunt
    · exact hline _ _ (hh _ _ hhunt)

theorem framer_keeps (hline : ∀ u l, P u → P (u.withLine l)) (hbody : ∀ broadcast body u, P u → P (bodyTaken broadcast body u))
    (n : Nat) (again : List Byte) (chars : List LineChar) (s : State) (hs : P s) : P (framer n again chars s) := by
  induction n generalizing again chars s with
  | zero => exact hs
  | succ n ih =>
    match again, chars with
    | [], [] => exact hs
    | [], .byte b :: rest => exact ih _ _ _ hs
    | [], .badStop :: rest => exact ih _ _ _ (hline _ _ hs)
    | b :: again, rest =>
      rw [framer]
      split
      · exact ih _ _ _ (hline _ _ hs)
      · exact ih _ _ _ (hline _ _ hs)
      · simp only
        split
        · exact hbody _ _ _ (hline _ _ hs)
        · exact ih _ _ _ (hbody _ _ _ (hline _ _ hs))

theorem received_keeps (hline : ∀ u l, P u → P (u.withLine l))
    (hbody : ∀ broadcast body u, P u → P (bodyTaken broadcast body u)) (chars : List LineChar) (s : State) (hs : P s) :
    P (received chars s) := by
  unfold received
  split
  · exact hs
  · exact framer_keeps hline hbody _ _ _ _ hs

/-! ### The loads -/

theorem takePart_frame (id : Fin 4) (p : Part) (steps : List Step) (s : State) : (takePart id p steps s).1 =
    { s with plans := (takePart id p steps s).1.plans, staging := (takePart id p steps s).1.staging } := by
  unfold takePart
  simp only
  split
  · split
    · rfl
    · split <;> rfl
  · rfl

/-- PLAN LOAD changes plans and staging images alone (R42 to R46). -/
theorem planLoad_frame (fields : List Byte) (s : State) : (planLoad fields s).1 =
    { s with plans := (planLoad fields s).1.plans, staging := (planLoad fields s).1.staging } := by
  unfold planLoad
  split
  · rfl
  · split
    · rfl
    · split
      · rfl
      · split
        · rfl
        · split
          · rfl
          · split
            · rfl
            · exact takePart_frame _ _ _ s

/-- PROFILE LOAD changes profiles alone (R130, R131). -/
theorem profileLoad_frame (fields : List Byte) (s : State) :
    (profileLoad fields s).1 = { s with profiles := (profileLoad fields s).1.profiles } := by
  unfold profileLoad
  repeat' split
  all_goals rfl

end Sys2Proof.Machine
end

section
/-! SUPPORT. The law of the buffers (R97) through what is no run event: the resets, the pins, the zones, the requests and the tick.
Where these reach a run they do so by operations whose chains of moves stand above. -/

namespace Sys2Proof.Machine

/-! ### The parts the law reads: slots and pool alone -/

theorem bufferLaw_withLine (s : State) (l : Line) (k : BufferLaw s) : BufferLaw (s.withLine l) := k

theorem bufferLaw_modZone (s : State) (z : Fin 4) (f : Zone → Zone) (k : BufferLaw s) : BufferLaw (s.modZone z f) := k

theorem bufferLaw_withLots (s : State) (l : LotBuilder) (k : BufferLaw s) : BufferLaw (s.withLots l) := k

theorem bufferLaw_raise (n : Nat) (d : Detail) {s : State} (k : BufferLaw s) : BufferLaw (raise n d s) := k

theorem bufferLaw_refreshLamps {s : State} (k : BufferLaw s) : BufferLaw (refreshLamps s) := k

theorem bufferLaw_recomputeZones {s : State} (k : BufferLaw s) : BufferLaw (recomputeZones s) := by
  rw [recomputeZones_eq]
  exact k

theorem bufferLaw_modSlot {s : State} {i : Fin 16} {f : Slot → Slot}
    (hh : (f (s.slot i)).sweep.hand.length = (s.slot i).sweep.hand.length) (k : BufferLaw s) : BufferLaw (s.modSlot i f) :=
  bufferLaw_setSlot hh k

theorem bufferLaw_admission {s : State} (k : BufferLaw s) : BufferLaw (admission s) :=
  bufferLaw_moves (moves_admission (strict := false) s) k

theorem bufferLaw_admitIfChanged (before : List Nat) {s : State} (k : BufferLaw s) : BufferLaw (admitIfChanged before s) :=
  bufferLaw_moves (moves_admitIfChanged (strict := false) before s) k

theorem bufferLaw_unmet {f : State → State} (hf : ∀ s, Moves false s (f s)) {s : State} (k : BufferLaw s) :
    BufferLaw (unmet f s) :=
  bufferLaw_moves (moves_unmet f hf s) k

/-- A run's end returns what its slot holds, whatever record it leaves (R5, R99). -/
theorem bufferLaw_endRun (i : Fin 16) (f : Slot → Slot) (hf : ∀ x, (f x).sweep = x.sweep) {s : State} (k : BufferLaw s) :
    BufferLaw (endRun i f s) := by
  refine bufferLaw_moves (moves_endRun (strict := false) i f s) (bufferLaw_modSlot ?_ k)
  rw [hf]
  rfl

/-! ### The resets -/

/-- With every buffer free no slot may hold one. -/
theorem bufferLaw_of_no_hand {s : State} (hf : s.pool.free = 24) (hh : ∀ i, (s.slot i).sweep.hand = []) : BufferLaw s := by
  have hheld : s.buffersHeld = 0 := by simp [State.buffersHeld, hh]
  refine ⟨by omega, fun i => ?_⟩
  simp [hh]

theorem bufferLaw_powerOn (address : BitVec 5) (rate : RateStrap) (s : State) : BufferLaw (powerOn address rate s) := by
  refine bufferLaw_of_no_hand rfl fun i => ?_
  simp [powerOn, State.slot, Vector.get_eq_getElem, Slot.poweredOn, Slot.reset, Sweep.reset]

theorem bufferLaw_restart (s : State) : BufferLaw (restart s) := by
  refine bufferLaw_of_no_hand rfl fun i => ?_
  simp [restart, State.slot, Vector.get_eq_getElem, Slot.restarted, Slot.reset, Sweep.reset]

theorem bufferLaw_replySent {s : State} (k : BufferLaw s) : BufferLaw (replySent s) := by
  unfold replySent
  split
  · exact bufferLaw_withLine _ _ k
  · exact k

theorem bufferLaw_restartTaken {s : State} (k : BufferLaw s) : BufferLaw (restartTaken s) := by
  unfold restartTaken
  split
  · exact bufferLaw_restart _
  · exact k

/-! ### Pins and link -/

theorem bufferLaw_seatSense (i : Fin 16) (raw : Bool) {s : State} (k : BufferLaw s) : BufferLaw (seatSense i raw s) := by
  unfold seatSense
  split
  · exact k
  · exact bufferLaw_modSlot rfl k

/-- The buffers return as the run ends; the record cleared behind it keeps what is in hand (R9). -/
theorem bufferLaw_remove (i : Fin 16) {s : State} (k : BufferLaw s) : BufferLaw (remove i s) := by
  have hended := bufferLaw_endRun i (fun x => { x with state := .empty, seated := false, window := none }) (fun _ => rfl)
    (bufferLaw_moves (moves_leaveLotList (strict := false) i s) k)
  exact bufferLaw_raise _ _ (bufferLaw_modSlot (f := Slot.removed) rfl hended)

theorem bufferLaw_seatWindowEnds (i : Fin 16) {s : State} (k : BufferLaw s) : BufferLaw (seatWindowEnds i s) := by
  unfold seatWindowEnds
  simp only
  split
  · split
    · exact bufferLaw_raise _ _ (bufferLaw_modSlot rfl k)
    · exact bufferLaw_remove i k
  · exact k

theorem bufferLaw_beat (i : Fin 16) {s : State} (k : BufferLaw s) : BufferLaw (beat i s) := bufferLaw_modSlot rfl k

theorem inRun_not_resting {x : SlotState} (h : x.inRun = true) : x ≠ .empty ∧ x ≠ .lotWait :=
  ⟨fun e => by simp [e, SlotState.inRun] at h, fun e => by simp [e, SlotState.inRun] at h⟩

theorem bufferLaw_linkLost (i : Fin 16) {s : State} (k : BufferLaw s) : BufferLaw (linkLost i s) := by
  unfold linkLost
  split
  · have hdown : BufferLaw (s.modSlot i fun x => { x with linkUp := false, silence := none }) := bufferLaw_modSlot rfl k
    simp only
    split
    · rename_i hrun
      obtain ⟨hempty, hwait⟩ := inRun_not_resting hrun
      exact bufferLaw_moves (moves_faultSlot (strict := false) i .link none _ hempty hwait) hdown
    · exact hdown
  · exact k

/-! ### Zones and the sensor bus -/

theorem bufferLaw_startRead {s : State} (k : BufferLaw s) : BufferLaw (startRead s) := by
  unfold startRead
  split <;> exact k

theorem bufferLaw_endRead (z : Fin 4) {s : State} (k : BufferLaw s) : BufferLaw (endRead z s) := by
  unfold endRead
  split <;> exact k

/-- Of a zone's fault the pause of its slots voids bands alone (R106, R124). -/
theorem bufferLaw_faultZone (z : Fin 4) (reason : ZoneReason) {s : State} (k : BufferLaw s) : BufferLaw (faultZone z reason s) := by
  have hadmitted : BufferLaw (admitIfChanged s.commits (recomputeZones (s.modZone z (Zone.faulted reason)))) :=
    bufferLaw_admitIfChanged _ (bufferLaw_recomputeZones (bufferLaw_modZone s z _ k))
  exact bufferLaw_raise _ _ (bufferLaw_moves
    (moves_foldl (strict := false) voidRunning (fun i s => .of (quiet_voidRunning i s)) (zoneSlots z) _) hadmitted)

theorem bufferLaw_bandNotice (z : Fin 4) {s : State} (k : BufferLaw s) : BufferLaw (bandNotice z s) := by
  unfold bandNotice
  simp only
  split
  · exact bufferLaw_raise _ _ (bufferLaw_modZone s z _ k)
  · exact k

theorem bufferLaw_heatedPeriod (z : Fin 4) {s : State} (k : BufferLaw s) : BufferLaw (heatedPeriod z s) := by
  have hnoticed : BufferLaw (bandNotice z (s.modZone z fun x => x.ramped.banded)) :=
    bufferLaw_bandNotice z (bufferLaw_modZone s z _ k)
  exact bufferLaw_moves (moves_creditZone (strict := false) z _) (bufferLaw_admitIfChanged _ hnoticed)

theorem bufferLaw_zonePeriod (z : Fin 4) (read : SensorRead) {s : State} (k : BufferLaw s) : BufferLaw (zonePeriod z read s) := by
  have htaken : BufferLaw ((endRead z s).modZone z (Zone.readTaken (goodRead read))) :=
    bufferLaw_modZone _ z _ (bufferLaw_endRead z k)
  unfold zonePeriod
  simp only
  split
  · exact bufferLaw_faultZone z _ htaken
  · split
    · exact htaken
    · exact bufferLaw_admitIfChanged _ htaken
    · exact bufferLaw_admitIfChanged _ htaken
    · exact bufferLaw_heatedPeriod z htaken
    · exact bufferLaw_heatedPeriod z htaken

/-! ### Requests of power and zones -/

theorem bufferLaw_budgetSet (fields : List Byte) (s : State) (k : BufferLaw s) : BufferLaw (budgetSet fields s).1 := by
  refine withLength_keeps k ?_
  unfold budgetTaken
  split
  · exact k
  · exact bufferLaw_admission (bufferLaw_recomputeZones (s := s.withPower _) k)

theorem bufferLaw_runZone {z : Fin 4} {set : ZoneSettings} {s t : State} (h : runZone z set s = some t) (k : BufferLaw s) :
    BufferLaw t := by
  unfold runZone at h
  split at h
  · cases h
  · cases h
  · obtain rfl := Option.some.inj h
    exact bufferLaw_admitIfChanged _ (bufferLaw_modZone s z _ k)

theorem bufferLaw_stopZone {z : Fin 4} {set : ZoneSettings} {s t : State} (h : stopZone z set s = some t) (k : BufferLaw s) :
    BufferLaw t := by
  unfold stopZone at h
  split at h
  · cases h
  · obtain rfl := Option.some.inj h
    exact bufferLaw_modZone s z _ k
  · obtain rfl := Option.some.inj h
    exact bufferLaw_admitIfChanged _ (bufferLaw_recomputeZones (bufferLaw_modZone s z _ k))

theorem bufferLaw_clearZone {z : Fin 4} {set : ZoneSettings} {s t : State} (h : clearZone z set s = some t) (k : BufferLaw s) :
    BufferLaw t := by
  unfold clearZone at h
  split at h
  · split at h
    · obtain rfl := Option.some.inj h
      exact bufferLaw_unmet (moves_liftZone z) (bufferLaw_modZone s z _ k)
    · cases h
  · cases h

theorem bufferLaw_act {a : ZoneAction} {z : Fin 4} {set : ZoneSettings} {s t : State} (h : a.act z set s = some t)
    (k : BufferLaw s) : BufferLaw t := by
  cases a with
  | run => exact bufferLaw_runZone h k
  | stop => exact bufferLaw_stopZone h k
  | clear => exact bufferLaw_clearZone h k

theorem bufferLaw_zoneSet (fields : List Byte) (s : State) (k : BufferLaw s) : BufferLaw (zoneSet fields s).1 := by
  refine withLength_keeps k ?_
  split
  · exact k
  · split
    · exact k
    · split
      · exact k
      · rename_i hact
        exact bufferLaw_act hact k

/-! ### Requests of slots -/

theorem startable_state {x : Slot} (h : x.startable = true) : x.state = .seated ∨ x.state = .done := by
  simp only [Slot.startable, Bool.or_eq_true, Bool.and_eq_true, decide_eq_true_eq] at h
  exact h.imp_right And.left

theorem bufferLaw_slotStart (fields : List Byte) (s : State) (k : BufferLaw s) : BufferLaw (slotStart fields s).1 := by
  refine withLength_keeps k ?_
  split
  · exact k
  · exact k
  · exact k
  · split
    · exact k
    · rename_i hstart
      split
      · exact k
      · split
        · exact k
        · exact bufferLaw_moves (moves_startRun (strict := false) _ _ _ s (startable_state (by simpa using hstart))) k

theorem bufferLaw_hold (i : Fin 16) {s : State} (k : BufferLaw s) : BufferLaw (hold i s) :=
  bufferLaw_admission (bufferLaw_quiet (quiet_voidRunning i _) (bufferLaw_modSlot rfl k))

theorem bufferLaw_releaseHold (i : Fin 16) {s : State} (k : BufferLaw s) : BufferLaw (releaseHold i s) := by
  have hfreed : BufferLaw (admission (s.modSlot i fun x => { x with held := false })) :=
    bufferLaw_admission (bufferLaw_modSlot rfl k)
  unfold releaseHold
  simp only
  split
  · exact bufferLaw_unmet (moves_pauseLifts i) hfreed
  · exact hfreed

theorem bufferLaw_slotHold (fields : List Byte) (s : State) (k : BufferLaw s) : BufferLaw (slotHold fields s).1 :=
  withSlot_keeps k fun i => bufferLaw_hold i k

theorem bufferLaw_slotRelease (fields : List Byte) (s : State) (k : BufferLaw s) : BufferLaw (slotRelease fields s).1 :=
  withSlot_keeps k fun i => bufferLaw_releaseHold i k

theorem bufferLaw_slotAbort (fields : List Byte) (s : State) (k : BufferLaw s) : BufferLaw (slotAbort fields s).1 := by
  refine withSlot_keeps k fun i => ?_
  split
  · rename_i huse
    exact bufferLaw_moves (moves_abortRun (strict := false) i s huse) k
  · exact k

/-! ### Requests of lots -/

theorem bufferLaw_takeHead {s : State} (k : BufferLaw s) : BufferLaw (takeHead s) :=
  bufferLaw_moves (moves_drain (strict := false) _ nofun) (bufferLaw_withLots s _ k)

theorem bufferLaw_lotTake (fields : List Byte) (s : State) (k : BufferLaw s) : BufferLaw (lotTake fields s).1 := by
  refine withLength_keeps k ?_
  simp only
  split
  · exact k
  · exact k
  · split
    · exact k
    · split
      · exact k
      · split
        · exact k
        · simp only
          split
          · exact bufferLaw_takeHead k
          · exact k

theorem bufferLaw_lotClose (fields : List Byte) (s : State) (k : BufferLaw s) : BufferLaw (lotClose fields s).1 := by
  refine withLength_keeps k ?_
  split
  · exact k
  · exact k
  · split
    · exact k
    · exact k
    · exact bufferLaw_moves (moves_closeLot (strict := false) _ _ s) k

theorem bufferLaw_excludeSlot (i : Option (Fin 16)) {s : State} (k : BufferLaw s) : BufferLaw (excludeSlot i s) := by
  cases i with
  | none => exact k
  | some i => exact bufferLaw_modSlot rfl k

theorem bufferLaw_exclude (serial : List Byte) (x : Lot) (full : Bool) {s : State} (k : BufferLaw s) :
    BufferLaw (exclude serial x full s).1 := by
  have hslot : BufferLaw (excludeSlot (s.excludedSlot serial x.number) s) := bufferLaw_excludeSlot _ k
  unfold exclude
  simp only
  refine bufferLaw_withLots _ _ ?_
  split
  · exact bufferLaw_moves (moves_refill (strict := false) _ _ _ _ _ nofun) (bufferLaw_withLots _ _ hslot)
  · exact bufferLaw_withLots _ _ hslot

theorem bufferLaw_lotExclude (serial : List Byte) (s : State) (k : BufferLaw s) : BufferLaw (lotExclude serial s).1 := by
  refine withLength_keeps k ?_
  split
  · exact bufferLaw_exclude serial _ false k
  · exact bufferLaw_exclude serial _ true k
  · exact k

/-! ### Requests of the line and the stores -/

theorem bufferLaw_poll (fields : List Byte) (s : State) (k : BufferLaw s) : BufferLaw (poll fields s).1 := by
  refine withLength_keeps k ?_
  unfold pollAnswered
  split
  · exact k
  · exact bufferLaw_withLine s _ k

theorem bufferLaw_trayStatus (fields : List Byte) (s : State) (k : BufferLaw s) : BufferLaw (trayStatus fields s).1 :=
  withLength_keeps k (bufferLaw_withLine s _ k)

theorem bufferLaw_trayRestart (broadcast : Bool) (fields : List Byte) (s : State) (k : BufferLaw s) :
    BufferLaw (trayRestartHandler broadcast fields s).1 := by
  unfold trayRestartHandler
  split
  · exact withLength_keeps k (bufferLaw_restart s)
  · exact withLength_keeps k (bufferLaw_withLine s _ k)

theorem bufferLaw_planLoad (fields : List Byte) (s : State) (k : BufferLaw s) : BufferLaw (planLoad fields s).1 := by
  rw [planLoad_frame]
  exact k

theorem bufferLaw_profileLoad (fields : List Byte) (s : State) (k : BufferLaw s) : BufferLaw (profileLoad fields s).1 := by
  rw [profileLoad_frame]
  exact k

theorem bufferLaw_slotReport (fields : List Byte) (s : State) (k : BufferLaw s) : BufferLaw (slotReport fields s).1 :=
  withSlot_keeps k fun _ => k

theorem bufferLaw_lotStatus (fields : List Byte) (s : State) (k : BufferLaw s) : BufferLaw (lotStatus fields s).1 :=
  withLength_keeps k k

theorem bufferLaw_unknownKind (fields : List Byte) (s : State) (k : BufferLaw s) : BufferLaw (unknownKind fields s).1 := k

/-! ### The taking of requests -/

theorem bufferLaw_taken {handler : List Byte → State → State × Reply} (hh : ∀ fields u, BufferLaw u → BufferLaw (handler fields u).1)
    {kind : Byte} {discards : Bool} {r : Req} {s : State} (k : BufferLaw s) : BufferLaw (taken kind discards r handler s) :=
  taken_keeps bufferLaw_withLine hh k

theorem bufferLaw_requestTaken (kind : Byte) (r : Req) {s : State} (k : BufferLaw s) : BufferLaw (requestTaken kind r s) := by
  unfold requestTaken
  split
  · exact bufferLaw_taken bufferLaw_poll k
  · exact bufferLaw_taken bufferLaw_trayStatus k
  · exact bufferLaw_taken (bufferLaw_trayRestart r.broadcast) k
  · exact bufferLaw_taken bufferLaw_planLoad k
  · exact bufferLaw_taken bufferLaw_profileLoad k
  · exact bufferLaw_taken bufferLaw_budgetSet k
  · exact bufferLaw_taken bufferLaw_zoneSet k
  · exact bufferLaw_taken bufferLaw_slotStart k
  · exact bufferLaw_taken bufferLaw_slotHold k
  · exact bufferLaw_taken bufferLaw_slotRelease k
  · exact bufferLaw_taken bufferLaw_slotAbort k
  · exact bufferLaw_taken bufferLaw_slotReport k
  · exact bufferLaw_taken bufferLaw_lotStatus k
  · exact bufferLaw_taken bufferLaw_lotTake k
  · exact bufferLaw_taken bufferLaw_lotClose k
  · exact bufferLaw_taken bufferLaw_lotExclude k
  · exact bufferLaw_taken bufferLaw_unknownKind k

theorem bufferLaw_bodyTaken (broadcast : Bool) (body : List Byte) (s : State) (k : BufferLaw s) :
    BufferLaw (bodyTaken broadcast body s) := by
  unfold bodyTaken
  split
  · exact bufferLaw_requestTaken _ _ k
  · exact k

theorem bufferLaw_received (chars : List LineChar) {s : State} (k : BufferLaw s) : BufferLaw (received chars s) :=
  received_keeps bufferLaw_withLine bufferLaw_bodyTaken chars s k

/-! ### The timebase -/

theorem counted_hand (working : Bool) (x : Slot) : (Slot.counted working x).sweep.hand = x.sweep.hand := by
  cases working <;> rfl

theorem bufferLaw_countDown {s : State} (k : BufferLaw s) : BufferLaw (countDown s) := by
  have hnow : BufferLaw { s with now := s.now + 1 } := k
  refine List.foldlRecOn (motive := BufferLaw) slotIds _ hnow fun t ht i _ => ?_
  exact bufferLaw_modSlot (by rw [counted_hand]) ht

theorem bufferLaw_due {p : Slot → Bool} {event : Fin 16 → State → State} {i : Fin 16} {s : State}
    (he : BufferLaw s → BufferLaw (event i s)) (k : BufferLaw s) : BufferLaw (due p event i s) := by
  unfold due
  split
  · exact he k
  · exact k

theorem bufferLaw_takeDue (i : Fin 16) {s : State} (k : BufferLaw s) : BufferLaw (takeDue i s) := by
  unfold takeDue
  refine bufferLaw_due (bufferLaw_quiet (quiet_pacingEnds _ _)) ?_
  refine bufferLaw_due (bufferLaw_moves (moves_stepTimerEnds (strict := false) _ _)) ?_
  refine bufferLaw_due (bufferLaw_moves (moves_offTimeEnds (strict := false) i _)) ?_
  refine bufferLaw_due (bufferLaw_moves (moves_timeoutEnds (strict := false) i _ _)) ?_
  exact bufferLaw_due (bufferLaw_linkLost i) (bufferLaw_due (bufferLaw_seatWindowEnds i) k)

theorem bufferLaw_tick {s : State} (k : BufferLaw s) : BufferLaw (tick s) :=
  bufferLaw_refreshLamps
    (List.foldlRecOn (motive := BufferLaw) slotIds _ (bufferLaw_countDown k) fun _ ht i _ => bufferLaw_takeDue i ht)

/-! ### Every command -/

theorem bufferLaw_completed {s t u : State} (h : completed u = .next t) (k : BufferLaw s) (hu : BufferLaw s → BufferLaw u) :
    BufferLaw t := by
  obtain rfl := Host.Outcome.next.inj h
  exact bufferLaw_refreshLamps (hu k)

theorem bufferLaw_exec {c : Instr} {s t : State} (h : exec c s = .next t) (k : BufferLaw s) : BufferLaw t := by
  cases c with
  | powerOnReset address rate => exact bufferLaw_completed h k fun _ => bufferLaw_powerOn address rate s
  | poll r => exact bufferLaw_completed h k (bufferLaw_taken bufferLaw_poll)
  | trayStatus r => exact bufferLaw_completed h k (bufferLaw_taken bufferLaw_trayStatus)
  | trayRestart r => exact bufferLaw_completed h k (bufferLaw_taken (bufferLaw_trayRestart r.broadcast))
  | trayRestartTaken => exact bufferLaw_completed h k bufferLaw_restartTaken
  | planLoad r => exact bufferLaw_completed h k (bufferLaw_taken bufferLaw_planLoad)
  | profileLoad r => exact bufferLaw_completed h k (bufferLaw_taken bufferLaw_profileLoad)
  | budgetSet r => exact bufferLaw_completed h k (bufferLaw_taken bufferLaw_budgetSet)
  | zoneSetRun r => exact bufferLaw_completed h k (bufferLaw_taken bufferLaw_zoneSet)
  | zoneSetStop r => exact bufferLaw_completed h k (bufferLaw_taken bufferLaw_zoneSet)
  | zoneSetClear r => exact bufferLaw_completed h k (bufferLaw_taken bufferLaw_zoneSet)
  | slotStart r => exact bufferLaw_completed h k (bufferLaw_taken bufferLaw_slotStart)
  | slotHold r => exact bufferLaw_completed h k (bufferLaw_taken bufferLaw_slotHold)
  | slotRelease r => exact bufferLaw_completed h k (bufferLaw_taken bufferLaw_slotRelease)
  | slotAbort r => exact bufferLaw_completed h k (bufferLaw_taken bufferLaw_slotAbort)
  | slotReport r => exact bufferLaw_completed h k (bufferLaw_taken bufferLaw_slotReport)
  | lotStatus r => exact bufferLaw_completed h k (bufferLaw_taken bufferLaw_lotStatus)
  | lotTake r => exact bufferLaw_completed h k (bufferLaw_taken bufferLaw_lotTake)
  | lotTakeTakeYes r => exact bufferLaw_completed h k (bufferLaw_taken bufferLaw_lotTake)
  | lotClose r => exact bufferLaw_completed h k (bufferLaw_taken bufferLaw_lotClose)
  | lotExclude r => exact bufferLaw_completed h k (bufferLaw_taken bufferLaw_lotExclude)
  | frameDiscarded chars => exact bufferLaw_completed h k (bufferLaw_received chars)
  | seatSenseChange i raw => exact bufferLaw_completed h k (bufferLaw_seatSense i raw)
  | seatWindowEnd i => exact bufferLaw_completed h k (bufferLaw_seatWindowEnds i)
  | linkBeat i => exact bufferLaw_completed h k (bufferLaw_beat i)
  | linkLoss i => exact bufferLaw_completed h k (bufferLaw_linkLost i)
  | completion i c => exact bufferLaw_completed h k (bufferLaw_moves (moves_completionArrives (strict := false) i c s))
  | dataChunk i tag data => exact bufferLaw_completed h k (bufferLaw_quiet (quiet_dataArrives i tag data s))
  | timeoutExpiry timer =>
    exact bufferLaw_completed h k (bufferLaw_moves (moves_timeoutEnds (strict := false) timer.slot timer.tag s))
  | offTimeEnd i => exact bufferLaw_completed h k (bufferLaw_moves (moves_offTimeEnds (strict := false) i s))
  | stepTimerExpiry e => exact bufferLaw_completed h k (bufferLaw_moves (moves_stepTimerEnds (strict := false) e s))
  | pacingTick e => exact bufferLaw_completed h k (bufferLaw_quiet (quiet_pacingEnds e s))
  | fillCompletion i n => exact bufferLaw_completed h k (bufferLaw_quiet (quiet_fillEnds i n s))
  | checkCompletion i n => exact bufferLaw_completed h k (bufferLaw_moves (moves_checkEnds (strict := false) i n s))
  | sensorReadStart => exact bufferLaw_completed h k bufferLaw_startRead
  | controlPeriod z read => exact bufferLaw_completed h k (bufferLaw_zonePeriod z read)
  | replySent => exact bufferLaw_completed h k bufferLaw_replySent
  | trayTimeTick => exact bufferLaw_completed h k (bufferLaw_withLine s _)

end Sys2Proof.Machine
end

section
/-! The statement about the buffer pool's law (O18). -/

namespace Sys2Proof.Proofs

open Sys2Proof Sys2Proof.Machine

/-- Settles O18: by the command at the front of the queue, or the tick where none waits. -/
theorem bufferLawKept : Obligations.BufferLawKept := by
  intro s t k h
  unfold step at h
  split at h
  · exact bufferLaw_exec h k
  · obtain rfl := Host.Outcome.next.inj h
    exact bufferLaw_tick k

end Sys2Proof.Proofs
end

section
/-! SUPPORT. LOT CLOSE: the key its fields name (R155), and where a lot that leaves OPEN goes (R149, R155). -/

namespace Sys2Proof.Machine

/-! ### The key named by two fields -/

theorem fieldAt_second (a b : Byte) (rest : List Byte) : fieldAt (a :: b :: rest) 1 1 = b.toNat := fieldAt_head b rest

theorem quadNo?_val (p : Fin 4) : quadNo? p.val = some p := dif_pos p.isLt

theorem quadNo?_of_lt {n : Nat} (h : n < 4) : quadNo? n = some ⟨n, h⟩ := dif_pos h

theorem quadNo?_of_le {n : Nat} (h : 4 ≤ n) : quadNo? n = none := dif_neg (by omega)

theorem Bin.ofNat?_code (b : Bin) : Bin.ofNat? b.code.toNat = some b := by cases b <;> rfl

theorem Bin.ofNat?_of_le {n : Nat} (h : 4 ≤ n) : Bin.ofNat? n = none := by
  obtain ⟨k, rfl⟩ := Nat.exists_eq_add_of_le' h
  rfl

/-- A first field that names a profile passes the check. -/
theorem quadNo?_field (p : Fin 4) (rest : List Byte) : quadNo? (fieldAt (BitVec.ofNat 8 p.val :: rest) 0 1) = some p := by
  have hp : (BitVec.ofNat 8 p.val).toNat = p.val := by simp; omega
  rw [fieldAt_head, hp, quadNo?_val]

/-- A second field that names a bin passes the check. -/
theorem Bin.ofNat?_field (a : Byte) (b : Bin) (rest : List Byte) :
    Bin.ofNat? (fieldAt (a :: b.code :: rest) 1 1) = some b := by
  rw [fieldAt_second, Bin.ofNat?_code]

/-! ### A lot leaves OPEN -/

/-- The manifest has room: the lot goes to its tail, its closed time set, with LOT_CLOSED. -/
theorem closeLot_of_room {x : Lot} {s : State} (h : s.lots.manifest.length < 8) (c : CloseCause) :
    closeLot x c s = raise x.number (.lotClosed x.profile x.bin x.members.length c) (s.withLots { s.lots with
      opens := s.lots.opens.filter fun y => decide (y.number ≠ x.number)
      manifest := s.lots.manifest ++ [{ x with closed := some s.line.time }] }) :=
  if_pos h

/-- The manifest holds 8: the lot goes to the tail of the full-lot order list, with no notice. -/
theorem closeLot_of_no_room {x : Lot} {s : State} (h : 8 ≤ s.lots.manifest.length) (c : CloseCause) :
    closeLot x c s = s.withLots { s.lots with
      opens := s.lots.opens.filter fun y => decide (y.number ≠ x.number), full := s.lots.full ++ [x] } :=
  if_neg (Nat.not_lt.2 h)

/-! ### The request -/

theorem lotClose_profile_refused {a b : Byte} (ha : 4 ≤ a.toNat) (s : State) :
    lotClose [a, b] s = (s, Reply.refuse (.badArgument 0)) := by
  simp [lotClose, withLength, fieldAt_head, quadNo?_of_le ha, refused]

theorem lotClose_bin_refused {a b : Byte} (ha : a.toNat < 4) (hb : 4 ≤ b.toNat) (s : State) :
    lotClose [a, b] s = (s, Reply.refuse (.badArgument 1)) := by
  simp [lotClose, withLength, fieldAt_head, fieldAt_second, quadNo?_of_lt ha, Bin.ofNat?_of_le hb, refused]

section
variable {p : Fin 4} {b : Bin} {s : State}

theorem lotClose_no_lot (ho : s.lots.openLot p b = none) (hf : s.lots.fullLot p b = none) :
    lotClose [BitVec.ofNat 8 p.val, b.code] s = (s, Reply.refuse .notFound) := by
  simp only [lotClose, withLength, quadNo?_field, Bin.ofNat?_field, ho, hf]
  rfl

/-- A FULL lot of the key is refused whether or not an OPEN one stands beside it. -/
theorem lotClose_full (hf : (s.lots.fullLot p b).isSome = true) :
    lotClose [BitVec.ofNat 8 p.val, b.code] s = (s, Reply.refuse .badState) := by
  obtain ⟨y, hy⟩ := Option.isSome_iff_exists.1 hf
  simp only [lotClose, withLength, quadNo?_field, Bin.ofNat?_field, hy]
  rfl

theorem lotClose_open {x : Lot} (ho : s.lots.openLot p b = some x) (hf : s.lots.fullLot p b = none) :
    lotClose [BitVec.ofNat 8 p.val, b.code] s = (closeLot x .close s, Reply.ok (le 2 x.number ++
      [(if s.lots.manifest.length < 8 then LotState.closed else LotState.full).code])) := by
  simp only [lotClose, withLength, quadNo?_field, Bin.ofNat?_field, ho, hf]
  rfl

theorem lotClose_to_manifest {x : Lot} (ho : s.lots.openLot p b = some x) (hf : s.lots.fullLot p b = none)
    (hm : s.lots.manifest.length < 8) :
    lotClose [BitVec.ofNat 8 p.val, b.code] s = (closeLot x .close s, Reply.ok (le 2 x.number ++ [2#8])) := by
  rw [lotClose_open ho hf, if_pos hm]
  rfl

theorem lotClose_to_full {x : Lot} (ho : s.lots.openLot p b = some x) (hf : s.lots.fullLot p b = none)
    (hm : 8 ≤ s.lots.manifest.length) :
    lotClose [BitVec.ofNat 8 p.val, b.code] s = (closeLot x .close s, Reply.ok (le 2 x.number ++ [1#8])) := by
  rw [lotClose_open ho hf, if_neg (Nat.not_lt.2 hm)]
  rfl

end

theorem lotClose_answers {r : Req} {s u : State} {rep : Reply} (hd : s.line.deaf = false)
    (h : lotClose r.fields s.hunting = (u, rep)) : Answers (.lotClose r) r 0x32#8 rep s u :=
  answers_taken rfl hd (fun _ => rfl) h

end Sys2Proof.Machine
end

section
/-! The statement about LOT CLOSE (O47). -/

namespace Sys2Proof.Proofs

open Sys2Proof Sys2Proof.Machine

/-- Settles O47: by the lots of the key, an OPEN one by the room in the manifest; then by the field out of range. -/
theorem lotCloseMovesTheLot : Obligations.LotCloseMovesTheLot := by
  refine ⟨fun p b r s hd hr => ⟨fun ho hf => ?_, fun hf => ?_, fun x ho hf => ⟨fun hm => ?_, fun hm => ?_⟩⟩,
    fun a b r s hd hr => ⟨fun ha => ?_, fun ha hb => ?_⟩⟩
  · exact lotClose_answers hd (by rw [hr]; exact lotClose_no_lot (s := s.hunting) ho hf)
  · exact lotClose_answers hd (by rw [hr]; exact lotClose_full (s := s.hunting) hf)
  · have hmoved := closeLot_of_room (x := x) (s := s.hunting) hm .close
    have hclosed := lotClose_to_manifest (s := s.hunting) ho hf hm
    exact lotClose_answers hd (by rw [hr, hclosed, hmoved]; rfl)
  · have hmoved := closeLot_of_no_room (x := x) (s := s.hunting) hm .close
    have hfull := lotClose_to_full (s := s.hunting) ho hf hm
    exact lotClose_answers hd (by rw [hr, hfull, hmoved]; rfl)
  · exact lotClose_answers hd (by rw [hr]; exact lotClose_profile_refused ha _)
  · exact lotClose_answers hd (by rw [hr]; exact lotClose_bin_refused ha hb _)

end Sys2Proof.Proofs
end

section
/-! SUPPORT. The notice queue: what a raise leaves where its kind and subject stand in the queue and where they do not (R172,
R173), and what POLL takes from it (R174, R187). -/

namespace Sys2Proof.Machine

/-! ### Where a raise merges -/

section
variable {k : Nat} {d : Detail}

theorem mergeNotice_eq_none {l : List Notice} (h : ∀ n ∈ l, ¬ (n.subject = k ∧ n.detail.code = d.code)) :
    mergeNotice k d l = none := by
  induction l with
  | nil => rfl
  | cons a l ih =>
    have ha : ¬ a.matches k d = true := (matches_iff a k d).not.2 (h a List.mem_cons_self)
    have hl : mergeNotice k d l = none := ih fun n hn => h n (List.mem_cons_of_mem a hn)
    simp [mergeNotice, ha, hl]

/-- The entries before the first that matches and those behind it stay. -/
theorem mergeNotice_append {n : Notice} {before : List Notice} (after : List Notice)
    (hb : ∀ m ∈ before, ¬ (m.subject = k ∧ m.detail.code = d.code)) (hn : n.subject = k ∧ n.detail.code = d.code) :
    mergeNotice k d (before ++ n :: after) = some (before ++ n.merge d :: after) := by
  induction before with
  | nil => exact if_pos ((matches_iff n k d).2 hn)
  | cons a before ih =>
    have ha : ¬ a.matches k d = true := (matches_iff a k d).not.2 (hb a List.mem_cons_self)
    have hrest := ih fun m hm => hb m (List.mem_cons_of_mem a hm)
    simp [mergeNotice, ha, hrest]

/-! ### One raise at the line interface -/

variable {l : Line}

theorem raised_of_merge {q : List Notice} (h : mergeNotice k d l.notices = some q) :
    l.raised k d = { l with notices := q } := by
  simp [Line.raised, h]

theorem raised_of_room (h : mergeNotice k d l.notices = none) (hroom : l.notices.length < 24) :
    l.raised k d =
      { l with notices := l.notices ++ [{ subject := k, count := 1, time := l.time, detail := d }] } := by
  simp [Line.raised, h, Config.noticeEntries, hroom]

theorem raised_of_full (h : mergeNotice k d l.notices = none) (hfull : ¬ l.notices.length < 24) :
    l.raised k d = { l with noticesLost := true } := by
  simp [Line.raised, h, Config.noticeEntries, hfull]

end

/-! ### POLL -/

theorem Notice.bytes_length (n : Notice) : n.bytes.length = 30 := by
  simp [Notice.bytes, byte, le_length, padTo_length]

theorem pollAnswered_empty {s : State} (h : s.line.notices = []) :
    pollAnswered s = (s, Reply.ok (List.replicate 31 0#8 ++ [s.trayFlags])) := by
  simp only [pollAnswered, h]
  rfl

theorem pollAnswered_head {s : State} {n : Notice} {rest : List Notice} (h : s.line.notices = n :: rest) :
    pollAnswered s = (s.withLine { s.line with notices := rest },
      Reply.ok (n.bytes ++ [BitVec.ofNat 8 rest.length, s.trayFlags])) := by
  simp [pollAnswered, h, byte, le]

theorem poll_of_empty_body (s : State) : poll [] s = pollAnswered s := rfl

theorem poll_answers {r : Req} {s u : State} {rep : Reply} (hd : s.line.deaf = false) (hb : r.broadcast = false)
    (h : poll r.fields s.hunting = (u, rep)) : Answers (.poll r) r 0x01#8 rep s u :=
  answers_taken rfl hd (fun hx => absurd (hb.symm.trans hx) Bool.false_ne_true) h

end Sys2Proof.Machine
end

section
/-! The statements about the notice queue (O14, O6). -/

namespace Sys2Proof.Proofs

open Sys2Proof Sys2Proof.Machine

/-- Settles O14: by whether an entry of the raise's kind and subject stands in the queue, and where none does by the room in it.
-/
theorem raiseMergesAppendsOrDrops : Obligations.RaiseMergesAppendsOrDrops := by
  intro subject d s
  refine ⟨(s.line.raised subject d).notices, (s.line.raised subject d).noticesLost,
    congrArg s.withLine (raised_line s.line subject d), fun hnone => ?_, fun before after n hq hbefore hs hc => ?_⟩
  · have hmerge := mergeNotice_eq_none hnone
    split
    case isTrue hroom => rw [raised_of_room hmerge hroom]; exact ⟨rfl, rfl⟩
    case isFalse hfull => rw [raised_of_full hmerge hfull]; exact ⟨rfl, rfl⟩
  · have hmerge := mergeNotice_append after hbefore ⟨hs, hc⟩
    rw [← hq] at hmerge
    rw [raised_of_merge hmerge]
    exact ⟨rfl, rfl⟩

/-- Settles O6: by the head of the queue, which the end of the request's frame leaves as it is. -/
theorem pollTakesHead : Obligations.PollTakesHead := by
  intro r s hd hb hr
  have hpoll : poll r.fields s.hunting = pollAnswered s.hunting := by rw [hr, poll_of_empty_body]
  cases hq : s.line.notices with
  | nil => exact poll_answers hd hb (hpoll.trans (pollAnswered_empty (s := s.hunting) hq))
  | cons n rest =>
    exact ⟨poll_answers hd hb (hpoll.trans (pollAnswered_head (s := s.hunting) hq)), n.bytes_length⟩

end Sys2Proof.Proofs
end

section
/-! SUPPORT. What a step can do, said once: every command but power-on reset, and every tick, is a chain of the acts below. A law of
the part is proved act by act. -/

namespace Sys2Proof.Machine

/-! ### The acts -/

/-- A record whose state, seat, power and plan are as they were; its pins, timers and work may differ. -/
structure PinsOnly (x y : Slot) : Prop where
  state : y.state = x.state
  seated : y.seated = x.seated
  powered : y.powered = x.powered
  spun : y.spun = x.spun
  plan : y.plan = x.plan
  returnTo : y.op.returnTo = x.op.returnTo

/-- The settings that only commands of their own change. -/
inductive Setting where
  | plans | profiles | budget | zones | time | links | seats | powerUp

/-- The line's latched values stay, and of its notices only entries at the head leave. -/
structure LineOnly (L : Setting → Prop) (l m : Line) : Prop where
  address : m.address = l.address
  rate : m.rate = l.rate
  notices : m.notices <:+ l.notices
  time : m.time = l.time ∨ L .time
  powerUp : m.powerUp = l.powerUp ∨ L .powerUp

/-- One act of a step that changes no settings but those of `L`. -/
inductive Act (L : Setting → Prop) : State → State → Prop where
  /-- A run event, or another chain of moves; where the record law holds the slots join lots from sound states alone. -/
  | run (s t : State) (h : ∀ strict : Bool, (strict = true → RecordLaw s) → Moves strict s t) : Act L s t
  /-- The sensor bus, the timebase and the lamp chain. -/
  | idle (s t : State) (h : t = { s with bus := t.bus, now := t.now, lamps := t.lamps }) : Act L s t
  | line (s : State) (l : Line) (h : LineOnly L s.line l) : Act L s (s.withLine l)
  | pins (s : State) (i : Fin 16) (y : Slot) (h : PinsOnly (s.slot i) y) (hl : y.linkUp = (s.slot i).linkUp ∨ L .links) :
      Act L s (s.setSlot i y)
  /-- A drive is seated (R8). -/
  | seat (s : State) (i : Fin 16) (h : (s.slot i).seated = false) (hl : L .seats) :
      Act L s (s.modSlot i fun x => { x with seated := true, window := none, state := .seated })
  /-- A record becomes that of an empty slot (R9, R10). -/
  | clear (s : State) (i : Fin 16) (y : Slot) (hw : i ∉ s.lots.waiting) (hs : y.state = .empty) (hp : y.seated = false)
      (ho : y.powered = false) (hu : y.spun = false) (hk : y.linkUp = (s.slot i).linkUp) (hl : L .seats) : Act L s (s.setSlot i y)
  | restart (s : State) : Act L s (restart s)
  | plan (fields : List Byte) (s : State) (hl : L .plans) : Act L s (planLoad fields s).1
  | profile (fields : List Byte) (s : State) (hl : L .profiles) : Act L s (profileLoad fields s).1
  /-- BUDGET SET is stored (R37). -/
  | budget (fields : List Byte) (s : State) (hb : s.driveTotal ≤ (budgetFields fields s.power).budget)
      (hl : s.spinCount ≤ (budgetFields fields s.power).limit) (hk : L .budget) :
      Act L s (recomputeZones (s.withPower (budgetFields fields s.power)))
  /-- A zone record that stays sound and commits no more. -/
  | zone (s : State) (z : Fin 4) (x : Zone) (hx : ∀ cost, (s.zone z).Sound cost → x.Sound cost)
      (hc : x.commit ≤ (s.zone z).commit) (hl : x.set = (s.zone z).set ∨ L .zones) : Act L s (s.setZone z x)
  | recompute (s : State) : Act L s (recomputeZones s)
  /-- The allowance of a zone without demand, or of one whose demand its period has set (R34, R121). -/
  | allow (s : State) (z : Fin 4) : Act L s (allowZone z s)
  | drive (s : State) (z : Fin 4) (h : (s.zone z).state = .ramp ∨ (s.zone z).state = .soak) :
      Act L s (allowZone z (s.modZone z Zone.driven))

/-- A chain of acts. -/
abbrev Acts (L : Setting → Prop) (s t : State) : Prop := Relation.ReflTransGen (Act L) s t

variable {L : Setting → Prop}

theorem Acts.refl (s : State) : Acts L s s := Relation.ReflTransGen.refl

theorem Act.one {s t : State} (h : Act L s t) : Acts L s t := Relation.ReflTransGen.single h

theorem Acts.trans {s t u : State} (h : Acts L s t) (k : Acts L t u) : Acts L s u := Relation.ReflTransGen.trans h k

theorem Acts.moves {s t : State} (h : ∀ strict, Moves strict s t) : Acts L s t := (Act.run s t fun strict _ => h strict).one

/-- What every act keeps a chain of acts keeps. -/
theorem acts_keep {P : State → Prop} (hact : ∀ {s t}, Act L s t → P s → P t) {s t : State} (h : Acts L s t) (k : P s) : P t := by
  induction h with
  | refl => exact k
  | tail _ h ih => exact hact h ih

/-! ### The line -/

theorem LineOnly.refl (l : Line) : LineOnly L l l := ⟨rfl, rfl, List.suffix_rfl, .inl rfl, .inl rfl⟩

theorem acts_line (s : State) {l : Line} (h : LineOnly L s.line l) : Acts L s (s.withLine l) := (Act.line s l h).one

theorem acts_raise (n : Nat) (d : Detail) (s : State) : Acts L s (raise n d s) := .moves fun _ => moves_raise n d s

theorem acts_refreshLamps (s : State) : Acts L s (refreshLamps s) := (Act.idle s (refreshLamps s) rfl).one

/-- The end of a request's frame, and the reply that begins (R166, R168). -/
theorem acts_held (s : State) (held : List Byte) : Acts L s (s.withLine { s.line with held := held }) :=
  acts_line s ⟨rfl, rfl, List.suffix_rfl, .inl rfl, .inl rfl⟩

theorem acts_respond (tag kind : Byte) (p : State × Reply) : Acts L p.1 (respond tag kind p) :=
  acts_line p.1 ⟨rfl, rfl, List.suffix_rfl, .inl rfl, .inl rfl⟩

/-- A request that is taken does what its handler does, between changes of the line. -/
theorem acts_taken {handler : List Byte → State → State × Reply} (hh : ∀ fields s, Acts L s (handler fields s).1) (kind : Byte)
    (discards : Bool) (r : Req) (s : State) : Acts L s (taken kind discards r handler s) := by
  have hhunt : Acts L s _ := acts_held s []
  unfold taken
  split
  · exact .refl s
  · simp only
    split
    · split
      · exact hhunt
      · exact hhunt.trans (hh _ _)
    · exact (hhunt.trans (hh _ _)).trans (acts_respond _ _ _)

theorem acts_withLength {n : Nat} {fields : List Byte} {s : State} {k : State × Reply} (hk : Acts L s k.1) :
    Acts L s (withLength n fields s k).1 := withLength_keeps (P := Acts L s) (.refl s) hk

theorem acts_withSlot {fields : List Byte} {s : State} {k : Fin 16 → State × Reply} (hk : ∀ i, Acts L s (k i).1) :
    Acts L s (withSlot fields s k).1 := withSlot_keeps (P := Acts L s) (.refl s) hk

/-! ### Settings and zones -/

theorem settings_taken_sound (a b c d e f g : Nat) : (ZoneSettings.taken a b c d e f g).Sound := by
  constructor <;> simp only [ZoneSettings.taken, clamp] <;> omega

section
variable {cost : Nat} {z : Zone}

theorem goodRead_range {r : SensorRead} {t : Int} (h : goodRead r = some t) : -160 ≤ t ∧ t ≤ 600 := by
  unfold goodRead at h
  split at h
  · split at h
    · rename_i hr
      obtain rfl := Option.some.inj h
      exact hr
    · cases h
  · cases h
  · cases h

theorem sound_readTaken (r : SensorRead) (k : z.Sound cost) : (z.readTaken (goodRead r)).Sound cost := by
  cases hr : goodRead r with
  | none => exact { k with miss := Nat.min_le_left _ _ }
  | some t =>
    exact { k with
      temp := by rintro _ ⟨⟩; exact goodRead_range hr
      miss := Nat.zero_le _
      heated := fun _ => rfl }

theorem sound_settings {set : ZoneSettings} (hs : set.Sound) (k : z.Sound cost) : ({ z with set := set } : Zone).Sound cost :=
  { k with settings := hs }

theorem sound_faulted {reason : ZoneReason} (hr : reason ≠ .none) (k : z.Sound cost) : (z.faulted reason).Sound cost where
  settings := k.settings
  temp := k.temp
  miss := k.miss
  fine := k.fine
  reason := by simp [Zone.faulted, hr]
  heated := by simp [Zone.faulted]
  band := by simp [Zone.faulted]
  demand := Nat.zero_le _
  duty := le_refl 0
  fan := le_refl 100
  commit := Nat.zero_le _
  cold := fun _ => ⟨rfl, rfl, rfl⟩

/-- A zone record in OFF or COOL with its heater off. -/
theorem sound_cold {y : Zone} (k : z.Sound cost) (hs : y.set = z.set) (ht : y.temp = z.temp) (hm : y.miss = z.miss)
    (hf : y.fine = z.fine) (hy : y.state = .off ∨ y.state = .cool) (hr : y.reason = .none) (hb : y.inBand = false)
    (hd : y.demand = 0) (ha : y.applied = 0) (hfan : y.fan ≤ 100) (hc : y.commit = 0) : y.Sound cost where
  settings := hs ▸ k.settings
  temp := ht ▸ k.temp
  miss := hm ▸ k.miss
  fine := hf ▸ k.fine
  reason := by rcases hy with h | h <;> simp [hr, h]
  heated := by rcases hy with h | h <;> simp [h]
  band := by simp [hb]
  demand := by omega
  duty := by omega
  fan := hfan
  commit := by omega
  cold := fun _ => ⟨hd, ha, hc⟩

theorem sound_run {t : Int} (ht : z.temp = some t) (hr : z.reason = .none) (k : z.Sound cost) : (z.run t).Sound cost where
  settings := k.settings
  temp := k.temp
  miss := k.miss
  fine := by have := k.temp t ht; simp only [Zone.run]; omega
  reason := by simp [Zone.run, Zone.heaterOff, hr]
  heated := fun _ => by simp [Zone.run, Zone.heaterOff, ht]
  band := by simp [Zone.run]
  demand := Nat.zero_le _
  duty := le_refl 0
  fan := k.fan
  commit := Nat.zero_le _
  cold := fun _ => ⟨rfl, rfl, rfl⟩

theorem reason_of_not_fault (k : z.Sound cost) (h : z.state ≠ .fault) : z.reason = .none := k.reason.2 h

theorem sound_stop (h : z.state ≠ .fault) (k : z.Sound cost) : z.stop.Sound cost :=
  have hr : z.reason = .none := reason_of_not_fault k h
  sound_cold k rfl rfl rfl rfl (.inr rfl) hr rfl rfl rfl (le_refl 100) rfl

theorem sound_cleared (h : z.state = .fault) (k : z.Sound cost) : z.cleared.Sound cost := by
  obtain ⟨hd, ha, hc⟩ := k.cold (.inr (.inr h))
  have hb : z.inBand = false := by
    cases e : z.inBand with
    | false => rfl
    | true => have := k.band e; rw [h] at this; cases this
  exact sound_cold k rfl rfl rfl rfl (.inl rfl) rfl hb hd ha k.settings.fanMin.2 hc

theorem sound_idlePeriod (h : z.state = .off ∨ z.state = .cool) (k : z.Sound cost) : z.idlePeriod.Sound cost := by
  have hr : z.reason = .none := reason_of_not_fault k (by rcases h with h | h <;> simp [h])
  have hb : z.inBand = false := by
    cases e : z.inBand with
    | false => rfl
    | true => have := k.band e; rcases h with h | h <;> rw [h] at this <;> cases this
  have hfan := k.settings.fanMin.2
  rcases h with h | h
  · simp only [Zone.idlePeriod, h]
    exact sound_cold k rfl rfl rfl rfl (.inl h) hr hb rfl rfl hfan rfl
  · simp only [Zone.idlePeriod, h]
    split
    · exact sound_cold k rfl rfl rfl rfl (.inl rfl) hr hb rfl rfl hfan rfl
    · exact sound_cold k rfl rfl rfl rfl (.inr h) hr hb rfl rfl (le_refl 100) rfl

theorem idlePeriod_commit (z : Zone) : z.idlePeriod.commit = 0 := by
  unfold Zone.idlePeriod
  split
  · split <;> rfl
  · rfl

theorem moveFine_range {goal fine : Int} {rate : Nat} (hg : -9600 ≤ goal ∧ goal ≤ 36000) (hf : -9600 ≤ fine ∧ fine ≤ 36000) :
    -9600 ≤ moveFine goal rate fine ∧ moveFine goal rate fine ≤ 36000 := by
  unfold moveFine
  split <;> omega

theorem ramped_state (h : z.state = .ramp ∨ z.state = .soak) : z.ramped.state = .ramp ∨ z.ramped.state = .soak := by
  unfold Zone.ramped
  split
  · simp only
    split
    · exact .inr rfl
    · exact h
  · exact h

theorem ramped_set (z : Zone) : z.ramped.banded.set = z.set := by
  unfold Zone.ramped Zone.banded
  simp only
  repeat' split
  all_goals rfl

theorem idlePeriod_set (z : Zone) : z.idlePeriod.set = z.set := by
  unfold Zone.idlePeriod
  split
  · split <;> rfl
  · rfl

theorem ramped_commit (z : Zone) : z.ramped.banded.commit = z.commit := by
  unfold Zone.ramped Zone.banded
  simp only
  repeat' split
  all_goals rfl

/-- The target moves and the band is tested, in RAMP or SOAK (R119, R120). -/
theorem sound_ramped (h : z.state = .ramp ∨ z.state = .soak) (k : z.Sound cost) : z.ramped.banded.Sound cost := by
  have hfine : -9600 ≤ moveFine ((z.set.setpoint : Int) * 60) z.set.rate z.fine ∧
      moveFine ((z.set.setpoint : Int) * 60) z.set.rate z.fine ≤ 36000 := by
    have := k.settings.setpoint
    exact moveFine_range (by omega) k.fine
  have hr : z.reason = .none := reason_of_not_fault k (by rcases h with h | h <;> simp [h])
  have htemp := k.heated h
  have hsound : ∀ (x : Int) (n : Bool), -9600 ≤ x ∧ x ≤ 36000 → ∀ st : ZoneState, st = .ramp ∨ st = .soak →
      (Zone.banded { z with fine := x, state := st, noticed := n }).Sound cost := by
    intro x n hx st hst
    exact { k with
      fine := hx
      reason := by rcases hst with rfl | rfl <;> simp [Zone.banded, hr]
      heated := fun _ => htemp
      band := fun e => by simp only [Zone.banded, Bool.and_eq_true, decide_eq_true_eq] at e; exact e.1
      cold := by rcases hst with rfl | rfl <;> simp [Zone.banded] }
  unfold Zone.ramped
  split
  · simp only
    split
    · exact hsound _ false hfine .soak (.inr rfl)
    · exact hsound _ z.noticed hfine z.state h
  · exact hsound z.fine z.noticed k.fine z.state h

end

theorem acts_modZone (s : State) (z : Fin 4) (f : Zone → Zone) (hx : ∀ cost, (s.zone z).Sound cost → (f (s.zone z)).Sound cost)
    (hc : (f (s.zone z)).commit ≤ (s.zone z).commit) (hl : (f (s.zone z)).set = (s.zone z).set ∨ L .zones) : Acts L s (s.modZone z f) :=
  (Act.zone s z _ hx hc hl).one

theorem acts_admitIfChanged (before : List Nat) (s : State) : Acts L s (admitIfChanged before s) :=
  .moves fun _ => moves_admitIfChanged before s

theorem acts_runZone (hl : L .zones) {z : Fin 4} {set : ZoneSettings} (hs : set.Sound) {s t : State} (h : runZone z set s = some t) : Acts L s t := by
  unfold runZone at h
  split at h
  · cases h
  · cases h
  · rename_i ht hne
    obtain rfl := Option.some.inj h
    refine (acts_modZone s z _ (fun cost k => ?_) (Nat.zero_le _) (.inr hl)).trans (acts_admitIfChanged _ _)
    have hr : (s.zone z).reason = .none := reason_of_not_fault k hne
    exact sound_run (z := { s.zone z with set := set }) ht hr (sound_settings hs k)

theorem acts_stopZone (hl : L .zones) {z : Fin 4} {set : ZoneSettings} (hs : set.Sound) {s t : State} (h : stopZone z set s = some t) : Acts L s t := by
  unfold stopZone at h
  split at h
  · cases h
  · obtain rfl := Option.some.inj h
    exact acts_modZone s z _ (fun cost k => sound_settings hs k) (le_refl _) (.inr hl)
  · rename_i hne _
    obtain rfl := Option.some.inj h
    refine ((acts_modZone s z _ (fun cost k => ?_) (Nat.zero_le _) (.inr hl)).trans (Act.recompute _).one).trans (acts_admitIfChanged _ _)
    exact sound_stop hne (sound_settings hs k)

theorem acts_clearZone (hl : L .zones) {z : Fin 4} {set : ZoneSettings} (hs : set.Sound) {s t : State} (h : clearZone z set s = some t) : Acts L s t := by
  unfold clearZone at h
  split at h
  · rename_i hf
    split at h
    · obtain rfl := Option.some.inj h
      refine (acts_modZone s z _ (fun cost k => ?_) (le_refl _) (.inr hl)).trans (.moves fun _ => moves_unmet _ (moves_liftZone z) _)
      exact sound_cleared hf (sound_settings hs k)
    · cases h
  · cases h

theorem acts_act (hl : L .zones) {a : ZoneAction} {z : Fin 4} {set : ZoneSettings} (hs : set.Sound) {s t : State} (h : a.act z set s = some t) :
    Acts L s t := by
  cases a with
  | run => exact acts_runZone hl hs h
  | stop => exact acts_stopZone hl hs h
  | clear => exact acts_clearZone hl hs h

theorem acts_zoneSet (hl : L .zones) (fields : List Byte) (s : State) : Acts L s (zoneSet fields s).1 := by
  refine acts_withLength ?_
  split
  · exact .refl s
  · split
    · exact .refl s
    · split
      · exact .refl s
      · rename_i h
        exact acts_act hl (settings_taken_sound _ _ _ _ _ _ _) h

/-! ### The control period -/

theorem acts_faultZone (z : Fin 4) {reason : ZoneReason} (hr : reason ≠ .none) (s : State) : Acts L s (faultZone z reason s) := by
  have hrecord : Acts L s (s.modZone z (Zone.faulted reason)) :=
    acts_modZone s z _ (fun cost k => sound_faulted hr k) (Nat.zero_le _) (.inl rfl)
  have hadmitted := (hrecord.trans (Act.recompute _).one).trans (acts_admitIfChanged s.commits _)
  exact (hadmitted.trans (.moves fun _ => moves_foldl voidRunning (fun i s => .of (quiet_voidRunning i s)) (zoneSlots z) _)).trans
    (acts_raise _ _ _)

theorem acts_bandNotice (z : Fin 4) (s : State) : Acts L s (bandNotice z s) := by
  unfold bandNotice
  simp only
  split
  · exact (acts_modZone s z _ (fun cost k => { k with }) (le_refl _) (.inl rfl)).trans (acts_raise _ _ _)
  · exact .refl s

theorem bandNotice_state (z : Fin 4) (s : State) : ((bandNotice z s).zone z).state = (s.zone z).state := by
  unfold bandNotice
  simp only
  split
  · rw [raise, withLine_zone, zone_modZone_same]
  · rfl

theorem acts_heatedPeriod (z : Fin 4) (s : State) (h : (s.zone z).state = .ramp ∨ (s.zone z).state = .soak) :
    Acts L s (heatedPeriod z s) := by
  have hramped : Acts L s (s.modZone z fun x => x.ramped.banded) :=
    acts_modZone s z _ (fun cost k => sound_ramped h k) (le_of_eq (ramped_commit _)) (.inl (ramped_set _))
  have hnoticed := hramped.trans (acts_bandNotice z _)
  have hstate : ((bandNotice z (s.modZone z fun x => x.ramped.banded)).zone z).state = .ramp ∨
      ((bandNotice z (s.modZone z fun x => x.ramped.banded)).zone z).state = .soak := by
    rw [bandNotice_state, zone_modZone_same]
    exact ramped_state h
  exact ((hnoticed.trans (Act.drive _ z hstate).one).trans (acts_admitIfChanged _ _)).trans (.moves fun _ => moves_creditZone z _)

theorem finds_ne_none {r : Option Int} {z : Zone} {reason : ZoneReason} (h : z.finds r = some reason) : reason ≠ .none := by
  unfold Zone.finds at h
  split at h
  · cases h
  · split at h <;> split at h <;> cases h <;> decide

theorem acts_zonePeriod (z : Fin 4) (read : SensorRead) (s : State) : Acts L s (zonePeriod z read s) := by
  have hbus : Acts L s (endRead z s) := by
    unfold endRead
    split
    · exact (Act.idle s _ rfl).one
    · exact .refl s
  have hset (x : Zone) : (x.readTaken (goodRead read)).set = x.set := by unfold Zone.readTaken; split <;> rfl
  have hcommit (x : Zone) : (x.readTaken (goodRead read)).commit = x.commit := by unfold Zone.readTaken; split <;> rfl
  have htaken := hbus.trans (acts_modZone (endRead z s) z (Zone.readTaken (goodRead read)) (fun cost k => sound_readTaken read k)
    (le_of_eq (hcommit _)) (.inl (hset _)))
  unfold zonePeriod
  simp only
  split
  · rename_i hf
    exact htaken.trans (acts_faultZone z (finds_ne_none hf) _)
  · have hidle (hs : (((endRead z s).modZone z (Zone.readTaken (goodRead read))).zone z).state = .off ∨
        (((endRead z s).modZone z (Zone.readTaken (goodRead read))).zone z).state = .cool) :=
      (htaken.trans (acts_modZone _ z Zone.idlePeriod (fun cost k => sound_idlePeriod hs k)
        (by rw [idlePeriod_commit]; exact Nat.zero_le _) (.inl (idlePeriod_set _)))).trans (Act.allow _ z).one
    split
    · exact htaken
    · rename_i h
      exact (hidle (.inl h)).trans (acts_admitIfChanged _ _)
    · rename_i h
      exact (hidle (.inr h)).trans (acts_admitIfChanged _ _)
    · rename_i h
      exact htaken.trans (acts_heatedPeriod z _ (.inl h))
    · rename_i h
      exact htaken.trans (acts_heatedPeriod z _ (.inr h))

/-! ### Pins and link -/

theorem acts_pins (s : State) (i : Fin 16) (f : Slot → Slot) (h : PinsOnly (s.slot i) (f (s.slot i)))
    (hl : (f (s.slot i)).linkUp = (s.slot i).linkUp ∨ L .links) : Acts L s (s.modSlot i f) :=
  (Act.pins s i _ h hl).one

theorem acts_seatSense (i : Fin 16) (raw : Bool) (s : State) : Acts L s (seatSense i raw s) := by
  unfold seatSense
  split
  · exact .refl s
  · exact acts_pins s i _ ⟨rfl, rfl, rfl, rfl, rfl, rfl⟩ (.inl rfl)

/-- A removal (R9, R10): the record is that of an empty slot from the run's end on. -/
theorem acts_remove (hl : L .seats) (i : Fin 16) (s : State) : Acts L s (remove i s) := by
  have hleft : Acts L s (leaveLotList i s) := .moves fun _ => moves_leaveLotList i s
  have hnot : i ∉ (leaveLotList i s).lots.waiting := by simp [leaveLotList_mem]
  let f : Slot → Slot := fun x => { x with state := .empty, seated := false, window := none }
  have hcleared : Acts L (leaveLotList i s) ((leaveLotList i s).modSlot i fun x => f x.released) :=
    (Act.clear _ i (f ((leaveLotList i s).slot i).released) hnot rfl rfl rfl rfl rfl hl).one
  have hended := (hleft.trans hcleared).trans (.moves fun _ => moves_endRun i f _)
  have hnot' : i ∉ (endRun i f (leaveLotList i s)).lots.waiting := by rw [(endRun_line i f _).2]; exact hnot
  exact (hended.trans (Act.clear _ i (Slot.removed _) hnot' rfl rfl rfl rfl rfl hl).one).trans (acts_raise _ _ _)

theorem acts_seatWindowEnds (hl : L .seats) (i : Fin 16) (s : State) : Acts L s (seatWindowEnds i s) := by
  unfold seatWindowEnds
  simp only
  split
  · rename_i h
    split
    · rename_i hr
      have hs : (s.slot i).window.isSome = true ∧ (s.slot i).seated = false := by simpa [hr] using h
      exact (Act.seat s i hs.2 hl).one.trans (acts_raise _ _ _)
    · exact acts_remove hl i s
  · exact .refl s

theorem acts_beat (hl : L .links) (i : Fin 16) (s : State) : Acts L s (beat i s) := acts_pins s i _ ⟨rfl, rfl, rfl, rfl, rfl, rfl⟩ (.inr hl)

theorem acts_linkLost (hl : L .links) (i : Fin 16) (s : State) : Acts L s (linkLost i s) := by
  unfold linkLost
  split
  · have hdown : Acts L s (s.modSlot i fun x => { x with linkUp := false, silence := none }) :=
      acts_pins s i _ ⟨rfl, rfl, rfl, rfl, rfl, rfl⟩ (.inr hl)
    simp only
    split
    · rename_i hrun
      obtain ⟨hempty, hwait⟩ := inRun_not_resting hrun
      exact hdown.trans (.moves fun _ => moves_faultSlot i .link none _ hempty hwait)
    · exact hdown
  · exact .refl s

/-! ### Requests of slots -/

theorem acts_slotStart (fields : List Byte) (s : State) : Acts L s (slotStart fields s).1 := by
  refine acts_withLength ?_
  split
  · exact .refl s
  · exact .refl s
  · exact .refl s
  · split
    · exact .refl s
    · rename_i hstart
      split
      · exact .refl s
      · split
        · exact .refl s
        · exact .moves fun _ => moves_startRun _ _ _ s (startable_state (by simpa using hstart))

theorem acts_hold (i : Fin 16) (s : State) : Acts L s (hold i s) := by
  have hheld : Acts L s (s.modSlot i fun x => { x with held := true }) := acts_pins s i _ ⟨rfl, rfl, rfl, rfl, rfl, rfl⟩ (.inl rfl)
  exact hheld.trans (.moves fun _ => (Moves.of (quiet_voidRunning i _)).trans (moves_admission _))

theorem acts_releaseHold (i : Fin 16) (s : State) : Acts L s (releaseHold i s) := by
  have hfreed : Acts L s (admission (s.modSlot i fun x => { x with held := false })) :=
    (acts_pins s i _ ⟨rfl, rfl, rfl, rfl, rfl, rfl⟩ (.inl rfl)).trans (.moves fun _ => moves_admission _)
  unfold releaseHold
  simp only
  split
  · exact hfreed.trans (.moves fun _ => moves_unmet _ (moves_pauseLifts i) _)
  · exact hfreed

theorem acts_slotAbort (fields : List Byte) (s : State) : Acts L s (slotAbort fields s).1 := by
  refine acts_withSlot fun i => ?_
  split
  · rename_i huse
    exact .moves fun _ => moves_abortRun i s huse
  · exact .refl s

/-! ### Requests of lots -/

theorem done_or_waiting {s : State} (k : RecordLaw s) : ∀ i ∈ s.lots.waiting, (s.slot i).state = .done ∨ (s.slot i).state = .lotWait :=
  fun i hi => .inr (k.2 i hi)

theorem acts_takeHead (s : State) : Acts L s (takeHead s) := by
  refine (Act.run _ _ fun strict k => ?_).one
  refine (moves_lots s { s.lots with manifest := s.lots.manifest.drop 1 } (fun j hj => .inl hj) ?_).trans
    (moves_drain _ fun hs => done_or_waiting (k hs))
  intro hm
  simp only [List.length_drop]
  omega

theorem acts_lotTake (fields : List Byte) (s : State) : Acts L s (lotTake fields s).1 := by
  refine acts_withLength ?_
  simp only
  split
  · exact .refl s
  · exact .refl s
  · split
    · exact .refl s
    · split
      · exact .refl s
      · split
        · exact .refl s
        · simp only
          split
          · exact acts_takeHead s
          · exact .refl s

theorem acts_lotClose (fields : List Byte) (s : State) : Acts L s (lotClose fields s).1 := by
  refine acts_withLength ?_
  split
  · exact .refl s
  · exact .refl s
  · split
    · exact .refl s
    · exact .refl s
    · exact .moves fun _ => moves_closeLot _ _ s

theorem acts_excludeSlot (i : Option (Fin 16)) (s : State) : Acts L s (excludeSlot i s) := by
  cases i with
  | none => exact .refl s
  | some i =>
    exact acts_pins s i (fun x => { x with outcome := some .reject, reason := .demerit, lotNumber := none })
      ⟨rfl, rfl, rfl, rfl, rfl, rfl⟩ (.inl rfl)

theorem acts_exclude (serial : List Byte) (x : Lot) (full : Bool) (s : State) : Acts L s (exclude serial x full s).1 := by
  have hslot : Acts L s (excludeSlot (s.excludedSlot serial x.number) s) := acts_excludeSlot _ s
  unfold exclude
  simp only
  refine Acts.trans ?_ (.moves fun _ => moves_lots _ _ (fun j hj => .inl hj) id)
  refine hslot.trans ?_
  split
  · refine (Act.run _ _ fun strict k => ?_).one
    refine Moves.trans ?_ (moves_refill _ _ _ _ _ fun hs => done_or_waiting (k hs))
    exact moves_lots _ _ (fun j hj => .inl hj) id
  · exact .moves fun _ => moves_lots _ _ (fun j hj => .inl hj) id

theorem acts_lotExclude (serial : List Byte) (s : State) : Acts L s (lotExclude serial s).1 := by
  refine acts_withLength ?_
  split
  · exact acts_exclude serial _ false s
  · exact acts_exclude serial _ true s
  · exact .refl s

/-! ### Requests of the line, the budget and the stores -/

theorem acts_poll (fields : List Byte) (s : State) : Acts L s (poll fields s).1 := by
  refine acts_withLength ?_
  unfold pollAnswered
  split
  · exact .refl s
  · rename_i n rest h
    exact acts_line s ⟨rfl, rfl, h ▸ List.suffix_cons n rest, .inl rfl, .inl rfl⟩

theorem acts_trayStatus (hl : L .powerUp) (fields : List Byte) (s : State) : Acts L s (trayStatus fields s).1 :=
  acts_withLength (acts_line s ⟨rfl, rfl, List.suffix_rfl, .inl rfl, .inr hl⟩)

theorem acts_trayRestart (broadcast : Bool) (fields : List Byte) (s : State) :
    Acts L s (trayRestartHandler broadcast fields s).1 := by
  unfold trayRestartHandler
  split
  · exact acts_withLength (Act.restart s).one
  · exact acts_withLength (acts_line s ⟨rfl, rfl, List.suffix_rfl, .inl rfl, .inl rfl⟩)

theorem acts_planLoad (hl : L .plans) (fields : List Byte) (s : State) : Acts L s (planLoad fields s).1 := (Act.plan fields s hl).one

theorem acts_profileLoad (hl : L .profiles) (fields : List Byte) (s : State) : Acts L s (profileLoad fields s).1 := (Act.profile fields s hl).one

theorem acts_budgetSet (hl : L .budget) (fields : List Byte) (s : State) : Acts L s (budgetSet fields s).1 := by
  refine acts_withLength ?_
  unfold budgetTaken
  split
  · exact .refl s
  · rename_i h
    exact (Act.budget fields s (by omega) (by omega) hl).one.trans (.moves fun _ => moves_admission _)

theorem acts_slotHold (fields : List Byte) (s : State) : Acts L s (slotHold fields s).1 := acts_withSlot fun i => acts_hold i s

theorem acts_slotRelease (fields : List Byte) (s : State) : Acts L s (slotRelease fields s).1 :=
  acts_withSlot fun i => acts_releaseHold i s

theorem acts_slotReport (fields : List Byte) (s : State) : Acts L s (slotReport fields s).1 := acts_withSlot fun _ => .refl s

theorem acts_lotStatus (fields : List Byte) (s : State) : Acts L s (lotStatus fields s).1 := acts_withLength (.refl s)

theorem acts_requestTaken (hl : ∀ x, L x) (kind : Byte) (r : Req) (s : State) : Acts L s (requestTaken kind r s) := by
  unfold requestTaken
  split
  · exact acts_taken acts_poll _ _ r s
  · exact acts_taken (acts_trayStatus (hl .powerUp)) _ _ r s
  · exact acts_taken (acts_trayRestart r.broadcast) _ _ r s
  · exact acts_taken (acts_planLoad (hl .plans)) _ _ r s
  · exact acts_taken (acts_profileLoad (hl .profiles)) _ _ r s
  · exact acts_taken (acts_budgetSet (hl .budget)) _ _ r s
  · exact acts_taken (acts_zoneSet (hl .zones)) _ _ r s
  · exact acts_taken acts_slotStart _ _ r s
  · exact acts_taken acts_slotHold _ _ r s
  · exact acts_taken acts_slotRelease _ _ r s
  · exact acts_taken acts_slotAbort _ _ r s
  · exact acts_taken acts_slotReport _ _ r s
  · exact acts_taken acts_lotStatus _ _ r s
  · exact acts_taken acts_lotTake _ _ r s
  · exact acts_taken acts_lotClose _ _ r s
  · exact acts_taken acts_lotExclude _ _ r s
  · exact acts_taken (fun _ s => .refl s) _ _ r s

theorem acts_bodyTaken (hl : ∀ x, L x) (broadcast : Bool) (body : List Byte) (s : State) : Acts L s (bodyTaken broadcast body s) := by
  unfold bodyTaken
  split
  · exact acts_requestTaken hl _ _ s
  · exact .refl s

/-- The framer holds bytes and takes the requests it finds (R166). -/
theorem acts_framer (hl : ∀ x, L x) (n : Nat) (again : List Byte) (chars : List LineChar) (s : State) : Acts L s (framer n again chars s) := by
  induction n generalizing again chars s with
  | zero => exact .refl s
  | succ n ih =>
    match again, chars with
    | [], [] => exact .refl s
    | [], .byte b :: rest => exact ih _ _ _
    | [], .badStop :: rest => exact (acts_held s []).trans (ih _ _ _)
    | b :: again, rest =>
      rw [framer]
      split
      · exact (acts_held s _).trans (ih _ _ _)
      · exact (acts_held s _).trans (ih _ _ _)
      · have hbody := (acts_held s []).trans (acts_bodyTaken hl ‹Bool› ‹List Byte› (s.setHeld []))
        simp only
        split
        · exact hbody
        · exact hbody.trans (ih _ _ _)

theorem acts_received (hl : ∀ x, L x) (chars : List LineChar) (s : State) : Acts L s (received chars s) := by
  unfold received
  split
  · exact .refl s
  · exact acts_framer hl _ _ _ s

theorem acts_replySent (s : State) : Acts L s (replySent s) := by
  unfold replySent
  split
  · exact acts_line s ⟨rfl, rfl, List.suffix_rfl, .inl rfl, .inl rfl⟩
  · exact .refl s

theorem acts_restartTaken (s : State) : Acts L s (restartTaken s) := by
  unfold restartTaken
  split
  · exact (acts_replySent s).trans (Act.restart _).one
  · exact .refl s

theorem acts_startRead (s : State) : Acts L s (startRead s) := by
  unfold startRead
  split
  · exact .refl s
  · exact (Act.idle s _ rfl).one

/-! ### The timebase -/

theorem acts_countDown (s : State) : Acts L s (countDown s) := by
  have hnow : Acts L s { s with now := s.now + 1 } := (Act.idle s _ rfl).one
  refine List.foldlRecOn (motive := Acts L s) slotIds _ hnow fun t ht i _ => ht.trans (acts_pins t i _ ?_ (.inl rfl))
  exact ⟨rfl, rfl, rfl, rfl, rfl, rfl⟩

theorem acts_due {p : Slot → Bool} {event : Fin 16 → State → State} (he : ∀ i s, Acts L s (event i s)) (i : Fin 16) (s : State) :
    Acts L s (due p event i s) := by
  unfold due
  split
  · exact he i s
  · exact .refl s

theorem acts_takeDue (hl : ∀ x, L x) (i : Fin 16) (s : State) : Acts L s (takeDue i s) := by
  unfold takeDue
  refine Acts.trans ?_ (acts_due (fun i s => .moves fun _ => .of (quiet_pacingEnds _ s)) i _)
  refine Acts.trans ?_ (acts_due (fun i s => .moves fun _ => moves_stepTimerEnds _ s) i _)
  refine Acts.trans ?_ (acts_due (fun i s => .moves fun _ => moves_offTimeEnds i s) i _)
  refine Acts.trans ?_ (acts_due (fun i s => .moves fun _ => moves_timeoutEnds i _ s) i _)
  exact (acts_due (acts_seatWindowEnds (hl .seats)) i s).trans (acts_due (acts_linkLost (hl .links)) i _)

theorem acts_tick (hl : ∀ x, L x) (s : State) : Acts L s (tick s) :=
  (List.foldlRecOn (motive := Acts L s) slotIds _ (acts_countDown s) fun t ht i _ => ht.trans (acts_takeDue hl i t)).trans
    (acts_refreshLamps _)

/-! ### Every command, every step -/

/-- The settings a command may change: those of its own, and any by the requests that characters carry. -/
def mayChange : Instr → Setting → Prop
  | .planLoad _, .plans | .profileLoad _, .profiles | .budgetSet _, .budget | .zoneSetRun _, .zones | .zoneSetStop _, .zones
  | .zoneSetClear _, .zones | .trayTimeTick, .time | .linkBeat _, .links | .linkLoss _, .links | .seatWindowEnd _, .seats
  | .trayStatus _, .powerUp | .frameDiscarded _, _ => True
  | _, _ => False

/-- Every command but power-on reset is a chain of acts, behind which the lamp chain is refreshed. -/
theorem acts_exec {c : Instr} (hc : ∀ a r, c ≠ .powerOnReset a r) (hl : ∀ x, mayChange c x → L x)
    (s : State) : ∃ t, exec c s = completed t ∧ Acts L s t := by
  cases c with
  | powerOnReset a r => exact absurd rfl (hc a r)
  | poll r => exact ⟨_, rfl, acts_taken acts_poll _ _ r s⟩
  | trayStatus r => exact ⟨_, rfl, acts_taken (acts_trayStatus (hl .powerUp trivial)) _ _ r s⟩
  | trayRestart r => exact ⟨_, rfl, acts_taken (acts_trayRestart r.broadcast) _ _ r s⟩
  | trayRestartTaken => exact ⟨_, rfl, acts_restartTaken s⟩
  | planLoad r => exact ⟨_, rfl, acts_taken (acts_planLoad (hl .plans trivial)) _ _ r s⟩
  | profileLoad r => exact ⟨_, rfl, acts_taken (acts_profileLoad (hl .profiles trivial)) _ _ r s⟩
  | budgetSet r => exact ⟨_, rfl, acts_taken (acts_budgetSet (hl .budget trivial)) _ _ r s⟩
  | zoneSetRun r => exact ⟨_, rfl, acts_taken (acts_zoneSet (hl .zones trivial)) _ _ _ s⟩
  | zoneSetStop r => exact ⟨_, rfl, acts_taken (acts_zoneSet (hl .zones trivial)) _ _ _ s⟩
  | zoneSetClear r => exact ⟨_, rfl, acts_taken (acts_zoneSet (hl .zones trivial)) _ _ _ s⟩
  | slotStart r => exact ⟨_, rfl, acts_taken acts_slotStart _ _ r s⟩
  | slotHold r => exact ⟨_, rfl, acts_taken acts_slotHold _ _ r s⟩
  | slotRelease r => exact ⟨_, rfl, acts_taken acts_slotRelease _ _ r s⟩
  | slotAbort r => exact ⟨_, rfl, acts_taken acts_slotAbort _ _ r s⟩
  | slotReport r => exact ⟨_, rfl, acts_taken acts_slotReport _ _ r s⟩
  | lotStatus r => exact ⟨_, rfl, acts_taken acts_lotStatus _ _ r s⟩
  | lotTake r => exact ⟨_, rfl, acts_taken acts_lotTake _ _ _ s⟩
  | lotTakeTakeYes r => exact ⟨_, rfl, acts_taken acts_lotTake _ _ _ s⟩
  | lotClose r => exact ⟨_, rfl, acts_taken acts_lotClose _ _ r s⟩
  | lotExclude r => exact ⟨_, rfl, acts_taken acts_lotExclude _ _ r s⟩
  | frameDiscarded chars => exact ⟨_, rfl, acts_received (fun x => hl x trivial) chars s⟩
  | seatSenseChange i raw => exact ⟨_, rfl, acts_seatSense i raw s⟩
  | seatWindowEnd i => exact ⟨_, rfl, acts_seatWindowEnds (hl .seats trivial) i s⟩
  | linkBeat i => exact ⟨_, rfl, acts_beat (hl .links trivial) i s⟩
  | linkLoss i => exact ⟨_, rfl, acts_linkLost (hl .links trivial) i s⟩
  | completion i c => exact ⟨_, rfl, .moves fun _ => moves_completionArrives i c s⟩
  | dataChunk i tag data => exact ⟨_, rfl, .moves fun _ => .of (quiet_dataArrives i tag data s)⟩
  | timeoutExpiry timer => exact ⟨_, rfl, .moves fun _ => moves_timeoutEnds timer.slot timer.tag s⟩
  | offTimeEnd i => exact ⟨_, rfl, .moves fun _ => moves_offTimeEnds i s⟩
  | stepTimerExpiry e => exact ⟨_, rfl, .moves fun _ => moves_stepTimerEnds e s⟩
  | pacingTick e => exact ⟨_, rfl, .moves fun _ => .of (quiet_pacingEnds e s)⟩
  | fillCompletion i n => exact ⟨_, rfl, .moves fun _ => .of (quiet_fillEnds i n s)⟩
  | checkCompletion i n => exact ⟨_, rfl, .moves fun _ => moves_checkEnds i n s⟩
  | sensorReadStart => exact ⟨_, rfl, acts_startRead s⟩
  | controlPeriod z read => exact ⟨_, rfl, acts_zonePeriod z read s⟩
  | replySent => exact ⟨_, rfl, acts_replySent s⟩
  | trayTimeTick => exact ⟨_, rfl, acts_line s ⟨rfl, rfl, List.suffix_rfl, .inr (hl .time trivial), .inl rfl⟩⟩

/-- A step is a power-on reset, or a chain of acts behind the command taken off the queue. -/
theorem step_acts {s t : State} (h : step s = .next t) :
    (∃ a r rest, s.pending = .powerOnReset a r :: rest ∧ t = refreshLamps (powerOn a r { s with pending := rest })) ∨
      ∃ rest, Acts (fun _ => True) { s with pending := rest } t := by
  unfold step at h
  split at h
  · rename_i c rest hp
    by_cases hc : ∃ a r, c = .powerOnReset a r
    · obtain ⟨a, r, rfl⟩ := hc
      exact .inl ⟨a, r, rest, hp, (Host.Outcome.next.inj h).symm⟩
    · obtain ⟨u, hu, ha⟩ := acts_exec (L := fun _ => True) (fun a r e => hc ⟨a, r, e⟩) (fun _ _ => trivial) { s with pending := rest }
      rw [hu] at h
      obtain rfl := Host.Outcome.next.inj h
      exact .inr ⟨rest, ha.trans (acts_refreshLamps u)⟩
  · obtain rfl := Host.Outcome.next.inj h
    exact .inr ⟨s.pending, acts_tick (fun _ => trivial) s⟩

/-- A law that power-on reset establishes, every act keeps, and the queue has no part in, is kept by every step. -/
theorem step_keeps {P : State → Prop} (hpower : ∀ a r s, P (powerOn a r s)) (hlamps : ∀ s, P s → P (refreshLamps s))
    (hqueue : ∀ s rest, P s → P { s with pending := rest }) (hact : ∀ {s t}, Act (fun _ => True) s t → P s → P t) {s t : State}
    (k : P s) (h : step s = .next t) : P t := by
  rcases step_acts h with ⟨a, r, rest, -, rfl⟩ | ⟨rest, ha⟩
  · exact hlamps _ (hpower a r _)
  · exact acts_keep hact ha (hqueue s rest k)

end Sys2Proof.Machine
end

section
/-! SUPPORT. What every act keeps: the latched address and rate (R162), the laws of notices (R172), record (R3), power (R24, R25), zones
(R111, R122, R123) and stores (R41, R44, R129). -/

namespace Sys2Proof.Machine

variable {L : Setting → Prop}

/-! ### Frames of the acts that are whole operations -/

theorem slot_powerOn (a : BitVec 5) (r : RateStrap) (s : State) (i : Fin 16) :
    (powerOn a r s).slot i = Slot.poweredOn (s.slot i).raw := by
  simp [powerOn, State.slot, Vector.get_eq_getElem]

theorem slot_restart (s : State) (i : Fin 16) : (restart s).slot i = (s.slot i).restarted := by
  simp [restart, State.slot, Vector.get_eq_getElem]

theorem zone_restart (s : State) (z : Fin 4) : (restart s).zone z = (s.zone z).restarted := by
  simp [restart, State.zone, Vector.get_eq_getElem]

/-! ### Address and rate (R162) -/

/-- The latched address and rate are these. -/
def Latched (l : Line) (s : State) : Prop := s.line.address = l.address ∧ s.line.rate = l.rate

theorem latched_line {l : Line} {s t : State} (h : t.line.address = s.line.address ∧ t.line.rate = s.line.rate)
    (k : Latched l s) : Latched l t := ⟨h.1.trans k.1, h.2.trans k.2⟩

theorem latched_act {l : Line} {s t : State} (h : Act L s t) (k : Latched l s) : Latched l t := by
  cases h with
  | run s t h =>
    have hline := (moves_untouched (h false nofun)).line
    exact latched_line (by rw [hline]; exact ⟨rfl, rfl⟩) k
  | idle s t h => rw [h]; exact k
  | line s m h => exact ⟨h.address.trans k.1, h.rate.trans k.2⟩
  | plan fields s => exact latched_line (by rw [planLoad_frame]; exact ⟨rfl, rfl⟩) k
  | profile fields s => exact latched_line (by rw [profileLoad_frame]; exact ⟨rfl, rfl⟩) k
  | pins | seat | clear | restart | budget | zone | recompute | allow | drive => exact k

/-! ### Notices (R172) -/

theorem noticeLaw_suffix {s t : State} (h : t.line.notices <:+ s.line.notices) (k : NoticeLaw s) : NoticeLaw t := by
  obtain ⟨hlen, hpair, hcount⟩ := k
  exact ⟨h.length_le.trans hlen, hpair.sublist h.sublist, fun n hn => hcount n (h.subset hn)⟩

theorem noticeLaw_act {s t : State} (h : Act L s t) (k : NoticeLaw s) : NoticeLaw t := by
  cases h with
  | run s t h => exact noticeLaw_moves (h false nofun) k
  | idle s t h => rw [h]; exact k
  | line s l h => exact noticeLaw_suffix h.notices k
  | restart s => exact noticeLaw_suffix (List.nil_suffix) k
  | plan fields s => exact noticeLaw_line (by rw [planLoad_frame]) k
  | profile fields s => exact noticeLaw_line (by rw [profileLoad_frame]) k
  | pins | seat | clear | budget | zone | recompute | allow | drive => exact noticeLaw_line rfl k

theorem noticeLaw_powerOn (a : BitVec 5) (r : RateStrap) (s : State) : NoticeLaw (powerOn a r s) :=
  ⟨Nat.zero_le _, List.Pairwise.nil, nofun⟩

/-! ### The record (R3) -/

theorem sound_pinsOnly {x y : Slot} (h : PinsOnly x y) (k : x.Sound) : y.Sound where
  seat := by rw [h.seated, h.state]; exact k.seat
  on := by rw [h.state, h.powered]; exact k.on
  off := by rw [h.state, h.powered]; exact k.off
  spun := by rw [h.spun, h.powered]; exact k.spun

theorem sound_empty {y : Slot} (hs : y.state = .empty) (hp : y.seated = false) (ho : y.powered = false) (hu : y.spun = false) :
    y.Sound where
  seat := by simp [hs, hp]
  on := by simp [hs, SlotState.poweredYes]
  off := fun _ => ho
  spun := by simp [hu]

theorem sound_seated {y : Slot} (hs : y.state = .seated) (hp : y.seated = true) (ho : y.powered = false) (hu : y.spun = false) :
    y.Sound where
  seat := by simp [hs, hp]
  on := by simp [hs, SlotState.poweredYes]
  off := fun _ => ho
  spun := by simp [hu]

theorem sound_restarted (x : Slot) : x.restarted.Sound := by
  cases hx : x.seated with
  | false => exact sound_empty (by simp [Slot.restarted, hx]) hx rfl rfl
  | true => exact sound_seated (by simp [Slot.restarted, hx]) hx rfl rfl

/-- A drive is seated where the record was that of an empty slot. -/
theorem sound_seat {x : Slot} (h : x.seated = false) (k : x.Sound) :
    ({ x with seated := true, window := none, state := .seated } : Slot).Sound := by
  have hempty : x.state = .empty := by
    by_contra hne
    rw [k.seat.2 hne] at h
    cases h
  have hoff : x.powered = false := k.off (by rw [hempty]; rfl)
  have hspun : x.spun = false := by
    cases e : x.spun with
    | false => rfl
    | true => rw [k.spun e] at hoff; cases hoff
  exact sound_seated rfl rfl hoff hspun

/-- One record changes, keeping its state where the slot stands on the lot-wait list. -/
theorem recordLaw_setSlot {s : State} {i : Fin 16} {y : Slot} (hy : y.Sound)
    (hw : i ∈ s.lots.waiting → y.state = (s.slot i).state) (k : RecordLaw s) : RecordLaw (s.setSlot i y) := by
  obtain ⟨hsound, hwait⟩ := k
  refine ⟨fun j => ?_, fun j hj => ?_⟩
  · rw [slot_setSlot]
    split
    · exact hy
    · exact hsound j
  · rw [slot_setSlot]
    split
    · subst_vars
      exact (hw hj).trans (hwait _ hj)
    · exact hwait j hj

theorem recordLaw_frame {s t : State} (hs : t.slots = s.slots) (hl : t.lots = s.lots) (k : RecordLaw s) : RecordLaw t := by
  unfold RecordLaw State.slot at *
  rwa [hs, hl]

theorem not_waiting_of_unseated {s : State} {i : Fin 16} (k : RecordLaw s) (h : (s.slot i).seated = false) :
    i ∉ s.lots.waiting := by
  intro hi
  have hne : (s.slot i).state ≠ .empty := by rw [k.2 i hi]; decide
  rw [(k.1 i).seat.2 hne] at h
  cases h

theorem recordLaw_act {s t : State} (h : Act L s t) (k : RecordLaw s) : RecordLaw t := by
  cases h with
  | run s t h => exact recordLaw_moves (h true fun _ => k) k
  | idle s t h => rw [h]; exact k
  | pins s i y h => exact recordLaw_setSlot (sound_pinsOnly h (k.1 i)) (fun _ => h.state) k
  | seat s i h => exact recordLaw_setSlot (sound_seat h (k.1 i)) (fun hi => absurd hi (not_waiting_of_unseated k h)) k
  | clear s i y hw hs hp ho hu => exact recordLaw_setSlot (sound_empty hs hp ho hu) (fun hi => absurd hi hw) k
  | restart s => exact ⟨fun i => by rw [slot_restart]; exact sound_restarted _, nofun⟩
  | plan fields s => rw [planLoad_frame]; exact recordLaw_frame rfl rfl k
  | profile fields s => rw [profileLoad_frame]; exact recordLaw_frame rfl rfl k
  | line | budget | zone | recompute | allow | drive => exact recordLaw_frame rfl rfl k

theorem recordLaw_powerOn (a : BitVec 5) (r : RateStrap) (s : State) : RecordLaw (powerOn a r s) :=
  ⟨fun i => by rw [slot_powerOn]; exact sound_empty rfl rfl rfl rfl, nofun⟩

/-! ### Power (R24, R25, R41) -/

theorem pinsOnly_commit {x y : Slot} (h : PinsOnly x y) (plans : Vector (Option Plan) 4) : slotCommit plans y = slotCommit plans x := by
  unfold slotCommit
  rw [h.state, h.powered, h.plan, h.returnTo]

theorem pinsOnly_place {x y : Slot} (h : PinsOnly x y) : placeOf y = placeOf x := by
  unfold placeOf Slot.spinPlace
  rw [h.state, h.returnTo]

/-- A slot whose power is off, or becomes so, commits nothing. -/
theorem powerLaw_setSlot_off {s : State} {i : Fin 16} {y : Slot} (hy : y.state.poweredNo = true) (k : PowerLaw s) :
    PowerLaw (s.setSlot i y) := by
  refine powerLaw_setSlot ?_ ?_ k
  · rw [slotCommit_of_poweredNo hy]; exact Nat.zero_le _
  · rw [placeOf_of_poweredNo hy]; exact Nat.zero_le _

/-- Power and slots are as they were, the zones commit no more, and the plans keep their costs in order. -/
theorem powerLaw_frame {s t : State} (hs : t.slots = s.slots) (hp : t.plans = s.plans) (hg : t.staging = s.staging)
    (hb : t.power.budget = s.power.budget) (hl : t.power.limit = s.power.limit) (hz : t.heaterTotal ≤ s.heaterTotal)
    (k : PowerLaw s) : PowerLaw t := by
  obtain ⟨hcommitted, hcount, hplans, hstaging⟩ := k
  have hslot (i : Fin 16) : t.slot i = s.slot i := by rw [State.slot, hs]; rfl
  have hdrive : t.driveTotal = s.driveTotal := by simp only [driveTotal_eq, hslot, hp]
  have hspin : t.spinCount = s.spinCount := by simp only [spinCount_eq, hslot]
  refine ⟨?_, ?_, fun p x hx => hplans p x ?_, fun p x hx => hstaging p x ?_⟩
  · rw [State.committed] at *
    omega
  · omega
  · rwa [State.planAt, hp] at hx
  · rwa [State.stagingAt, hg] at hx

theorem heaterTotal_eq (s : State) :
    s.heaterTotal = (s.zone 0).commit + (s.zone 1).commit + (s.zone 2).commit + (s.zone 3).commit := by
  simp [State.heaterTotal, quadIds]
  omega

theorem heaterTotal_setZone (s : State) (z : Fin 4) (x : Zone) :
    (s.setZone z x).heaterTotal + (s.zone z).commit = s.heaterTotal + x.commit := by
  fin_cases z <;> simp [heaterTotal_eq, zone_setZone] <;> omega

/-- A duty within an allowance commits no more than the allowance, nor than the duty's share of the cost (R34). -/
theorem applyAllowance_commit (z : Zone) (cost allowance : Nat) : (z.applyAllowance cost allowance).commit ≤ allowance := by
  have hlim : cost * (allowance * 100 / cost) ≤ allowance * 100 := Nat.mul_div_le _ _
  have hduty : cost * min z.demand (allowance * 100 / cost) ≤ allowance * 100 :=
    (Nat.mul_le_mul_left _ (Nat.min_le_right _ _)).trans hlim
  simp only [Zone.applyAllowance, ceilDiv]
  omega

theorem applyAllowance_commit_cost (z : Zone) (cost allowance : Nat) (h : z.demand ≤ 100) :
    (z.applyAllowance cost allowance).commit ≤ cost := by
  have hduty : cost * min z.demand (allowance * 100 / cost) ≤ cost * 100 :=
    Nat.mul_le_mul_left _ ((Nat.min_le_left _ _).trans h)
  simp only [Zone.applyAllowance, ceilDiv]
  omega

/-- The room of a zone is what the others leave of the budget (R34). -/
theorem room_add (s : State) (z : Fin 4) (h : s.committed ≤ s.power.budget) :
    s.driveTotal + s.heaterTotal + s.room z ≤ s.power.budget + (s.zone z).commit := by
  rw [State.committed, heaterTotal_eq] at h
  fin_cases z <;> simp [State.room, heaterTotal_eq, quadIds] <;> omega

theorem powerLaw_allowZone (z : Fin 4) {s : State} (k : PowerLaw s) : PowerLaw (allowZone z s) := by
  obtain ⟨hcommitted, hcount, hplans, hstaging⟩ := k
  refine ⟨?_, hcount, hplans, hstaging⟩
  have hroom := room_add s z hcommitted
  have hallow : (if (s.zone z).demanding then min s.share (s.room z) else 0) ≤ s.room z := by split <;> omega
  have happly := (applyAllowance_commit (s.zone z) (s.power.cost.get z) _).trans hallow
  have hset := heaterTotal_setZone s z ((s.zone z).applyAllowance (s.power.cost.get z)
    (if (s.zone z).demanding then min s.share (s.room z) else 0))
  show State.driveTotal s + State.heaterTotal _ ≤ s.power.budget
  simp only [allowZone]
  omega

/-- In a recompute the zones together take no more than the pool (R33, R35). -/
theorem heaterTotal_recomputeZones (s : State) : (recomputeZones s).heaterTotal ≤ s.heaterPool := by
  have hzone (z : Fin 4) : ((recomputeZones s).zone z).commit ≤ if (s.zone z).demanding then s.share else 0 := by
    rw [recomputeZones_zone]
    exact applyAllowance_commit _ _ _
  have hshare : s.demandCount * s.share ≤ s.heaterPool := Nat.mul_div_le _ _
  have hcount : s.demandCount * s.share = (quadIds.map fun z => if (s.zone z).demanding then s.share else 0).sum := by
    have hsplit (z : Fin 4) : (if (s.zone z).demanding then s.share else 0)
        = (if (s.zone z).demanding then 1 else 0) * s.share := by split <;> simp
    simp only [State.demandCount, length_filter_eq_sum, hsplit, List.sum_map_mul_right]
  have h0 := hzone 0
  have h1 := hzone 1
  have h2 := hzone 2
  have h3 := hzone 3
  simp only [quadIds, List.map_cons, List.map_nil, List.sum_cons, List.sum_nil] at hcount
  rw [heaterTotal_eq]
  omega

theorem powerLaw_recomputeZones {s : State} (hd : s.driveTotal ≤ s.power.budget) (hl : s.spinCount ≤ s.power.limit)
    (hp : ∀ p x, s.planAt p = some x → x.costsOrdered) (hg : ∀ p x, s.stagingAt p = some x → x.costsOrdered) :
    PowerLaw (recomputeZones s) := by
  refine ⟨?_, hl, hp, hg⟩
  have hheat := heaterTotal_recomputeZones s
  have hpool : s.heaterPool ≤ s.power.budget - s.driveTotal := Nat.sub_le _ _
  show State.driveTotal s + (recomputeZones s).heaterTotal ≤ s.power.budget
  omega

/-- Every slot without power commits nothing. -/
theorem powerLaw_of_no_power {s : State} (hs : ∀ i, (s.slot i).state.poweredNo = true) (hz : s.heaterTotal = 0)
    (hp : ∀ p x, s.planAt p = some x → x.costsOrdered) (hg : ∀ p x, s.stagingAt p = some x → x.costsOrdered) : PowerLaw s := by
  have hdrive : s.driveTotal = 0 := by simp [driveTotal_eq, slotCommit_of_poweredNo (hs _)]
  have hspin : s.spinCount = 0 := by simp [spinCount_eq, placeOf_of_poweredNo (hs _)]
  exact ⟨by rw [State.committed]; omega, by omega, hp, hg⟩

theorem powerLaw_recomputeZones_of_law {s : State} (k : PowerLaw s) : PowerLaw (recomputeZones s) := by
  obtain ⟨hcommitted, hcount, hplans, hstaging⟩ := k
  exact powerLaw_recomputeZones (by rw [State.committed] at hcommitted; omega) hcount hplans hstaging

/-! ### Plan and profile stores -/

/-- Headers as PLAN LOAD takes them are in range (R44). -/
theorem header_sound (h : List Byte) : (header h).HeaderSound := by
  constructor <;> simp only [header, timeoutMs, clamp, List.length_take] <;> omega

theorem sweepFields_sound {e : List Byte} {f : SweepFields} (h : sweepFields? e = some f) : f.Sound := by
  unfold sweepFields? at h
  split at h
  · obtain rfl := Option.some.inj h
    constructor <;> simp only [clamp] <;> omega
  · cases h

theorem seekFields_sound {e : List Byte} {f : SeekFields} (h : seekFields? e = some f) : f.Sound := by
  obtain ⟨pacing, -, rfl⟩ := Option.map_eq_some_iff.1 h
  constructor <;> simp only [clamp] <;> omega

theorem fieldAt_one_le (e : List Byte) (k : Nat) : fieldAt e k 1 ≤ 255 := by
  unfold fieldAt
  rcases e.drop k with _ | ⟨b, rest⟩
  · simp [ofLe]
  · have := b.isLt
    simp [ofLe]
    omega

/-- A step entry as taken is in range (R44). -/
theorem step_sound {e : List Byte} {st : Step} (h : step? e = some st) : st.Sound := by
  unfold step? at h
  split at h
  · obtain rfl := Option.some.inj h; trivial
  · obtain rfl := Option.some.inj h; trivial
  · obtain rfl := Option.some.inj h; trivial
  · obtain ⟨f, hf, rfl⟩ := Option.map_eq_some_iff.1 h
    exact sweepFields_sound hf
  · obtain ⟨f, hf, hv⟩ := Option.bind_eq_some_iff.1 h
    obtain ⟨verify, -, rfl⟩ := Option.map_eq_some_iff.1 hv
    exact sweepFields_sound hf
  · obtain ⟨f, hf, rfl⟩ := Option.map_eq_some_iff.1 h
    exact seekFields_sound hf
  · obtain rfl := Option.some.inj h
    simp only [Step.Sound, clamp]
    omega
  · obtain rfl := Option.some.inj h; trivial
  · obtain rfl := Option.some.inj h
    have := fieldAt_one_le e 1
    simp only [Step.Sound, clamp]
    omega
  · cases h

theorem steps_sound {n : Nat} {bytes : List Byte} {place : Nat} {steps : List Step} (h : steps? n bytes place = .ok steps) :
    steps.length = n ∧ ∀ st ∈ steps, st.Sound := by
  induction n generalizing bytes place steps with
  | zero =>
    obtain rfl : [] = steps := Except.ok.inj h
    exact ⟨rfl, nofun⟩
  | succ n ih =>
    unfold steps? at h
    split at h
    · cases h
    · rename_i st hst
      cases hrest : steps? n (bytes.drop 16) (place + 1) with
      | error k => rw [hrest] at h; cases h
      | ok rest =>
        rw [hrest] at h
        obtain rfl : st :: rest = steps := Except.ok.inj h
        obtain ⟨hlen, hall⟩ := ih hrest
        exact ⟨by simp [hlen], by simpa using ⟨step_sound hst, hall⟩⟩

/-- The image a part leaves, of a header sent now or staged before, holds steps in range, at most 32 of them (R42, R43). -/
structure ImageOf (s : State) (id : Fin 4) (image : Plan) : Prop where
  source : ∃ before : Plan, ((∃ h, before = header h) ∨ s.stagingAt id = some before) ∧
    ∃ steps : List Step, image = { before with steps := before.steps ++ steps } ∧ ∀ st ∈ steps, st.Sound
  length : image.steps.length ≤ 32

/-- What a part gives: at index 0 a header, elsewhere none (R43 check 2). -/
theorem part_head {fields : List Byte} {p : Part} (h : part? fields = some p) :
    (p.index = 0 ∧ ∃ b, p.head = some (header b)) ∨ (p.index ≠ 0 ∧ p.head = none) := by
  unfold part? at h
  split at h
  · cases h
  · obtain ⟨last, -, h⟩ := Option.bind_eq_some_iff.1 h
    split at h
    · rename_i hindex
      split at h
      · cases h
      · obtain ⟨n, -, rfl⟩ := Option.map_eq_some_iff.1 h
        exact .inl ⟨hindex, _, rfl⟩
    · rename_i hindex
      obtain ⟨n, -, rfl⟩ := Option.map_eq_some_iff.1 h
      exact .inr ⟨hindex, rfl⟩

/-- The image of a part that passes the checks of R43. -/
theorem staged_imageOf {fields : List Byte} {p : Part} {s : State} {id : Fin 4} {steps : List Step} (hp : part? fields = some p)
    (hindex : ¬ (p.index ≠ 0 ∧ (s.stagingAt id = none ∨ s.stagedCount id ≠ p.index))) (hcount : ¬ 32 < p.index + p.count)
    (hsteps : steps? p.count p.entries p.index = .ok steps) : ImageOf s id (p.staged (s.stagingAt id) steps) := by
  obtain ⟨hlen, hsound⟩ := steps_sound hsteps
  rcases part_head hp with ⟨hzero, b, hhead⟩ | ⟨hne, hhead⟩
  · simp only [Part.staged, hhead]
    refine ⟨⟨header b, .inl ⟨b, rfl⟩, steps, rfl, hsound⟩, ?_⟩
    show steps.length ≤ 32
    omega
  · cases hstaged : s.stagingAt id with
    | none => exact absurd ⟨hne, .inl hstaged⟩ hindex
    | some x =>
      have hplace : x.steps.length = p.index := by
        by_contra hx
        exact hindex ⟨hne, .inr (by simpa [State.stagedCount, hstaged] using hx)⟩
      simp only [Part.staged, hhead]
      refine ⟨⟨x, .inr hstaged, steps, rfl, hsound⟩, ?_⟩
      show (x.steps ++ steps).length ≤ 32
      rw [List.length_append]
      omega

/-- What PLAN LOAD leaves: nothing changed, an image staged, or one installed that passes validation (R42 to R46). -/
theorem planLoad_cases (fields : List Byte) (s : State) : (planLoad fields s).1 = s ∨ ∃ id image, ImageOf s id image ∧
    ((planLoad fields s).1 = s.setStaging id (some image) ∨
      image.invalid = none ∧ s.planInUse id = false ∧
        (planLoad fields s).1 = (s.setPlan id (some image)).setStaging id none) := by
  unfold planLoad
  split
  · exact .inl rfl
  · split
    · exact .inl rfl
    · rename_i id _
      split
      · exact .inl rfl
      · rename_i p hp
        split
        · exact .inl rfl
        · rename_i hindex
          split
          · exact .inl rfl
          · rename_i hcount
            split
            · exact .inl rfl
            · rename_i steps hsteps
              have himage := staged_imageOf hp hindex hcount hsteps
              unfold takePart
              simp only
              split
              · split
                · exact .inl rfl
                · rename_i hvalid
                  split
                  · exact .inl rfl
                  · rename_i hfree
                    exact .inr ⟨id, _, himage, .inr ⟨hvalid, Bool.eq_false_iff.2 hfree, rfl⟩⟩
              · exact .inr ⟨id, _, himage, .inl rfl⟩

theorem stagingAt_setStaging (s : State) (p q : Fin 4) (x : Option Plan) :
    (s.setStaging p x).stagingAt q = if q = p then x else s.stagingAt q := by
  simp only [State.stagingAt, State.setStaging, Vector.get_eq_getElem, Vector.getElem_set]
  simp only [Fin.val_inj, eq_comm]

theorem planAt_setPlan (s : State) (p q : Fin 4) (x : Option Plan) :
    (s.setPlan p x).planAt q = if q = p then x else s.planAt q := by
  simp only [State.planAt, State.setPlan, Vector.get_eq_getElem, Vector.getElem_set]
  simp only [Fin.val_inj, eq_comm]

/-- A fact that holds of every staged image and of every image a part leaves stays true of the plans PLAN LOAD holds. -/
theorem planLoad_store {Loaded Staged : Plan → Prop} {fields : List Byte} {s : State}
    (hp : ∀ p x, s.planAt p = some x → Loaded x) (hg : ∀ p x, s.stagingAt p = some x → Staged x)
    (himage : ∀ id image, ImageOf s id image → Staged image ∧ (image.invalid = none → Loaded image)) :
    (∀ p x, (planLoad fields s).1.planAt p = some x → Loaded x) ∧
      ∀ p x, (planLoad fields s).1.stagingAt p = some x → Staged x := by
  rcases planLoad_cases fields s with h | ⟨id, image, hi, h | ⟨hvalid, -, h⟩⟩
  · rw [h]
    exact ⟨hp, hg⟩
  · rw [h]
    refine ⟨hp, fun p x hx => ?_⟩
    rw [stagingAt_setStaging] at hx
    split at hx
    · obtain rfl := Option.some.inj hx
      exact (himage id image hi).1
    · exact hg p x hx
  · rw [h]
    refine ⟨fun p x hx => ?_, fun p x hx => ?_⟩
    · change (s.setPlan id (some image)).planAt p = some x at hx
      rw [planAt_setPlan] at hx
      split at hx
      · obtain rfl := Option.some.inj hx
        exact (himage id image hi).2 hvalid
      · exact hp p x hx
    · rw [stagingAt_setStaging] at hx
      split at hx
      · cases hx
      · exact hg p x hx

theorem imageOf_costsOrdered {s : State} (hg : ∀ p x, s.stagingAt p = some x → x.costsOrdered) {id : Fin 4} {image : Plan}
    (h : ImageOf s id image) : image.costsOrdered := by
  obtain ⟨before, hsource, steps, rfl, -⟩ := h.source
  rcases hsource with ⟨b, rfl⟩ | hstaged
  · exact (header_sound b).runCost.2.2
  · exact hg id before hstaged

theorem mem_slotIds : ∀ i : Fin 16, i ∈ slotIds := by decide

theorem poweredNo_of_not_inUse {x : SlotState} : x.inUse = false → x.poweredNo = true := by
  cases x <;> decide

/-- A plan that no run uses bears on no slot's commitment (R46). -/
theorem slotCommit_setPlan {s : State} {p : Fin 4} (image : Option Plan) (h : s.planInUse p = false) (i : Fin 16) :
    slotCommit (s.setPlan p image).plans (s.slot i) = slotCommit s.plans (s.slot i) := by
  by_cases hi : (s.slot i).plan = some p
  · have hfree : (s.slot i).state.inUse = false := by
      have hall := List.any_eq_false.1 h i (mem_slotIds i)
      simpa [hi] using hall
    have hoff := poweredNo_of_not_inUse hfree
    rw [slotCommit_of_poweredNo hoff, slotCommit_of_poweredNo hoff]
  · have hplan : ((s.slot i).plan.bind fun q => (s.setPlan p image).plans.get q) = (s.slot i).plan.bind fun q => s.plans.get q := by
      cases hq : (s.slot i).plan with
      | none => rfl
      | some q =>
        have hne : q ≠ p := by rintro rfl; exact hi hq
        have hget := planAt_setPlan s p q image
        rw [if_neg hne] at hget
        exact hget
    unfold slotCommit
    rw [hplan]

theorem planLoad_driveTotal (fields : List Byte) (s : State) : (planLoad fields s).1.driveTotal = s.driveTotal := by
  rcases planLoad_cases fields s with h | ⟨id, image, -, h | ⟨-, hfree, h⟩⟩
  · rw [h]
  · rw [h]; rfl
  · rw [h, driveTotal_eq, driveTotal_eq]
    exact sum_slotIds_congr fun i => slotCommit_setPlan (some image) hfree i

theorem powerLaw_planLoad (fields : List Byte) {s : State} (k : PowerLaw s) : PowerLaw (planLoad fields s).1 := by
  obtain ⟨hcommitted, hcount, hplans, hstaging⟩ := k
  obtain ⟨hplans', hstaging'⟩ := planLoad_store (fields := fields) hplans hstaging
    fun id image h => ⟨imageOf_costsOrdered hstaging h, fun _ => imageOf_costsOrdered hstaging h⟩
  have hdrive := planLoad_driveTotal fields s
  have hheat : (planLoad fields s).1.heaterTotal = s.heaterTotal := by rw [planLoad_frame]; rfl
  have hpower : (planLoad fields s).1.power = s.power := by rw [planLoad_frame]
  have hspin : (planLoad fields s).1.spinCount = s.spinCount := by rw [planLoad_frame]; rfl
  exact ⟨by rw [State.committed, hdrive, hheat, hpower]; exact hcommitted, by rw [hspin, hpower]; exact hcount, hplans', hstaging'⟩

theorem powerLaw_profileLoad (fields : List Byte) {s : State} (k : PowerLaw s) : PowerLaw (profileLoad fields s).1 := by
  rw [profileLoad_frame]
  exact k

theorem poweredNo_restarted (x : Slot) : x.restarted.state.poweredNo = true := by
  cases hx : x.seated <;> simp [Slot.restarted, hx, SlotState.poweredNo]

theorem stagingAt_restart (s : State) (p : Fin 4) : (restart s).stagingAt p = none := by
  simp [State.stagingAt, restart, Vector.get_eq_getElem]

theorem powerLaw_restart {s : State} (k : PowerLaw s) : PowerLaw (restart s) := by
  obtain ⟨-, -, hplans, -⟩ := k
  refine powerLaw_of_no_power (fun i => by rw [slot_restart]; exact poweredNo_restarted _) ?_ hplans ?_
  · simp [heaterTotal_eq, zone_restart, Zone.restarted, Zone.heaterOff]
  · intro p x hx
    rw [stagingAt_restart] at hx
    cases hx

/-- A zone commits no more than before. -/
theorem powerLaw_setZone {s : State} {z : Fin 4} {x : Zone} (h : x.commit ≤ (s.zone z).commit) (k : PowerLaw s) :
    PowerLaw (s.setZone z x) := by
  have hset := heaterTotal_setZone s z x
  exact powerLaw_frame (s := s) rfl rfl rfl rfl rfl (by omega) k

theorem powerLaw_act {s t : State} (h : Act L s t) (k : PowerLaw s) : PowerLaw t := by
  cases h with
  | run s t h => exact powerLaw_moves (h false nofun) k
  | idle s t h =>
    rw [h]
    exact k
  | line => exact k
  | profile fields s => exact powerLaw_profileLoad fields k
  | pins s i y h => exact powerLaw_setSlot (le_of_eq (pinsOnly_commit h _)) (le_of_eq (pinsOnly_place h)) k
  | seat s i h => exact powerLaw_setSlot_off rfl k
  | clear s i y hw hs hp ho hu => exact powerLaw_setSlot_off (by rw [hs]; rfl) k
  | restart s => exact powerLaw_restart k
  | plan fields s => exact powerLaw_planLoad fields k
  | budget fields s hb hl => exact powerLaw_recomputeZones hb hl k.2.2.1 k.2.2.2
  | zone s z x hx hc => exact powerLaw_setZone hc k
  | recompute s => exact powerLaw_recomputeZones_of_law k
  | allow s z => exact powerLaw_allowZone z k
  | drive s z h => exact powerLaw_allowZone z (powerLaw_setZone (le_refl _) k)

theorem planAt_powerOn (a : BitVec 5) (r : RateStrap) (s : State) (p : Fin 4) : (powerOn a r s).planAt p = none := by
  simp [State.planAt, powerOn, State.reset, Vector.get_eq_getElem]

theorem stagingAt_powerOn (a : BitVec 5) (r : RateStrap) (s : State) (p : Fin 4) : (powerOn a r s).stagingAt p = none := by
  simp [State.stagingAt, powerOn, State.reset, Vector.get_eq_getElem]

theorem profileAt_powerOn (a : BitVec 5) (r : RateStrap) (s : State) (p : Fin 4) : (powerOn a r s).profileAt p = none := by
  simp [State.profileAt, powerOn, State.reset, Vector.get_eq_getElem]

theorem powerLaw_powerOn (a : BitVec 5) (r : RateStrap) (s : State) : PowerLaw (powerOn a r s) := by
  refine powerLaw_of_no_power (fun i => by rw [slot_powerOn]; rfl) rfl ?_ ?_
  · intro p x hx
    rw [planAt_powerOn] at hx
    cases hx
  · intro p x hx
    rw [stagingAt_powerOn] at hx
    cases hx

/-! ### Zones (R111, R122, R123) -/

theorem zoneLaw_frame {s t : State} (hz : t.zones = s.zones) (hc : t.power.cost = s.power.cost) (k : ZoneLaw s) : ZoneLaw t := by
  unfold ZoneLaw State.zone at *
  rwa [hz, hc]

theorem zoneLaw_setZone {s : State} {z : Fin 4} {x : Zone}
    (hx : (s.zone z).Sound (s.power.cost.get z) → x.Sound (s.power.cost.get z)) (k : ZoneLaw s) : ZoneLaw (s.setZone z x) := by
  obtain ⟨hcost, hsound⟩ := k
  refine ⟨hcost, fun y => ?_⟩
  rw [zone_setZone]
  split
  · subst_vars
    exact hx (hsound _)
  · exact hsound y

/-- A record that is sound but for its duty and commitment becomes sound as it takes an allowance (R122, R123). -/
theorem sound_applyAllowance {z : Zone} {cost cost' allowance : Nat} (k : z.Sound cost) : (z.applyAllowance cost' allowance).Sound cost' :=
  { k with
    duty := Nat.min_le_left _ _
    commit := applyAllowance_commit_cost z cost' allowance k.demand
    cold := fun h => by
      obtain ⟨hdemand, -, -⟩ := k.cold h
      simp [Zone.applyAllowance, hdemand, ceilDiv] }

theorem sound_driven {z : Zone} {cost cost' allowance : Nat} (h : z.state = .ramp ∨ z.state = .soak) (k : z.Sound cost) :
    (z.driven.applyAllowance cost' allowance).Sound cost' := by
  have hdemand : z.driven.demand ≤ 100 := by simp only [Zone.driven]; omega
  have hfan : z.driven.fan ≤ 100 := by
    have := k.settings.fanMin.2
    simp only [Zone.driven]
    omega
  exact { k with
    demand := hdemand
    duty := Nat.min_le_left _ _
    fan := hfan
    commit := applyAllowance_commit_cost z.driven cost' allowance hdemand
    cold := by
      intro hcold
      change z.state = .off ∨ z.state = .cool ∨ z.state = .fault at hcold
      rcases h with h | h <;> simp [h] at hcold }

theorem zoneLaw_recomputeZones {s : State} (hcost : ∀ z : Fin 4, 10 ≤ s.power.cost.get z ∧ s.power.cost.get z ≤ 400)
    (hz : ∀ z, ∃ cost, (s.zone z).Sound cost) : ZoneLaw (recomputeZones s) := by
  refine ⟨hcost, fun z => ?_⟩
  obtain ⟨cost, hsound⟩ := hz z
  rw [recomputeZones_zone]
  exact sound_applyAllowance hsound

theorem zoneLaw_allowZone {s : State} (z : Fin 4) (k : ZoneLaw s) : ZoneLaw (allowZone z s) :=
  zoneLaw_setZone sound_applyAllowance k

theorem zoneLaw_act {s t : State} (h : Act L s t) (k : ZoneLaw s) : ZoneLaw t := by
  cases h with
  | run s t h =>
    have huntouched := moves_untouched (h false nofun)
    exact zoneLaw_frame huntouched.zones huntouched.cost k
  | idle s t h => rw [h]; exact k
  | line | pins | seat | clear => exact zoneLaw_frame rfl rfl k
  | restart s =>
    obtain ⟨hcost, hsound⟩ := k
    refine ⟨hcost, fun z => ?_⟩
    have hz := hsound z
    rw [zone_restart]
    exact sound_cold hz rfl rfl rfl rfl (.inl rfl) rfl rfl rfl rfl hz.settings.fanMin.2 rfl
  | plan fields s => rw [planLoad_frame]; exact zoneLaw_frame rfl rfl k
  | profile fields s => rw [profileLoad_frame]; exact zoneLaw_frame rfl rfl k
  | budget fields s hb hl =>
    refine zoneLaw_recomputeZones (fun z => ?_) fun z => ⟨_, k.2 z⟩
    rw [withPower_power, budgetFields_cost]
    omega
  | zone s z x hx hc => exact zoneLaw_setZone (hx _) k
  | recompute s => exact zoneLaw_recomputeZones k.1 fun z => ⟨_, k.2 z⟩
  | allow s z => exact zoneLaw_allowZone z k
  | drive s z h =>
    have hset : allowZone z (s.modZone z Zone.driven) = s.setZone z ((s.zone z).driven.applyAllowance (s.power.cost.get z)
        (if (s.zone z).driven.demanding then min (s.modZone z Zone.driven).share ((s.modZone z Zone.driven).room z) else 0)) := by
      rw [allowZone, zone_modZone_same]
      simp [State.modZone, State.setZone]
    rw [hset]
    exact zoneLaw_setZone (sound_driven h) k

theorem zoneLaw_powerOn (a : BitVec 5) (r : RateStrap) (s : State) : ZoneLaw (powerOn a r s) := by
  refine zoneLaw_frame (s := State.reset) rfl rfl ⟨by decide, fun z => ?_⟩
  have hzone : State.reset.zone z = Zone.reset := by simp [State.zone, State.reset, Vector.get_eq_getElem]
  rw [hzone]
  exact
    { settings := by constructor <;> decide
      temp := nofun
      miss := Nat.zero_le _
      fine := by decide
      reason := by decide
      heated := by decide
      band := by decide
      demand := by decide
      duty := by decide
      fan := by decide
      commit := Nat.zero_le _
      cold := by decide }

/-! ### Stores (R41, R42, R44, R45, R129) -/

theorem imageOf_sound {s : State} {id : Fin 4} {image : Plan}
    (hg : ∀ p x, s.stagingAt p = some x → x.HeaderSound ∧ (∀ st ∈ x.steps, st.Sound) ∧ x.steps.length ≤ 32)
    (h : ImageOf s id image) : image.HeaderSound ∧ (∀ st ∈ image.steps, st.Sound) ∧ image.steps.length ≤ 32 := by
  have hlen := h.length
  obtain ⟨before, hsource, steps, rfl, hsteps⟩ := h.source
  have hbefore : before.HeaderSound ∧ ∀ st ∈ before.steps, st.Sound := by
    rcases hsource with ⟨b, rfl⟩ | hstaged
    · exact ⟨header_sound b, nofun⟩
    · obtain ⟨hhead, hall, -⟩ := hg id before hstaged
      exact ⟨hhead, hall⟩
  obtain ⟨hhead, hall⟩ := hbefore
  refine ⟨{ hhead with }, fun st hst => ?_, hlen⟩
  rcases List.mem_append.1 hst with h | h
  · exact hall st h
  · exact hsteps st h

theorem steps_of_valid {x : Plan} (h : x.invalid = none) : 1 ≤ x.steps.length := by
  unfold Plan.invalid at h
  split at h
  · cases h
  · rename_i hne
    rw [List.isEmpty_iff] at hne
    exact List.length_pos_of_ne_nil hne

theorem binEntry_sound {e : List Byte} {o : Option BinEntry} (h : binEntry? e = some o) :
    ∀ x, o = some x → x.dmax ≤ 8608800 ∧ x.umax ≤ 4095 ∧ x.wmax ≤ 4095 := by
  obtain ⟨present, -, rfl⟩ := Option.map_eq_some_iff.1 h
  rintro x hx
  split at hx
  · obtain rfl := Option.some.inj hx
    simp only [clamp]
    omega
  · cases hx

theorem profile_sound {bytes : List Byte} {f : Profile} (h : profile? bytes = .ok f) : f.Sound := by
  unfold profile? at h
  split at h
  · cases h
  · cases h
  · cases h
  · cases h
  · rename_i ha hb hc hd
    obtain rfl := Except.ok.inj h
    refine ⟨?_, ?_, ?_, ?_, ?_⟩
    · simp only [List.mem_cons, List.not_mem_nil, or_false]
      rintro w (rfl | rfl | rfl | rfl | rfl | rfl | rfl | rfl | rfl) <;> exact fieldAt_one_le _ _
    · simp only [clamp]; omega
    · simp only [clamp]; omega
    · simp only [clamp]; omega
    · intro b e he
      cases b
      · exact binEntry_sound ha e he
      · exact binEntry_sound hb e he
      · exact binEntry_sound hc e he
      · exact binEntry_sound hd e he

/-- What PROFILE LOAD leaves: nothing changed, or a profile in range installed that no run and no lot uses (R130, R131). -/
theorem profileLoad_cases (fields : List Byte) (s : State) : (profileLoad fields s).1 = s ∨
    ∃ id f, f.Sound ∧ s.profileInUse id = false ∧ (profileLoad fields s).1 = s.setProfile id (some f) := by
  unfold profileLoad
  split
  · exact .inl rfl
  · split
    · exact .inl rfl
    · split
      · exact .inl rfl
      · split
        · exact .inl rfl
        · rename_i f hf
          split
          · exact .inl rfl
          · rename_i hfree
            exact .inr ⟨_, f, profile_sound hf, Bool.eq_false_iff.2 hfree, rfl⟩

theorem profileAt_setProfile (s : State) (p q : Fin 4) (x : Option Profile) :
    (s.setProfile p x).profileAt q = if q = p then x else s.profileAt q := by
  simp only [State.profileAt, State.setProfile, Vector.get_eq_getElem, Vector.getElem_set]
  simp only [Fin.val_inj, eq_comm]

/-- A fact of every profile in range stays true of the profiles PROFILE LOAD holds. -/
theorem profileLoad_store {Held : Profile → Prop} {fields : List Byte} {s : State} (hp : ∀ p f, s.profileAt p = some f → Held f)
    (hf : ∀ f : Profile, f.Sound → Held f) : ∀ p f, (profileLoad fields s).1.profileAt p = some f → Held f := by
  rcases profileLoad_cases fields s with h | ⟨id, f, hsound, -, h⟩
  · rw [h]; exact hp
  · rw [h]
    intro p g hg
    rw [profileAt_setProfile] at hg
    split at hg
    · obtain rfl := Option.some.inj hg
      exact hf _ hsound
    · exact hp p g hg

theorem storeLaw_frame {s t : State} (hp : t.plans = s.plans) (hg : t.staging = s.staging) (hf : t.profiles = s.profiles)
    (k : StoreLaw s) : StoreLaw t := by
  unfold StoreLaw State.planAt State.stagingAt State.profileAt at *
  rwa [hp, hg, hf]

theorem storeLaw_act {s t : State} (h : Act L s t) (k : StoreLaw s) : StoreLaw t := by
  cases h with
  | run s t h =>
    have huntouched := moves_untouched (h false nofun)
    exact storeLaw_frame huntouched.plans huntouched.staging huntouched.profiles k
  | idle s t h => rw [h]; exact k
  | restart s =>
    obtain ⟨hplans, -, hprofiles⟩ := k
    refine ⟨hplans, fun p x hx => ?_, hprofiles⟩
    rw [stagingAt_restart] at hx
    cases hx
  | plan fields s =>
    obtain ⟨hplans, hstaging, hprofiles⟩ := k
    obtain ⟨hplans', hstaging'⟩ := planLoad_store (fields := fields) hplans hstaging fun id image h =>
      have himage := imageOf_sound hstaging h
      ⟨himage, fun hvalid => ⟨himage.1, himage.2.1, steps_of_valid hvalid, himage.2.2, hvalid⟩⟩
    refine ⟨hplans', hstaging', ?_⟩
    rw [planLoad_frame]
    exact hprofiles
  | profile fields s =>
    obtain ⟨hplans, hstaging, hprofiles⟩ := k
    refine ⟨?_, ?_, profileLoad_store hprofiles fun f hf => hf⟩
    · rw [profileLoad_frame]; exact hplans
    · rw [profileLoad_frame]; exact hstaging
  | line | pins | seat | clear | budget | zone | recompute | allow | drive => exact storeLaw_frame rfl rfl rfl k

theorem storeLaw_powerOn (a : BitVec 5) (r : RateStrap) (s : State) : StoreLaw (powerOn a r s) := by
  refine ⟨fun p x hx => ?_, fun p x hx => ?_, fun p f hf => ?_⟩
  · rw [planAt_powerOn] at hx; cases hx
  · rw [stagingAt_powerOn] at hx; cases hx
  · rw [profileAt_powerOn] at hf; cases hf

end Sys2Proof.Machine
end

section
/-! The statements about what every step keeps (O15, O19, O20, O21, O22, O24). -/

namespace Sys2Proof.Proofs

open Sys2Proof Sys2Proof.Machine

/-- Settles O15: a step that is no power-on reset is a chain of acts, and each act keeps the latched address and rate. -/
theorem addressAndRateHold : Obligations.AddressAndRateHold := by
  intro s t h hpower
  rcases step_acts h with ⟨a, r, rest, hp, -⟩ | ⟨rest, ha⟩
  · exact absurd hp (hpower a r rest)
  · exact acts_keep (P := Latched s.line) latched_act ha ⟨rfl, rfl⟩

/-- Settles O19, by the acts of a step. -/
theorem noticeLawKept : Obligations.NoticeLawKept := fun _ _ k h =>
  step_keeps noticeLaw_powerOn (fun _ k => k) (fun _ _ k => k) noticeLaw_act k h

/-- Settles O20, by the acts of a step. -/
theorem powerLawKept : Obligations.PowerLawKept := fun _ _ k h =>
  step_keeps powerLaw_powerOn (fun _ k => k) (fun _ _ k => k) powerLaw_act k h

/-- Settles O21, by the acts of a step. -/
theorem recordLawKept : Obligations.RecordLawKept := fun _ _ k h =>
  step_keeps recordLaw_powerOn (fun _ k => k) (fun _ _ k => k) recordLaw_act k h

/-- Settles O22, by the acts of a step. -/
theorem zoneLawKept : Obligations.ZoneLawKept := fun _ _ k h =>
  step_keeps zoneLaw_powerOn (fun _ k => k) (fun _ _ k => k) zoneLaw_act k h

/-- Settles O24, by the acts of a step. -/
theorem storeLawKept : Obligations.StoreLawKept := fun _ _ k h =>
  step_keeps storeLaw_powerOn (fun _ k => k) (fun _ _ k => k) storeLaw_act k h

end Sys2Proof.Proofs
end

section
/-! SUPPORT. Commands that touch one block, the resets, and the encodings of status and report fields. -/

namespace Sys2Proof.Machine

/-! ### Completion and the lamp chain (R18, R19) -/

theorem lamps_get (s : State) (i : Fin 16) : (refreshLamps s).lamps.get i = s.lampOf i := by
  fin_cases i <;> rfl

/-- What the chain shows is the code of R18. -/
theorem lampOf_eq (s : State) (i : Fin 16) : s.lampOf i =
    match (s.slot i).state with
    | .empty => .off
    | .seated => .ready
    | .waitPower | .spinning | .active | .recovering | .cycling =>
      if (s.slot i).held || decide ((s.zone (zoneOf i)).state = .fault) then .paused else .testing
    | .lotWait => .hold
    | .done =>
      match (s.slot i).outcome with
      | some (.bin b) => .bin b
      | some .reject => .reject
      | _ => .alert
    | .faulted => .alert := by
  unfold State.lampOf doneLamp State.paused State.zoneHold
  rcases (s.slot i).outcome with _ | _ | _ | _ <;> rfl

/-- No act touches the queue. -/
theorem pending_act {q : List Instr} {L : Setting → Prop} {s t : State} (h : Act L s t) (k : s.pending = q) : t.pending = q := by
  cases h with
  | run s t h => rw [(moves_untouched (h false nofun)).pending, k]
  | idle s t h => rw [h]; exact k
  | plan fields s => rw [planLoad_frame]; exact k
  | profile fields s => rw [profileLoad_frame]; exact k
  | line | pins | seat | clear | restart | budget | zone | recompute | allow | drive => exact k

/-- Every command completes, its effect leaving the queue alone. -/
theorem exec_completes (c : Instr) (s : State) : ∃ t, exec c s = completed t ∧ t.pending = s.pending := by
  by_cases hc : ∃ a r, c = .powerOnReset a r
  · obtain ⟨a, r, rfl⟩ := hc
    exact ⟨powerOn a r s, rfl, rfl⟩
  · obtain ⟨t, ht, ha⟩ := acts_exec (L := fun _ => True) (fun a r e => hc ⟨a, r, e⟩) (fun _ _ => trivial) s
    exact ⟨t, ht, acts_keep pending_act ha rfl⟩

/-! ### Lengths of status and report fields -/

theorem byte_length (n : Nat) : (byte n).length = 1 := le_length 1 n

theorem codeOr_length {α : Type} (f : α → Byte) (o : Option α) : (codeOr f o).length = 1 := by
  cases o <;> rfl

theorem marked_length (k : Nat) (o : Option Nat) : (marked k o).length = k + 1 := by
  cases o <;> simp [marked, le_length]

theorem yesNo_length (b : Bool) : (yesNo b).length = 1 := by cases b <;> rfl

theorem nameField_length (x : List Byte) : (nameField x).length = 17 := by simp [nameField, byte_length, padTo_length]

theorem identityField_length (o : Option Identity) : (identityField o).length = 33 := by
  cases o <;> simp [identityField, serialField, padTo_length, le_length]

theorem gradeField_length (o : Option Grade) : (gradeField o).length = 9 := by
  cases o <;> simp [gradeField, le_length]

theorem Accum.bytes_length (a : Accum) : a.bytes.length = 54 := by simp [Accum.bytes, le_length, marked_length]

theorem workBytes_length (x : Slot) (b : Bool) : (x.workBytes b).length = 27 := by
  simp [Slot.workBytes, byte_length, le_length, codeOr_length, yesNo_length]

theorem flatMap_byte_length (l : List Nat) : (l.flatMap byte).length = l.length := by
  induction l with
  | nil => rfl
  | cons n l ih => simp [byte_length, ih]; omega

theorem slotReport_length (s : State) (i : Fin 16) : (s.slotReport i).length = 152 + (s.slot i).exec.counters.length := by
  simp only [State.slotReport, List.length_append, byte_length, codeOr_length, nameField_length, identityField_length,
    Accum.bytes_length, gradeField_length, le_length, workBytes_length, flatMap_byte_length, List.length_cons, List.length_nil]

theorem Zone.summary_length (z : Zone) : z.summary.length = 5 := by simp [Zone.summary, markedInt_length]

theorem trayStatus_length (s : State) : s.trayStatus.length = 79 := by
  simp [State.trayStatus, byte_length, le_length, Zone.summary_length, quadIds, slotIds]

/-! ### Fields of a body (R180) -/

theorem ofLe_le (k n : Nat) : ofLe (le k n) = n % 256 ^ k := by
  induction k generalizing n with
  | zero => simp [le, ofLe, Nat.mod_one]
  | succ k ih =>
    have hbyte : (BitVec.ofNat 8 n).toNat = n % 256 := by simp
    rw [le, ofLe, ih, hbyte, Nat.pow_succ', Nat.mod_mul]

/-- A field that was written is read back. -/
theorem fieldAt_le {pre rest : List Byte} {at_ k n : Nat} (hat : pre.length = at_) (hn : n < 256 ^ k) :
    fieldAt (pre ++ le k n ++ rest) at_ k = n := by
  have hle := le_length k n
  rw [fieldAt, List.append_assoc, List.drop_append_of_le_length (by omega), ← hat, List.drop_length, List.nil_append,
    List.take_append_of_le_length (by omega), List.take_of_length_le (by omega), ofLe_le, Nat.mod_eq_of_lt hn]

/-! ### LOT TAKE with take no (R153) -/

theorem lotTake_reads {s : State} {fields : List Byte} {number first : Nat} {x : Lot} {rest : List Lot}
    (hf : fields = le 2 number ++ le 1 first ++ [0#8]) (hn : number < 65536) (hfirst : first < 256)
    (hm : s.lots.manifest = x :: rest) (hnumber : number = 0 ∨ number = x.number) (hmember : first ≤ x.members.length) :
    lotTake fields s = (s, Reply.ok (x.takeBytes first)) := by
  have hlen : fields.length = 4 := by simp [hf, le_length]
  have htake : fieldAt fields 3 1 = 0 := by
    have := fieldAt_le (pre := le 2 number ++ le 1 first) (rest := []) (at_ := 3) (k := 1) (n := 0) (by simp [le_length]) (by omega)
    rw [hf]; exact this
  have hnum : fieldAt fields 0 2 = number := by
    rw [hf, List.append_assoc]
    exact fieldAt_le (pre := []) rfl hn
  have hfst : fieldAt fields 2 1 = first := by
    rw [hf]
    exact fieldAt_le (by simp [le_length]) hfirst
  have hyes : yesNo? 0 = some false := rfl
  simp only [lotTake, withLength, hlen, if_true, htake, hyes, hm, hnum, hfst]
  rw [if_neg (by omega), if_neg (by simp), if_neg (by omega)]
  rfl

/-! ### Refusals (R169) -/

/-- A handler that answers with a refusal leaves the state as it was. -/
def RefusesUnchanged (handler : List Byte → State → State × Reply) : Prop :=
  ∀ fields s, (handler fields s).2.result ≠ .ok → (handler fields s).1 = s

theorem unchanged_withLength {n : Nat} {fields : List Byte} {s : State} {k : State × Reply} (hk : k.2.result ≠ .ok → k.1 = s) :
    (withLength n fields s k).2.result ≠ .ok → (withLength n fields s k).1 = s := by
  unfold withLength
  split
  · exact hk
  · exact fun _ => rfl

theorem unchanged_withSlot {fields : List Byte} {s : State} {k : Fin 16 → State × Reply}
    (hk : ∀ i, (k i).2.result ≠ .ok → (k i).1 = s) : (withSlot fields s k).2.result ≠ .ok → (withSlot fields s k).1 = s := by
  refine unchanged_withLength ?_
  split
  · exact fun _ => rfl
  · exact hk _

theorem refuses_poll : RefusesUnchanged poll := fun fields s => by
  refine unchanged_withLength fun h => ?_
  unfold pollAnswered at *
  split
  · rfl
  · rename_i hq
    simp [hq, Reply.ok] at h

theorem refuses_trayStatus : RefusesUnchanged trayStatus := fun _ _ => unchanged_withLength fun h => absurd rfl h

theorem refuses_trayRestart : RefusesUnchanged trayRestart := fun _ _ => unchanged_withLength fun h => absurd rfl h

theorem refuses_planLoad : RefusesUnchanged planLoad := fun fields s => by
  unfold planLoad
  split
  · exact fun _ => rfl
  · split
    · exact fun _ => rfl
    · split
      · exact fun _ => rfl
      · split
        · exact fun _ => rfl
        · split
          · exact fun _ => rfl
          · split
            · exact fun _ => rfl
            · unfold takePart
              simp only
              split
              · split
                · exact fun _ => rfl
                · split
                  · exact fun _ => rfl
                  · exact fun h => absurd rfl h
              · exact fun h => absurd rfl h

theorem refuses_profileLoad : RefusesUnchanged profileLoad := fun fields s => by
  unfold profileLoad
  split
  · exact fun _ => rfl
  · split
    · exact fun _ => rfl
    · split
      · exact fun _ => rfl
      · split
        · exact fun _ => rfl
        · split
          · exact fun _ => rfl
          · exact fun h => absurd rfl h

theorem refuses_budgetSet : RefusesUnchanged budgetSet := fun fields s => by
  refine unchanged_withLength ?_
  unfold budgetTaken
  split
  · exact fun _ => rfl
  · exact fun h => absurd rfl h

theorem refuses_zoneSet : RefusesUnchanged zoneSet := fun fields s => by
  refine unchanged_withLength ?_
  split
  · exact fun _ => rfl
  · split
    · exact fun _ => rfl
    · split
      · exact fun _ => rfl
      · exact fun h => absurd rfl h

theorem refuses_slotStart : RefusesUnchanged slotStart := fun fields s => by
  refine unchanged_withLength ?_
  split
  · exact fun _ => rfl
  · exact fun _ => rfl
  · exact fun _ => rfl
  · split
    · exact fun _ => rfl
    · split
      · exact fun _ => rfl
      · split
        · exact fun _ => rfl
        · exact fun h => absurd rfl h

theorem refuses_slotHold : RefusesUnchanged slotHold := fun _ _ => unchanged_withSlot fun _ h => absurd rfl h

theorem refuses_slotRelease : RefusesUnchanged slotRelease := fun _ _ => unchanged_withSlot fun _ h => absurd rfl h

theorem refuses_slotAbort : RefusesUnchanged slotAbort := fun fields s => by
  refine unchanged_withSlot fun i => ?_
  split
  · exact fun h => absurd rfl h
  · exact fun _ => rfl

theorem refuses_slotReport : RefusesUnchanged slotReport := fun _ _ => unchanged_withSlot fun _ _ => rfl

theorem refuses_lotStatus : RefusesUnchanged lotStatus := fun _ _ => unchanged_withLength fun _ => rfl

theorem refuses_lotTake : RefusesUnchanged lotTake := fun fields s => by
  refine unchanged_withLength ?_
  simp only
  split
  · exact fun _ => rfl
  · exact fun _ => rfl
  · split
    · exact fun _ => rfl
    · split
      · exact fun _ => rfl
      · split
        · exact fun _ => rfl
        · exact fun h => absurd rfl h

theorem refuses_lotClose : RefusesUnchanged lotClose := fun fields s => by
  refine unchanged_withLength ?_
  split
  · exact fun _ => rfl
  · exact fun _ => rfl
  · split
    · exact fun _ => rfl
    · exact fun _ => rfl
    · exact fun h => absurd rfl h

theorem refuses_lotExclude : RefusesUnchanged lotExclude := fun serial s => by
  refine unchanged_withLength ?_
  split
  · exact fun h => absurd rfl h
  · exact fun h => absurd rfl h
  · exact fun _ => rfl

theorem trayRestartHandler_refused {b : Bool} {fields : List Byte} {s : State} (h : (trayRestart fields s).2.result ≠ .ok) :
    trayRestartHandler b fields s = (s, (trayRestart fields s).2) := by
  have hlen : fields.length ≠ 0 := fun hlen => h (by rw [trayRestart, withLength, if_pos hlen]; rfl)
  rw [trayRestart, withLength, if_neg hlen, trayRestartHandler, trayRestart, withLength, withLength, if_neg hlen, if_neg hlen]
  exact ite_self _

/-- A refusal leaves what the end of the frame left, and is what the reply carries. -/
theorem answers_unchanged {c : Instr} {kind : Byte} {r : Req} {s : State} {rep : Reply} {d : Bool}
    {h : List Byte → State → State × Reply} (hc : exec c s = completed (taken kind d r h s)) (hd : s.line.deaf = false)
    (hh : h r.fields s.hunting = (s.hunting, rep)) : Answers c r kind rep s s.hunting := by
  cases hb : r.broadcast with
  | false => exact answers_taken hc hd (fun h => by rw [hb] at h; cases h) hh
  | true =>
    unfold Answers
    have heffect : taken kind d r h s = s.hunting := by
      unfold taken
      rw [hd, hb]
      simp only [Bool.false_eq_true, if_false, if_true]
      split
      · rfl
      · exact congrArg Prod.fst hh
    rw [hc, heffect, State.replied, if_pos hb]
    rfl

theorem answers_refused {c : Instr} {kind : Byte} {r : Req} {s : State} {d : Bool} {h : List Byte → State → State × Reply}
    (hh : RefusesUnchanged h) (hc : exec c s = completed (taken kind d r h s)) (hd : s.line.deaf = false)
    (hr : (h r.fields s.hunting).2.result ≠ .ok) : Answers c r kind (h r.fields s.hunting).2 s s.hunting :=
  answers_unchanged hc hd (Prod.ext (hh _ _ hr) rfl)

theorem answers_length {c : Instr} {kind : Byte} {r : Req} {s : State} {n : Nat} {d : Bool}
    {h : List Byte → State → State × Reply} {k : List Byte → State → State × Reply}
    (hc : exec c s = completed (taken kind d r h s)) (hd : s.line.deaf = false)
    (hh : h = fun fields s => withLength n fields s (k fields s)) (hn : r.fields.length ≠ n) :
    Answers c r kind (Reply.refuse .malformed) s s.hunting :=
  answers_unchanged hc hd (by rw [hh]; exact if_neg hn)

/-! ### Requests not taken (R163, R170, R177) -/

theorem taken_deaf {kind : Byte} {d : Bool} {r : Req} {h : List Byte → State → State × Reply} {s : State}
    (hd : s.line.deaf = true) : taken kind d r h s = s := if_pos hd

theorem taken_discarded {kind : Byte} {r : Req} {h : List Byte → State → State × Reply} {s : State} {d : Bool}
    (hd : s.line.deaf = false) (hb : r.broadcast = true) (hdis : d = true) : taken kind d r h s = s.hunting := by
  simp only [taken, hd, hb, hdis, Bool.false_eq_true, if_false, if_true]
  rfl

/-- A request row is a request that is taken. -/
theorem exec_of_requestOf {c : Instr} {kind : Byte} {r : Req} (h : requestOf c = some (kind, r)) :
    ∃ d handler, ∀ s, exec c s = completed (taken kind d r handler s) := by
  cases c with
  | poll | trayStatus | trayRestart | planLoad | profileLoad | budgetSet | zoneSetRun | zoneSetStop | zoneSetClear | slotStart
  | slotHold | slotRelease | slotAbort | slotReport | lotStatus | lotTake | lotTakeTakeYes | lotClose | lotExclude =>
    obtain ⟨rfl, rfl⟩ := Prod.mk.inj (Option.some.inj h)
    exact ⟨_, _, fun _ => rfl⟩
  | _ => cases h

theorem exec_deaf {c : Instr} {s : State} (hd : s.line.deaf = true)
    (hc : (requestOf c).isSome ∨ ∃ chars, c = .frameDiscarded chars) : exec c s = .next (refreshLamps s) := by
  rcases hc with hc | ⟨chars, rfl⟩
  · obtain ⟨⟨kind, r⟩, hrow⟩ := Option.isSome_iff_exists.1 hc
    obtain ⟨d, handler, hexec⟩ := exec_of_requestOf hrow
    rw [hexec, taken_deaf hd]
    rfl
  · have hreceived : received chars s = s := if_pos hd
    show completed (received chars s) = _
    rw [hreceived]
    rfl

end Sys2Proof.Machine
end

section
/-! The statements about commands of one block, the resets, and the line's refusals (O1, O2, O4, O5, O7, O8, O9, O10, O11, O27, O42). -/

namespace Sys2Proof.Proofs

open Sys2Proof Sys2Proof.Machine

/-- Settles O1, by the definition of a step. -/
theorem stepTakesFront : Obligations.StepTakesFront := by
  intro c rest s h
  simp only [step, h]

/-- Settles O2: no act touches the queue, and each command ends with a refresh of the chain. -/
theorem everyCommandCompletes : Obligations.EveryCommandCompletes := by
  intro c s
  obtain ⟨t, ht, hp⟩ := exec_completes c s
  refine ⟨refreshLamps t, ht, hp, fun i => ?_⟩
  rw [lamps_get]
  exact lampOf_eq t i

/-- Settles O4, by the values power-on reset gives each block. -/
theorem powerOnResetSets : Obligations.PowerOnResetSets := by
  intro a r s
  refine ⟨_, rfl, rfl, ?_, rfl, fun i => slot_powerOn a r s i, ⟨rfl, rfl, rfl, rfl, rfl, rfl, rfl, rfl, rfl, rfl, rfl, rfl⟩⟩
  cases r <;> rfl

/-- Settles O5, by the values the restart gives each block; a restart empties the framer and is due no longer, so a broadcast and the
restart that was due leave the same state. -/
theorem trayRestart : Obligations.TrayRestart := by
  refine ⟨fun r s hd hf => ?_, fun s hdue => ?_⟩
  · have hline : s.line.driving = false ∧ s.line.restartDue = false := by simpa [Line.deaf] using hd
    cases hb : r.broadcast with
    | false =>
      have ht : taken 0x03#8 false r (trayRestartHandler r.broadcast) s
          = respond r.tag 0x03#8 (s.hunting.withLine { s.hunting.line with restartDue := true }, Reply.ok []) := by
        simp only [taken, hd, hb, hf]
        rfl
      refine ⟨_, congrArg completed ht, fun _ => ⟨rfl, ⟨rfl, rfl, rfl, rfl, rfl, rfl, rfl, rfl, rfl, rfl, rfl, rfl⟩, rfl⟩, nofun⟩
    | true =>
      have ht : taken 0x03#8 false r (trayRestartHandler r.broadcast) s = restart s.hunting := by
        simp only [taken, hd, hb, hf]
        rfl
      have hu : restartTaken (s.withLine { s.line with restartDue := true }) = restart s.hunting := by
        have hsent : replySent (s.withLine { s.line with restartDue := true }) = s.withLine { s.line with restartDue := true } := by
          unfold replySent
          rw [if_neg (by simp [hline.1])]
        have htaken : restartTaken (s.withLine { s.line with restartDue := true })
            = restart (replySent (s.withLine { s.line with restartDue := true })) := if_pos rfl
        rw [htaken, hsent]
        rfl
      exact ⟨_, congrArg completed ht, nofun, fun _ => ⟨_, congrArg completed hu, rfl⟩⟩
  · have hrestart : restartTaken s = restart (replySent s) := if_pos hdue
    refine ⟨_, congrArg completed hrestart, ?_⟩
    have hsent : replySent s = s.withLine { s.line with
        driving := false, reply := (replySent s).line.reply, held := (replySent s).line.held } := by
      unfold replySent
      split
      · rfl
      · rename_i h
        have hdriving : s.line.driving = false := by simpa using h
        rw [← hdriving]
        rfl
    rw [hsent]
    refine ⟨rfl, rfl, rfl, rfl, rfl, rfl, rfl, rfl, rfl, rfl, rfl, rfl, rfl, rfl, rfl, rfl, fun p => stagingAt_restart s p, rfl, rfl, rfl,
      fun i => ⟨((restart s).slot i).op, ?_⟩, fun z => zone_restart _ z⟩
    rw [slot_restart]
    exact ⟨rfl, rfl, rfl, rfl, rfl, rfl, rfl, slot_restart _ i⟩

/-- Settles O7, by the handler of TRAY STATUS and the lengths of its fields. -/
theorem trayStatusClearsFlags : Obligations.TrayStatusClearsFlags := by
  intro r s hd hb hf
  refine ⟨answers_taken rfl hd (fun h => by rw [hb] at h; cases h) (by rw [hf]; rfl), trayStatus_length s, ?_⟩
  simp [State.trayStatus, byte, le, State.trayFlags]

/-- Settles O8: the handlers of the reports give back the state they were given. -/
theorem reportsChangeNothing : Obligations.ReportsChangeNothing := by
  intro r s hd hb
  have hx {d : Bool} : r.broadcast = true → d = false := fun h => by rw [hb] at h; cases h
  refine ⟨fun i hf => ⟨answers_taken rfl hd hx ?_, slotReport_length s i⟩, fun hf => answers_taken rfl hd hx (by rw [hf]; rfl),
    fun x rest first hm hmember hfirst hnumber hf => answers_taken (r := withTake 0#8 r) rfl hd hx ?_⟩
  · rw [hf]
    exact withSlot_val i s.hunting _
  · rcases hf with hf | hf
    · exact lotTake_reads (s := s.hunting) (by rw [withTake, hf]) hnumber hfirst hm (.inr rfl) hmember
    · exact lotTake_reads (s := s.hunting) (by rw [withTake, hf]) (by omega) hfirst hm (.inl rfl) hmember

/-- Settles O9: a handler that refuses gives back the state it was given, and the length is its first check. -/
theorem refusedRequests : Obligations.RefusedRequests := by
  have hunchanged : ∀ (fields : List Byte) (s : State),
      ∀ handler ∈ [poll, Machine.trayStatus, Machine.trayRestart, planLoad, profileLoad, budgetSet, zoneSet, slotStart, slotHold,
        slotRelease, slotAbort, slotReport, lotStatus, lotTake, lotClose, lotExclude],
        (handler fields s).2.result ≠ .ok → (handler fields s).1 = s := by
    intro fields s
    simp only [List.forall_mem_cons]
    exact ⟨refuses_poll _ _, refuses_trayStatus _ _, refuses_trayRestart _ _, refuses_planLoad _ _, refuses_profileLoad _ _,
      refuses_budgetSet _ _, refuses_zoneSet _ _, refuses_slotStart _ _, refuses_slotHold _ _, refuses_slotRelease _ _,
      refuses_slotAbort _ _, refuses_slotReport _ _, refuses_lotStatus _ _, refuses_lotTake _ _, refuses_lotClose _ _,
      refuses_lotExclude _ _, nofun⟩
  refine ⟨fun c kind r s handler hd hrow hmem hresult => ?_, hunchanged, fun c kind r s hd hb hrow => ⟨fun n hmem hlen => ?_,
    fun hkind hf => ?_⟩⟩
  · cases c with
    | trayRestart =>
      obtain ⟨rfl, rfl⟩ := Prod.mk.inj (Option.some.inj hrow)
      obtain rfl : handler = Machine.trayRestart := by simpa using hmem
      exact answers_unchanged rfl hd (trayRestartHandler_refused hresult)
    | poll | trayStatus | planLoad | profileLoad | budgetSet | zoneSetRun | zoneSetStop | zoneSetClear | slotStart | slotHold
    | slotRelease | slotAbort | slotReport | lotStatus | lotTake | lotTakeTakeYes | lotClose | lotExclude =>
      obtain ⟨rfl, rfl⟩ := Prod.mk.inj (Option.some.inj hrow)
      simp at hmem
      subst hmem
      exact answers_refused (fun fields s => hunchanged fields s _ (by simp)) rfl hd hresult
    | _ => cases hrow
  · cases c with
    | trayRestart r' =>
      obtain ⟨rfl, rfl⟩ := Prod.mk.inj (Option.some.inj hrow)
      obtain rfl : n = 0 := by simpa using hmem
      have hrefused : Machine.trayRestart r'.fields s.hunting = refused s.hunting .malformed := if_neg hlen
      have hhandler := trayRestartHandler_refused (b := r'.broadcast) (fields := r'.fields) (s := s.hunting)
        (by rw [hrefused]; nofun)
      exact answers_unchanged rfl hd (by rw [hhandler, hrefused]; rfl)
    | poll | trayStatus | budgetSet | zoneSetRun | zoneSetStop | zoneSetClear | slotStart | slotHold | slotRelease | slotAbort
    | slotReport | lotStatus | lotTake | lotTakeTakeYes | lotClose | lotExclude =>
      obtain ⟨rfl, rfl⟩ := Prod.mk.inj (Option.some.inj hrow)
      simp at hmem
      subst hmem
      exact answers_length rfl hd rfl hlen
    | planLoad | profileLoad =>
      obtain ⟨rfl, rfl⟩ := Prod.mk.inj (Option.some.inj hrow)
      simp at hmem
    | _ => cases hrow
  · cases c with
    | planLoad | profileLoad =>
      obtain ⟨rfl, rfl⟩ := Prod.mk.inj (Option.some.inj hrow)
      exact answers_unchanged rfl hd (by rw [hf]; rfl)
    | poll | trayStatus | trayRestart | budgetSet | zoneSetRun | zoneSetStop | zoneSetClear | slotStart | slotHold | slotRelease
    | slotAbort | slotReport | lotStatus | lotTake | lotTakeTakeYes | lotClose | lotExclude =>
      obtain ⟨rfl, rfl⟩ := Prod.mk.inj (Option.some.inj hrow)
      simp at hkind
    | _ => cases hrow

/-- Settles O10: a deaf line takes nothing, and a report request that is broadcast is discarded. -/
theorem requestsIgnored : Obligations.RequestsIgnored := by
  refine ⟨fun c s hdeaf hc => exec_deaf (by simpa [Line.deaf] using hdeaf) hc, fun c r s hd hb hc => ?_⟩
  have hdone {c : Instr} {kind : Byte} {r' : Req} {d : Bool} {h : List Byte → State → State × Reply}
      (hexec : exec c s = completed (taken kind d r' h s)) (hb' : r'.broadcast = true) (hdis : d = true) :
      exec c s = .next (refreshLamps s.hunting) := by
    rw [hexec, taken_discarded hd hb' hdis]
    rfl
  rcases hc with rfl | rfl | rfl | rfl | ⟨rfl, hlen⟩
  · exact hdone rfl hb rfl
  · exact hdone rfl hb rfl
  · exact hdone rfl hb rfl
  · exact hdone rfl hb rfl
  · refine hdone rfl hb ?_
    simp [takesNothing, withTake, hlen]

/-- Settles O11, by the two commands' meanings. -/
theorem replySentAndTrayTime : Obligations.ReplySentAndTrayTime := by
  refine ⟨fun s hdriving => ?_, fun s => ?_⟩
  · have hsent : replySent s = s.withLine { s.line with driving := false, reply := [], held := [] } := if_pos hdriving
    exact ⟨_, congrArg completed hsent, rfl, ⟨rfl, rfl, rfl, rfl, rfl, rfl, rfl, rfl, rfl, rfl, rfl, rfl⟩, rfl⟩
  · have htime : (refreshLamps (trayTime s)).line.time = min (s.line.time + 1) 4294967295 := rfl
    refine ⟨_, rfl, ?_, fun h => ?_, ⟨rfl, rfl, rfl, rfl, rfl, rfl, rfl, rfl, rfl, rfl, rfl, rfl⟩, rfl, rfl⟩
    · rw [htime]; split <;> omega
    · rw [htime]; omega

/-- Settles O27, by the two commands' meanings. -/
theorem seatSenseAndLinkBeat : Obligations.SeatSenseAndLinkBeat := by
  refine ⟨fun i raw s => ?_, fun i s => ?_⟩
  · by_cases hraw : (s.slot i).raw = raw
    · have hsame : seatSense i raw s = s := if_pos hraw
      refine ⟨_, congrArg completed hsame, ⟨rfl, rfl, rfl, rfl, rfl, rfl, rfl, rfl, rfl, rfl, rfl, rfl⟩, fun j _ => rfl, ?_⟩
      rw [if_pos hraw]
      rfl
    · have hmod : seatSense i raw s = s.modSlot i fun x =>
          { x with raw := raw, window := if raw = x.seated then none else some 500 } := if_neg hraw
      obtain ⟨houtside, hother⟩ := sameOutsideSlots_modSlot s i fun x =>
        { x with raw := raw, window := if raw = x.seated then none else some 500 }
      refine ⟨_, congrArg completed hmod, houtside, hother, ?_⟩
      rw [if_neg hraw]
      exact slot_modSlot_same s i fun x => { x with raw := raw, window := if raw = x.seated then none else some 500 }
  · obtain ⟨houtside, hother⟩ := sameOutsideSlots_modSlot s i fun x => { x with linkUp := true, silence := some 50 }
    exact ⟨_, rfl, houtside, hother, slot_modSlot_same s i fun x => { x with linkUp := true, silence := some 50 }⟩

/-- Settles O42, by the bus's turns. -/
theorem sensorBusTakesTurns : Obligations.SensorBusTakesTurns := by
  intro s
  cases h : s.bus.reading with
  | none =>
    have hstart : startRead s = { s with bus := { reading := some s.bus.turn, turn := s.bus.turn + 1 } } := by
      simp only [startRead, h]
    exact ⟨_, congrArg completed hstart, ⟨rfl, rfl, rfl, rfl, rfl, rfl, rfl, rfl, rfl, rfl, rfl, rfl⟩, rfl, fun _ => rfl, nofun⟩
  | some z =>
    have hstart : startRead s = s := by simp only [startRead, h]
    exact ⟨_, congrArg completed hstart, ⟨rfl, rfl, rfl, rfl, rfl, rfl, rfl, rfl, rfl, rfl, rfl, rfl⟩, rfl, nofun, fun _ => rfl⟩

end Sys2Proof.Proofs
end

section
/-! SUPPORT. The framer over whole frames (R163 to R167), and the sectors the pattern unit writes and reads (R100 to R104). -/

namespace Sys2Proof.Machine

/-! ### Frames that are taken -/

theorem setHeld_self {s : State} (h : s.line.held = []) : s.setHeld [] = s := (congrArg s.setHeld h).symm.trans rfl

/-- A request row is a request taken by its kind. -/
theorem exec_requestTaken {c : Instr} {kind : Byte} {r : Req} (h : requestOf c = some (kind, r)) (s : State) :
    exec c s = completed (requestTaken kind r s) := by
  cases c with
  | poll | trayStatus | trayRestart | planLoad | profileLoad | budgetSet | zoneSetRun | zoneSetStop | zoneSetClear | slotStart
  | slotHold | slotRelease | slotAbort | slotReport | lotStatus | lotTake | lotTakeTakeYes | lotClose | lotExclude =>
    obtain ⟨rfl, rfl⟩ := Prod.mk.inj (Option.some.inj h)
    rfl
  | _ => cases h

/-- A well-formed request fits its frame (R164). -/
theorem fields_fit {c : Instr} {kind : Byte} {r : Req} (h : requestOf c = some (kind, r)) (hw : c.wf = true) :
    r.fields.length + 2 ≤ 250 := by
  cases c with
  | poll | trayStatus | trayRestart | planLoad | profileLoad | budgetSet | slotStart | slotHold | slotRelease | slotAbort | slotReport
  | lotStatus | lotClose | lotExclude =>
    obtain ⟨rfl, rfl⟩ := Prod.mk.inj (Option.some.inj h)
    simpa [Instr.wf, Req.wf] using hw
  | zoneSetRun | zoneSetStop | zoneSetClear =>
    obtain ⟨rfl, rfl⟩ := Prod.mk.inj (Option.some.inj h)
    rw [Laws.Fits.withAction_length]
    have hfit : _ + 2 + 1 ≤ 250 := of_decide_eq_true hw
    omega
  | lotTake | lotTakeTakeYes =>
    obtain ⟨rfl, rfl⟩ := Prod.mk.inj (Option.some.inj h)
    rw [Laws.Fits.withTake_length]
    have hfit : _ + 2 + 1 ≤ 250 := of_decide_eq_true hw
    omega
  | _ => cases h

theorem received_of_listening {s : State} (hd : s.line.deaf = false) (chars : List LineChar) :
    received chars s = framer (2 * (s.line.held.length + chars.length + 2) ^ 2) [] chars s :=
  if_neg (by rw [hd]; nofun)

/-- The bytes of a whole frame, its CRC bytes as they may be. -/
def frameBytes (a : Byte) (body : List Byte) (hi lo : Byte) : List Byte :=
  [0xC5#8, a, BitVec.ofNat 8 body.length] ++ body ++ [hi, lo]

theorem frameBytes_length (a : Byte) (body : List Byte) (hi lo : Byte) : (frameBytes a body hi lo).length = body.length + 5 := by
  simp [frameBytes]

section
variable {s : State} {a hi lo : Byte} {body : List Byte} (hd : s.line.deaf = false) (hh : s.line.held = [])
  (h2 : 2 ≤ body.length) (h3 : body.length ≤ 250)
include hd hh

/-- The rounds are enough for a whole frame, and for the bytes it may leave to examine again. -/
theorem received_whole : ∃ n, body.length + 2 ≤ n ∧
    received ((frameBytes a body hi lo).map .byte) s
      = framer (n + 2 * body.length + 12) [] ((frameBytes a body hi lo).map .byte) s := by
  have hrounds : body.length + 2 + 2 * body.length + 12 ≤ 2 * (s.line.held.length + (body.length + 5) + 2) ^ 2 := by
    rw [hh, List.length_nil]
    nlinarith
  obtain ⟨k, hk⟩ := Nat.exists_eq_add_of_le hrounds
  refine ⟨body.length + 2 + k, by omega, ?_⟩
  rw [received_of_listening hd, List.length_map, frameBytes_length, hk]
  congr 1
  omega

include h2 h3

/-- A frame that is discarded leaves its bytes behind the start byte to examine again (R166). -/
theorem received_discarded {bytes : List Byte}
    (hc : frameComplete s.line.address (frameBytes a body hi lo) = .discarded bytes) :
    ∃ n, body.length + 4 ≤ n ∧ received ((frameBytes a body hi lo).map .byte) s = framer n bytes [] s := by
  obtain ⟨n, hn, hr⟩ := received_whole (a := a) (hi := hi) (lo := lo) (body := body) hd hh
  refine ⟨n + 2, by omega, hr.trans ?_⟩
  have hwhole := framer_whole a body hi lo n s hh h2 h3
  rw [frameBytes] at hc
  rw [hc, setHeld_self hh] at hwhole
  exact hwhole

/-- A frame that is a request is taken, with nothing behind it (R166). -/
theorem received_taken {broadcast : Bool} {request : List Byte}
    (hc : frameComplete s.line.address (frameBytes a body hi lo) = .request broadcast request) :
    received ((frameBytes a body hi lo).map .byte) s = bodyTaken broadcast request s := by
  obtain ⟨n, -, hr⟩ := received_whole (a := a) (hi := hi) (lo := lo) (body := body) hd hh
  have hwhole := framer_whole a body hi lo n s hh h2 h3
  rw [frameBytes] at hc
  rw [hc, setHeld_self hh] at hwhole
  simp only [framer_nil, ite_self] at hwhole
  exact hr.trans hwhole

end

theorem crcBytes_pair (bytes : List Byte) : ∃ hi lo, crcBytes bytes = [hi, lo] := ⟨_, _, rfl⟩

/-- The address a request's frame bears is taken (R167). -/
theorem addressTaken_own {own : Nat} (h1 : 1 ≤ own) (h2 : own ≤ 31) (broadcast : Bool) :
    addressTaken own (if broadcast then 0#8 else BitVec.ofNat 8 own) = some broadcast := by
  have hmod : own % 256 = own := Nat.mod_eq_of_lt (by omega)
  cases broadcast with
  | true => rfl
  | false =>
    have hne : BitVec.ofNat 8 own ≠ 0#8 := fun h => by
      have := congrArg BitVec.toNat h
      simp [hmod] at this
      omega
    simp [addressTaken, hne, hmod]

/-- The frame of a request, received from HUNT, is the request taken (R166, R167). -/
theorem received_request {s : State} (hd : s.line.deaf = false) (hh : s.line.held = []) (h1 : 1 ≤ s.line.address)
    (h2 : s.line.address ≤ 31) (kind : Byte) (r : Req) (hfit : r.fields.length + 2 ≤ 250) :
    received (requestChars s.line.address kind r) s = requestTaken kind r s := by
  obtain ⟨broadcast, tag, fields⟩ := r
  simp only at hfit
  let a : Byte := if broadcast then 0#8 else BitVec.ofNat 8 s.line.address
  let body : List Byte := tag :: kind :: fields
  obtain ⟨hi, lo, hcrc⟩ := crcBytes_pair ([a, BitVec.ofNat 8 body.length] ++ body)
  have hgood := frameComplete_good s.line.address a body
  rw [addressTaken_own h1 h2] at hgood
  have hchars : requestChars s.line.address kind ⟨broadcast, tag, fields⟩ = (frameBytes a body hi lo).map .byte := by
    rw [frameBytes, ← hcrc]
    rfl
  rw [hcrc] at hgood
  rw [hchars]
  exact received_taken hd hh (by simp [body]) (by simp only [body, List.length_cons]; omega) hgood

/-! ### Frames and characters that are discarded -/

/-- A frame whose CRC is wrong is discarded (R166). -/
theorem frameComplete_bad (own : Nat) (a : Byte) (body : List Byte) {hi lo : Byte}
    (h : [hi, lo] ≠ crcBytes ([a, BitVec.ofNat 8 body.length] ++ body)) :
    frameComplete own (frameBytes a body hi lo) = .discarded ([a, BitVec.ofNat 8 body.length] ++ body ++ [hi, lo]) := by
  have hcovered : ((frameBytes a body hi lo).drop 1).take ((frameBytes a body hi lo).length - 3)
      = [a, BitVec.ofNat 8 body.length] ++ body := by
    have hlen : body.length + 5 - 3 = ([a, BitVec.ofNat 8 body.length] ++ body).length := by simp
    rw [frameBytes_length, hlen]
    exact List.take_left
  have hcrc : (frameBytes a body hi lo).drop ((frameBytes a body hi lo).length - 2) = [hi, lo] := by
    have hlen : body.length + 5 - 2 = ([0xC5#8, a, BitVec.ofNat 8 body.length] ++ body).length := by simp
    rw [frameBytes_length, hlen]
    exact List.drop_left
  unfold frameComplete
  simp only [hcovered, hcrc]
  exact if_neg (Ne.symm h)

theorem addressTaken_other {own : Nat} {a : Byte} (h0 : a ≠ 0#8) (h : a.toNat ≠ own) : addressTaken own a = none := by
  simp [addressTaken, h0, h]

/-- A frame for another tray, or whose CRC is wrong, is discarded (R166, R167). -/
theorem frameComplete_discarded {own : Nat} {a : Byte} {body : List Byte} {hi lo : Byte}
    (h : [hi, lo] ≠ crcBytes ([a, BitVec.ofNat 8 body.length] ++ body) ∨ (a ≠ 0#8 ∧ a.toNat ≠ own)) :
    frameComplete own (frameBytes a body hi lo) = .discarded ([a, BitVec.ofNat 8 body.length] ++ body ++ [hi, lo]) := by
  by_cases hcrc : [hi, lo] = crcBytes ([a, BitVec.ofNat 8 body.length] ++ body)
  · obtain ⟨h0, hown⟩ := h.resolve_left (fun hne => hne hcrc)
    rw [frameBytes, hcrc, frameComplete_good, addressTaken_other h0 hown]
  · exact frameComplete_bad own a body hcrc

/-- A character that lets go of the bytes held. -/
theorem framer_discard (n : Nat) (b : Byte) (rest : List LineChar) (s : State) (bytes : List Byte)
    (h : examine s.line.address s.line.held b = .discarded bytes) :
    framer (n + 2) [] (.byte b :: rest) s = framer n bytes rest (s.setHeld []) := by
  rw [framer, framer, h]
  simp only [List.append_nil]

/-- A length byte out of its range discards the start byte, and no start byte stands behind it (R166). -/
theorem received_badLength {s : State} (hd : s.line.deaf = false) (hh : s.line.held = []) {a len : Byte}
    (hlen : len.toNat < 2 ∨ 250 < len.toNat) (ha : a ≠ 0xC5#8) (hl : len ≠ 0xC5#8) :
    received ([0xC5#8, a, len].map .byte) s = s := by
  have hrounds : received ([0xC5#8, a, len].map .byte) s = framer 50 [] [.byte 0xC5#8, .byte a, .byte len] s := by
    rw [received_of_listening hd, hh]
    rfl
  have hlength : examine s.line.address [0xC5#8, a] len = .discarded [a, len] := if_neg (by omega)
  have hagain : framer 46 [] [.byte len] (s.setHeld [0xC5#8, a]) = framer 44 [a, len] [] s := by
    rw [framer_discard 44 _ _ (s.setHeld [0xC5#8, a]) [a, len] hlength, setHeld_setHeld, setHeld_self hh]
  rw [hrounds, framer_hold 48 _ _ s [0xC5#8] (by rw [hh]; rfl), framer_hold 46 _ _ _ [0xC5#8, a] rfl, setHeld_setHeld, hagain]
  exact framer_hunt 44 _ s hh (by simp) (by simpa using ⟨ha, hl⟩)

theorem received_badStop {s : State} (hd : s.line.deaf = false) (hh : s.line.held = []) : received [.badStop] s = s := by
  have hrounds : received [.badStop] s = framer 18 [] [.badStop] s := by
    rw [received_of_listening hd, hh]
    rfl
  rw [hrounds, framer, hh, setHeld_self hh]
  exact framer_nil 17 s

theorem received_hunting {s : State} (hd : s.line.deaf = false) (hh : s.line.held = []) {b : Byte} (hb : b ≠ 0xC5#8) :
    received [.byte b] s = s := by
  have hrounds : received [.byte b] s = framer 18 [] [.byte b] s := by
    rw [received_of_listening hd, hh]
    rfl
  rw [hrounds, framer]
  exact framer_hunt 17 _ s hh (by simp) (by simpa using hb)

/-! ### Sectors (R100 to R104, R190) -/

theorem body_length (p : Pattern) (pass lba n : Nat) : (body p pass lba n).length = n := by
  have hwalk : ∀ n x, (walkBytes n x).length = n := by
    intro n
    induction n with
    | zero => exact fun _ => rfl
    | succ n ih => exact fun x => congrArg (· + 1) (ih (x + 1))
  have hlcg : ∀ n x, (lcgBytes n x).length = 4 * n := by
    intro n
    induction n with
    | zero => exact fun _ => rfl
    | succ n ih =>
      intro x
      rw [lcgBytes, List.length_append, le_length, ih]
      omega
  cases p with
  | zero | ones => exact List.length_replicate
  | walk => exact hwalk n lba
  | random =>
    rw [body, List.length_take, hlcg, ceilDiv]
    omega

theorem stamp_length (tray : Nat) (slot : Fin 16) (pass lba : Nat) : (stamp tray slot pass lba).length = 12 := by
  simp [stamp, stampFields, le_length]

theorem sector_length {size : Nat} (h : 12 ≤ size) (p : Pattern) (tray : Nat) (slot : Fin 16) (pass lba : Nat) :
    (sector p tray slot pass size lba).length = size := by
  rw [sector, List.length_append, stamp_length, body_length]
  omega

theorem fillBytes_length {size : Nat} (h : 12 ≤ size) (p : Pattern) (tray : Nat) (slot : Fin 16) (pass lba count : Nat) :
    (fillBytes p tray slot pass size lba count).length = size * count := by
  induction count generalizing lba with
  | zero => rfl
  | succ n ih => rw [fillBytes, List.length_append, sector_length h, ih, Nat.mul_succ, Nat.add_comm]

/-- The sectors of a filled chunk are classified one by one. -/
theorem classifyAll_fillBytes {size : Nat} (h : 12 ≤ size) {p : Pattern} {tray tray' : Nat} {slot slot' : Fin 16} {pass pass' : Nat}
    {c : SectorClass} {count lba lba' : Nat}
    (hc : ∀ k < count, classify p tray' slot' pass' size (lba' + k) (sector p tray slot pass size (lba + k)) = c) :
    classifyAll p tray' slot' pass' size lba' count (fillBytes p tray slot pass size lba count) = List.replicate count c := by
  induction count generalizing lba lba' with
  | zero => rfl
  | succ n ih =>
    have hlen := sector_length h p tray slot pass lba
    have hc0 : classify p tray' slot' pass' size lba' (sector p tray slot pass size lba) = c := hc 0 (by omega)
    have hrest : ∀ k < n, classify p tray' slot' pass' size (lba' + 1 + k) (sector p tray slot pass size (lba + 1 + k)) = c := by
      intro k hk
      have hnext := hc (k + 1) (by omega)
      rwa [show lba' + (k + 1) = lba' + 1 + k by omega, show lba + (k + 1) = lba + 1 + k by omega] at hnext
    rw [classifyAll, fillBytes, List.take_left' hlen, List.drop_left' hlen, hc0, ih hrest]
    rfl

section
variable {p : Pattern} {tray : Nat} {slot : Fin 16} {pass size lba : Nat}

/-- A sector as its bytes. -/
theorem sector_eq : sector p tray slot pass size lba = [Config.marker0, Config.marker1, BitVec.ofNat 8 tray, BitVec.ofNat 8 slot.val,
    BitVec.ofNat 8 pass] ++ le 6 lba ++ ([byteSum (stampFields tray slot pass lba)] ++ body p pass lba (size - 12)) := by
  simp [sector, stamp, stampFields]

theorem stampSound_sector {tray' : Nat} {slot' : Fin 16} : stampSound tray' slot' (sector p tray slot pass size lba)
    = (decide (BitVec.ofNat 8 tray = BitVec.ofNat 8 tray') && decide (BitVec.ofNat 8 slot.val = BitVec.ofNat 8 slot'.val)) := by
  have htake : (sector p tray slot pass size lba).take 11 = stampFields tray slot pass lba := by
    rw [sector, stamp, List.append_assoc]
    exact List.take_left' (by simp [stampFields, le_length])
  have hsum : (sector p tray slot pass size lba)[11]? = some (byteSum (stampFields tray slot pass lba)) := by
    have hlen : (stampFields tray slot pass lba).length = 11 := by simp [stampFields, le_length]
    rw [sector, stamp, List.append_assoc, List.getElem?_append_right (by omega), hlen]
    rfl
  rw [stampSound, htake, hsum, sector_eq]
  simp [Bool.beq_eq_decide_eq]

theorem fieldAt_sector (h : lba < 281474976710656) : fieldAt (sector p tray slot pass size lba) 5 6 = lba := by
  rw [sector_eq]
  exact fieldAt_le rfl h

theorem pass_sector : (sector p tray slot pass size lba)[4]? = some (BitVec.ofNat 8 pass) := by
  rw [sector_eq]
  rfl

theorem body_sector : (sector p tray slot pass size lba).drop 12 = body p pass lba (size - 12) :=
  List.drop_left' (stamp_length tray slot pass lba)

end

theorem ofNat_ne {n m : Nat} (hn : n < 256) (hm : m < 256) (h : n ≠ m) : BitVec.ofNat 8 n ≠ BitVec.ofNat 8 m := fun e => by
  have htoNat := congrArg BitVec.toNat e
  simp only [BitVec.toNat_ofNat] at htoNat
  omega

end Sys2Proof.Machine
end

section
/-! The statements about the framer and the pattern unit (O12, O13, O60). -/

namespace Sys2Proof.Proofs

open Sys2Proof Sys2Proof.Machine

/-- Settles O12: the frame is complete at its last byte, and taken as the request. -/
theorem framedRequestTaken : Obligations.FramedRequestTaken := by
  intro c kind r s hd hh h1 h2 hw hrow
  rw [exec_requestTaken hrow s]
  exact congrArg completed (received_request hd hh h1 h2 kind r (fields_fit hrow hw))

/-- Settles O13: a discarded frame leaves bytes among which HUNT finds no start value. -/
theorem frameDiscardedWhole : Obligations.FrameDiscardedWhole := by
  intro s hd hh
  refine ⟨fun a body hi lo h2 h3 hstart hbad => ?_, fun a len hlen ha hl => ?_, ?_, fun b hb => ?_⟩
  · obtain ⟨n, hn, hr⟩ := received_discarded hd hh h2 h3 (frameComplete_discarded hbad)
    refine congrArg completed (hr.trans (framer_hunt n _ s hh ?_ hstart))
    simp
    omega
  · exact congrArg completed (received_badLength hd hh hlen ha hl)
  · exact congrArg completed (received_badStop hd hh)
  · exact congrArg completed (received_hunting hd hh hb)

/-- Settles O60: sector by sector, the first test of R104 that the stamp fails. -/
theorem filledSectorsCheckGood : Obligations.FilledSectorsCheckGood := by
  intro p tray tray' slot slot' pass pass' size lba lba' count hsize htray htray' hpass hpass' hlba hlba'
  refine ⟨fillBytes_length hsize _ _ _ _ _ _, classifyAll_fillBytes hsize fun k hk => ?_,
    fun hne => classifyAll_fillBytes hsize fun k hk => ?_, fun hne => classifyAll_fillBytes hsize fun k hk => ?_,
    fun hne => classifyAll_fillBytes hsize fun k hk => ?_⟩
  · have hfield := fieldAt_sector (p := p) (tray := tray) (slot := slot) (pass := pass) (size := size) (lba := lba + k) (by omega)
    simp [classify, stampSound_sector, hfield, pass_sector, body_sector]
  · have hfield := fieldAt_sector (p := p) (tray := tray) (slot := slot) (pass := pass) (size := size) (lba := lba + k) (by omega)
    have hbyte := ofNat_ne hpass hpass' (Ne.symm hne)
    simp [classify, stampSound_sector, hfield, pass_sector, hbyte]
  · have hfield := fieldAt_sector (p := p) (tray := tray) (slot := slot) (pass := pass) (size := size) (lba := lba + k) (by omega)
    have hlbas : lba + k ≠ lba' + k := by omega
    simp [classify, stampSound_sector, hfield, Ne.symm hne]
  · have hsound : stampSound tray' slot' (sector p tray slot pass size (lba + k)) = false := by
      rw [stampSound_sector, Bool.and_eq_false_iff, decide_eq_false_iff_not, decide_eq_false_iff_not]
      rcases hne with hne | hne
      · exact .inr (ofNat_ne (by omega) (by omega) fun h => hne (Fin.ext h.symm))
      · exact .inl (ofNat_ne htray htray' (Ne.symm hne))
    simp [classify, hsound]

end Sys2Proof.Proofs
end

section
/-! SUPPORT. What settings each command may change; the grant of power to one slot; the requests and events of one slot. -/

namespace Sys2Proof.Machine

/-! ### Settings -/

/-- The settings outside `L` are as they were. -/
structure Kept (L : Setting → Prop) (s t : State) : Prop where
  plans : t.plans = s.plans ∨ L .plans
  profiles : t.profiles = s.profiles ∨ L .profiles
  budget : (t.power.budget = s.power.budget ∧ t.power.limit = s.power.limit ∧ t.power.cost = s.power.cost) ∨ L .budget
  zones : (∀ z, (t.zone z).set = (s.zone z).set) ∨ L .zones
  time : t.line.time = s.line.time ∨ L .time
  links : (∀ i, (t.slot i).linkUp = (s.slot i).linkUp) ∨ L .links
  seats : (∀ i, (t.slot i).seated = (s.slot i).seated) ∨ L .seats
  powerUp : t.line.powerUp = s.line.powerUp ∨ L .powerUp

section
variable {L : Setting → Prop} {s t u : State}

theorem Kept.refl (s : State) : Kept L s s :=
  ⟨.inl rfl, .inl rfl, .inl ⟨rfl, rfl, rfl⟩, .inl fun _ => rfl, .inl rfl, .inl fun _ => rfl, .inl fun _ => rfl, .inl rfl⟩

theorem Kept.trans (h : Kept L s t) (k : Kept L t u) : Kept L s u where
  plans := h.plans.elim (fun h => k.plans.imp_left (·.trans h)) .inr
  profiles := h.profiles.elim (fun h => k.profiles.imp_left (·.trans h)) .inr
  budget := h.budget.elim (fun h => k.budget.imp_left fun k => ⟨k.1.trans h.1, k.2.1.trans h.2.1, k.2.2.trans h.2.2⟩) .inr
  zones := h.zones.elim (fun h => k.zones.imp_left fun k z => (k z).trans (h z)) .inr
  time := h.time.elim (fun h => k.time.imp_left (·.trans h)) .inr
  links := h.links.elim (fun h => k.links.imp_left fun k i => (k i).trans (h i)) .inr
  seats := h.seats.elim (fun h => k.seats.imp_left fun k i => (k i).trans (h i)) .inr
  powerUp := h.powerUp.elim (fun h => k.powerUp.imp_left (·.trans h)) .inr

theorem kept_untouched (h : Untouched s t) : Kept L s t where
  plans := .inl h.plans
  profiles := .inl h.profiles
  budget := .inl ⟨h.budget, h.limit, h.cost⟩
  zones := .inl fun z => by rw [State.zone, h.zones]; rfl
  time := .inl (by rw [h.line])
  links := .inl fun i => (h.pins i).2.2.2.1
  seats := .inl fun i => (h.pins i).1
  powerUp := .inl (by rw [h.line])

/-- One record changes. -/
theorem kept_setSlot {i : Fin 16} {y : Slot} (hl : y.linkUp = (s.slot i).linkUp ∨ L .links)
    (hs : y.seated = (s.slot i).seated ∨ L .seats) : Kept L s (s.setSlot i y) where
  plans := .inl rfl
  profiles := .inl rfl
  budget := .inl ⟨rfl, rfl, rfl⟩
  zones := .inl fun _ => rfl
  time := .inl rfl
  links := hl.imp_left fun hl j => by
    rw [slot_setSlot]
    split
    · subst_vars; exact hl
    · rfl
  seats := hs.imp_left fun hs j => by
    rw [slot_setSlot]
    split
    · subst_vars; exact hs
    · rfl
  powerUp := .inl rfl

theorem recomputeZones_set (s : State) (z : Fin 4) : ((recomputeZones s).zone z).set = (s.zone z).set := by
  rw [recomputeZones_zone]
  rfl

theorem kept_setZone {z : Fin 4} {x : Zone} (h : x.set = (s.zone z).set ∨ L .zones) : Kept L s (s.setZone z x) :=
  { Kept.refl s with
    zones := h.imp_left fun h y => by
      rw [zone_setZone]
      split
      · subst_vars; exact h
      · rfl }

theorem kept_act (h : Act L s t) : Kept L s t := by
  cases h with
  | run s t h => exact kept_untouched (moves_untouched (h false nofun))
  | idle s t h => rw [h]; exact { Kept.refl s with }
  | line s l h => exact { Kept.refl s with time := h.time, powerUp := h.powerUp }
  | pins s i y h hl => exact kept_setSlot hl (.inl h.seated)
  | seat s i h hl => exact kept_setSlot (.inl rfl) (.inr hl)
  | clear s i y hw hs hp ho hu hk hl => exact kept_setSlot (.inl hk) (.inr hl)
  | restart s =>
    exact {
      plans := .inl rfl
      profiles := .inl rfl
      budget := .inl ⟨rfl, rfl, rfl⟩
      zones := .inl fun z => by rw [zone_restart]; rfl
      time := .inl rfl
      links := .inl fun i => by rw [slot_restart]; rfl
      seats := .inl fun i => by rw [slot_restart]; rfl
      powerUp := .inl rfl }
  | plan fields s hl => rw [planLoad_frame]; exact { Kept.refl s with plans := .inr hl }
  | profile fields s hl => rw [profileLoad_frame]; exact { Kept.refl s with profiles := .inr hl }
  | budget fields s hb hl hk =>
    exact { Kept.refl s with budget := .inr hk, zones := .inl fun z => recomputeZones_set _ z }
  | zone s z x hx hc hl => exact kept_setZone hl
  | recompute s => exact { Kept.refl s with zones := .inl fun z => recomputeZones_set s z }
  | allow s z => exact kept_setZone (.inl rfl)
  | drive s z h =>
    have hdriven : Kept L s (s.modZone z Zone.driven) := kept_setZone (.inl rfl)
    exact hdriven.trans (kept_setZone (.inl rfl))

theorem kept_acts (h : Acts L s t) : Kept L s t := by
  induction h with
  | refl => exact .refl s
  | tail _ h ih => exact ih.trans (kept_act h)

end

/-- The commands that may change a setting, but for the characters of the line. -/
theorem mayChange_plans {c : Instr} (h : mayChange c .plans) : (∃ r, c = .planLoad r) ∨ ∃ chars, c = .frameDiscarded chars := by
  cases c with
  | planLoad r => exact .inl ⟨r, rfl⟩
  | frameDiscarded chars => exact .inr ⟨chars, rfl⟩
  | _ => cases h

theorem mayChange_profiles {c : Instr} (h : mayChange c .profiles) :
    (∃ r, c = .profileLoad r) ∨ ∃ chars, c = .frameDiscarded chars := by
  cases c with
  | profileLoad r => exact .inl ⟨r, rfl⟩
  | frameDiscarded chars => exact .inr ⟨chars, rfl⟩
  | _ => cases h

theorem mayChange_budget {c : Instr} (h : mayChange c .budget) : (∃ r, c = .budgetSet r) ∨ ∃ chars, c = .frameDiscarded chars := by
  cases c with
  | budgetSet r => exact .inl ⟨r, rfl⟩
  | frameDiscarded chars => exact .inr ⟨chars, rfl⟩
  | _ => cases h

theorem mayChange_zones {c : Instr} (h : mayChange c .zones) :
    (∃ r, c = .zoneSetRun r ∨ c = .zoneSetStop r ∨ c = .zoneSetClear r) ∨ ∃ chars, c = .frameDiscarded chars := by
  cases c with
  | zoneSetRun r => exact .inl ⟨r, .inl rfl⟩
  | zoneSetStop r => exact .inl ⟨r, .inr (.inl rfl)⟩
  | zoneSetClear r => exact .inl ⟨r, .inr (.inr rfl)⟩
  | frameDiscarded chars => exact .inr ⟨chars, rfl⟩
  | _ => cases h

theorem mayChange_time {c : Instr} (h : mayChange c .time) : c = .trayTimeTick ∨ ∃ chars, c = .frameDiscarded chars := by
  cases c with
  | trayTimeTick => exact .inl rfl
  | frameDiscarded chars => exact .inr ⟨chars, rfl⟩
  | _ => cases h

theorem mayChange_links {c : Instr} (h : mayChange c .links) :
    (∃ i, c = .linkBeat i ∨ c = .linkLoss i) ∨ ∃ chars, c = .frameDiscarded chars := by
  cases c with
  | linkBeat i => exact .inl ⟨i, .inl rfl⟩
  | linkLoss i => exact .inl ⟨i, .inr rfl⟩
  | frameDiscarded chars => exact .inr ⟨chars, rfl⟩
  | _ => cases h

theorem mayChange_seats {c : Instr} (h : mayChange c .seats) :
    (∃ i, c = .seatWindowEnd i) ∨ ∃ chars, c = .frameDiscarded chars := by
  cases c with
  | seatWindowEnd i => exact .inl ⟨i, rfl⟩
  | frameDiscarded chars => exact .inr ⟨chars, rfl⟩
  | _ => cases h

theorem mayChange_powerUp {c : Instr} (h : mayChange c .powerUp) :
    (∃ r, c = .trayStatus r) ∨ ∃ chars, c = .frameDiscarded chars := by
  cases c with
  | trayStatus r => exact .inl ⟨r, rfl⟩
  | frameDiscarded chars => exact .inr ⟨chars, rfl⟩
  | _ => cases h

/-! ### The grant of power to one slot (R29) -/

/-- A record that has been granted power. -/
def Slot.granted (now : Nat) (timer : Option Nat) (x : Slot) : Slot :=
  { x with
    state := .spinning, powered := true
    op := { x.op with
      tag := x.op.tag + 1#8, outstanding := some .spin, issuedAt := now, timer := timer
      sent := some (x.op.tag + 1#8, .spin), sentData := [] } }

/-- The timeout SPIN is issued with to a slot (R66). -/
def State.spinTimer (s : State) (i : Fin 16) : Option Nat := (s.planOf i).map fun p => opTimeout p .spin

theorem grant_slot_same (i : Fin 16) (s : State) : (grant i s).slot i = (s.slot i).granted s.now (s.spinTimer i) := by
  have hplan : ((s.withPower { s.power with pointer := i }).modSlot i fun x =>
      { x with state := .spinning, powered := true }).planOf i = s.planOf i := planOf_setSlot rfl
  simp only [grant, issue, State.modOp, slot_modSlot_same, hplan]
  rfl

theorem grant_spinTimer {i j : Fin 16} (s : State) (h : j ≠ i) : (grant i s).spinTimer j = s.spinTimer j := by
  simp only [State.spinTimer, State.planOf, grant_slot_ne s h]
  rfl

/-- An evaluation grants a slot its power or leaves its record alone (R28). -/
theorem evaluate_slot_granted (n : Nat) (s : State) (i : Fin 16) : (evaluate n s).slot i = s.slot i ∨
    ((s.slot i).state = .waitPower ∧ (evaluate n s).slot i = (s.slot i).granted s.now (s.spinTimer i)) := by
  induction n generalizing s with
  | zero => exact .inl rfl
  | succ n ih =>
    cases hr : reserveOf s with
    | some r => rw [evaluate_reserving hr]; exact .inl rfl
    | none =>
      obtain ⟨j, hwait, hstep⟩ := evaluate_granting hr
      rw [hstep]
      by_cases hij : i = j
      · subst hij
        have hrest : (evaluate n (grant i s)).slot i = (grant i s).slot i :=
          evaluate_slot n _ i (by rw [grant_slot_state]; decide)
        exact .inr ⟨hwait, hrest.trans (grant_slot_same i s)⟩
      · have hthere := ih (grant j s)
        rw [grant_slot_ne s hij, grant_spinTimer s hij] at hthere
        exact hthere

theorem admission_slot_granted (s : State) (i : Fin 16) : (admission s).slot i = s.slot i ∨
    ((s.slot i).state = .waitPower ∧ (admission s).slot i = (s.slot i).granted s.now (s.spinTimer i)) :=
  evaluate_slot_granted 17 s i

/-- A record that waits for power, before and after the evaluation: everything else stays but for the slots that wait (R31). -/
theorem untouched_admitted {s : State} {i : Fin 16} {y : Slot} (h : (s.slot i).SamePins y) :
    Untouched s (admission (s.setSlot i y)) :=
  (setSlot_untouched s i y h).trans (admissionOnly_admission _).untouched

theorem admitted_slot_ne {s : State} {i j : Fin 16} {y : Slot} (hj : j ≠ i) (h : (s.slot j).state ≠ .waitPower) :
    (admission (s.setSlot i y)).slot j = s.slot j := by
  have hsame : (s.setSlot i y).slot j = s.slot j := slot_setSlot_ne s y hj
  rw [admission_slot _ _ (by rw [hsame]; exact h), hsame]

/-- The record that waited is granted its power or still waits. -/
theorem admitted_slot (s : State) (i : Fin 16) (y : Slot) : (admission (s.setSlot i y)).slot i = y ∨
    (admission (s.setSlot i y)).slot i = y.granted s.now ((s.setSlot i y).spinTimer i) := by
  have hcases := admission_slot_granted (s.setSlot i y) i
  rw [slot_setSlot_same] at hcases
  exact hcases.imp_right And.right

theorem spinTimer_setSlot {s : State} {i : Fin 16} {y : Slot} {p : Fin 4} {plan : Plan} (hy : y.plan = some p)
    (hp : s.planAt p = some plan) : (s.setSlot i y).spinTimer i = some (plan.spinTimeout * 1000) := by
  have hplan : (s.setSlot i y).planOf i = some plan := by
    simp only [State.planOf, slot_setSlot_same, hy]
    exact hp
  rw [State.spinTimer, hplan]
  rfl

/-! ### Seat window and off time -/

theorem seatWindowEnds_seated {i : Fin 16} {s : State} (hw : (s.slot i).window.isSome = true) (hr : (s.slot i).raw = true)
    (hs : (s.slot i).seated = false) : seatWindowEnds i s =
      raise i.val .slotSeated (s.modSlot i fun x => { x with seated := true, window := none, state := .seated }) := by
  simp [seatWindowEnds, hw, hr, hs]

theorem seatWindowEnds_idle {i : Fin 16} {s : State} (h : (s.slot i).window = none ∨ (s.slot i).raw = (s.slot i).seated) :
    seatWindowEnds i s = s := by
  unfold seatWindowEnds
  rcases h with h | h <;> simp [h]

theorem offTimeEnds_cycling {i : Fin 16} {s : State} (hc : (s.slot i).state = .cycling) (ht : (s.slot i).op.offTimer.isSome = true) :
    offTimeEnds i s = admission (s.setSlot i { s.slot i with
      state := .waitPower, powered := false, op := { (s.slot i).op with offTimer := none } }) := by
  simp only [offTimeEnds, hc, ht, decide_true, Bool.and_self, if_true]
  rfl

theorem offTimeEnds_idle {i : Fin 16} {s : State} (h : (s.slot i).state ≠ .cycling ∨ (s.slot i).op.offTimer = none) :
    offTimeEnds i s = s := by
  unfold offTimeEnds
  rcases h with h | h <;> simp [h]

/-! ### SLOT START (R13, R14) -/

theorem startable_iff (x : Slot) : x.startable = true ↔
    x.state = .seated ∨ (x.state = .done ∧ (x.outcome = some .reject ∨ x.outcome = some .aborted)) := by
  simp [Slot.startable]

/-- SLOT START whose numbers are in range. -/
theorem slotStart_numbers {a b c : Byte} {i : Fin 16} {p f : Fin 4} (ha : a.toNat = i.val) (hb : b.toNat = p.val)
    (hc : c.toNat = f.val) (s : State) : slotStart [a, b, c] s =
      if !(s.slot i).startable then refused s .badState
      else if !(s.slot i).linkUp then refused s .badState
      else if (s.planAt p).isNone || (s.profileAt f).isNone then refused s .notFound
      else (startRun i p f s, Reply.ok []) := by
  have hslot : slotNo? (fieldAt [a, b, c] 0 1) = some i := by rw [fieldAt_head, ha, slotNo?_val]
  have hplan : quadNo? (fieldAt [a, b, c] 1 1) = some p := by rw [fieldAt_second, hb, quadNo?_val]
  have hprofile : quadNo? (fieldAt [a, b, c] 2 1) = some f := by
    have hfield : fieldAt [a, b, c] 2 1 = c.toNat := fieldAt_head c []
    rw [hfield, hc, quadNo?_val]
  simp only [slotStart, withLength, List.length_cons, List.length_nil, hslot, hplan, hprofile]
  rfl

section
variable {a b c : Byte}

theorem slotStart_slot_refused (ha : 16 ≤ a.toNat) (s : State) :
    slotStart [a, b, c] s = (s, Reply.refuse (.badArgument 0)) := by
  have hslot : slotNo? (fieldAt [a, b, c] 0 1) = none := by rw [fieldAt_head, slotNo?_of_le ha]
  simp only [slotStart, withLength, List.length_cons, List.length_nil, hslot]
  rfl

theorem slotStart_plan_refused (ha : a.toNat < 16) (hb : 4 ≤ b.toNat) (s : State) :
    slotStart [a, b, c] s = (s, Reply.refuse (.badArgument 1)) := by
  have hslot : slotNo? (fieldAt [a, b, c] 0 1) = some ⟨a.toNat, ha⟩ := by rw [fieldAt_head]; exact slotNo?_val ⟨a.toNat, ha⟩
  have hplan : quadNo? (fieldAt [a, b, c] 1 1) = none := by rw [fieldAt_second, quadNo?_of_le hb]
  simp only [slotStart, withLength, List.length_cons, List.length_nil, hslot, hplan]
  rfl

theorem slotStart_profile_refused (ha : a.toNat < 16) (hb : b.toNat < 4) (hc : 4 ≤ c.toNat) (s : State) :
    slotStart [a, b, c] s = (s, Reply.refuse (.badArgument 2)) := by
  have hslot : slotNo? (fieldAt [a, b, c] 0 1) = some ⟨a.toNat, ha⟩ := by rw [fieldAt_head]; exact slotNo?_val ⟨a.toNat, ha⟩
  have hplan : quadNo? (fieldAt [a, b, c] 1 1) = some ⟨b.toNat, hb⟩ := by rw [fieldAt_second, quadNo?_of_lt hb]
  have hprofile : quadNo? (fieldAt [a, b, c] 2 1) = none := by
    have hfield : fieldAt [a, b, c] 2 1 = c.toNat := fieldAt_head c []
    rw [hfield, quadNo?_of_le hc]
  simp only [slotStart, withLength, List.length_cons, List.length_nil, hslot, hplan, hprofile]
  rfl

end

/-- The record SLOT START prepares (R14). -/
theorem startRun_eq {i : Fin 16} {p : Fin 4} {plan : Plan} {s : State} (hp : s.planAt p = some plan) (f : Fin 4) :
    startRun i p f s = admission (s.setSlot i { s.slot i with
        state := .waitPower, plan := some p, profile := some f, identity := none, outcome := none, reason := .none, grade := none
        lotNumber := none, acc := Accum.zero, retests := 0, powered := false, spun := false
        exec := { phase := .spinUp, index := 0, pass := 0, timer := none, dwell := 0
                  counters := List.replicate plan.repeats 0 }
        op := { (s.slot i).op with
          outstanding := none, timer := none, stage := 0, returnTo := none, interrupted := none, offTimer := none } }) := by
  simp only [startRun, awaitPower, hp, State.modSlot, slot_setSlot_same, setSlot_setSlot]
  rfl

end Sys2Proof.Machine
end

section
/-! SUPPORT. The grade record at the lot builder (R147 to R150). -/

namespace Sys2Proof.Machine

/-! ### Lot numbers (R147) -/

/-- The number `j` places after `n`, wrapping past 65,535. -/
theorem nextNumber_iterate (n : Nat) {j : Nat} (hj : j ≤ 65535) : nextNumber^[j] n =
    if j = 0 then n else if n + j ≤ 65535 then n + j else if n ≤ 65535 then n + j - 65535 else j := by
  induction j with
  | zero => rfl
  | succ j ih =>
    have hbefore := ih (by omega)
    rw [Function.iterate_succ_apply', if_neg (Nat.succ_ne_zero j)]
    generalize nextNumber^[j] n = m at hbefore
    unfold nextNumber
    split_ifs at hbefore ⊢ <;> omega

/-- A search that ends at a taken number has met taken numbers only. -/
theorem freeNumber_taken {tries : Nat} {taken : List Nat} {n : Nat} (h : freeNumber tries taken n ∈ taken) :
    ∀ j < tries, nextNumber^[j] n ∈ taken := by
  induction tries generalizing n with
  | zero => exact fun j hj => absurd hj (Nat.not_lt_zero j)
  | succ tries ih =>
    unfold freeNumber at h
    split at h
    · rename_i hn
      intro j hj
      cases j with
      | zero => exact List.contains_iff_mem.1 hn
      | succ j => exact ih h j (by omega)
    · rename_i hn
      exact absurd (List.contains_iff_mem.2 h) hn

/-- With at most 24 numbers taken the search finds one that is not (R147). -/
theorem freeNumber_free {taken : List Nat} (h : taken.length ≤ 24) (n : Nat) : freeNumber 25 taken n ∉ taken := by
  intro hmem
  have hall := freeNumber_taken hmem
  have hinj : Function.Injective fun j : Fin 25 => nextNumber^[j.val] n := by
    intro a b hab
    simp only at hab
    rw [nextNumber_iterate n (by omega), nextNumber_iterate n (by omega)] at hab
    apply Fin.ext
    split_ifs at hab <;> omega
  have hcard : (Finset.univ.image fun j : Fin 25 => nextNumber^[j.val] n).card = 25 := by
    rw [Finset.card_image_of_injective _ hinj, Finset.card_univ, Fintype.card_fin]
  have hsub : (Finset.univ.image fun j : Fin 25 => nextNumber^[j.val] n) ⊆ taken.toFinset := by
    intro m hm
    obtain ⟨j, -, rfl⟩ := Finset.mem_image.1 hm
    exact List.mem_toFinset.2 (hall j j.isLt)
  have hle := (Finset.card_le_card hsub).trans taken.toFinset_card_le
  omega

theorem freeNumber_next {tries : Nat} {taken : List Nat} {n : Nat} (h : n ∉ taken) : freeNumber (tries + 1) taken n = n := by
  rw [freeNumber, if_neg (fun hn => h (List.contains_iff_mem.1 hn))]

/-! ### Joining a lot (R148, R149) -/

/-- The lot with one member more. -/
def Lot.with (x : Lot) (m : Member) : Lot := { x with members := x.members ++ [m] }

section
variable {i : Fin 16} {x : Lot} {s : State}

theorem joinLot_open (h : x.members.length + 1 < x.capacity) : joinLot i x s =
    (s.setSlot i { s.slot i with state := .done, lotNumber := some x.number }).withLots
      (s.lots.putOpen (x.with ((s.slot i).member i))) := by
  have hfill : ¬ x.capacity ≤ (x.members ++ [(s.slot i).member i]).length := by simp; omega
  unfold joinLot
  exact if_neg hfill

theorem joinLot_filled (h : x.capacity ≤ x.members.length + 1) : joinLot i x s =
    closeLot (x.with ((s.slot i).member i)) .filled
      ((s.setSlot i { s.slot i with state := .done, lotNumber := some x.number }).withLots
        (s.lots.putOpen (x.with ((s.slot i).member i)))) := by
  have hfill : x.capacity ≤ (x.members ++ [(s.slot i).member i]).length := by simpa using h
  unfold joinLot
  exact if_pos hfill

end

/-- What the join of a slot to an OPEN lot leaves (R148, R149), the line and the manifest being those of `s`. -/
theorem joinLot_cases (i : Fin 16) (x : Lot) (s : State) :
    let y := x.with ((s.slot i).member i)
    let t := s.setSlot i { s.slot i with state := .done, lotNumber := some x.number }
    let others := (s.lots.opens.map fun z => if z.number = x.number then y else z).filter fun z => decide (z.number ≠ x.number)
    (x.members.length + 1 < x.capacity → joinLot i x s = t.withLots { s.lots with
        opens := s.lots.opens.map fun z => if z.number = x.number then y else z }) ∧
      (x.capacity ≤ x.members.length + 1 → s.lots.manifest.length < 8 →
        joinLot i x s = (t.withLots { s.lots with
            opens := others, manifest := s.lots.manifest ++ [{ y with closed := some s.line.time }] }).withLine
          (s.line.raised x.number (.lotClosed x.profile x.bin (x.members.length + 1) .filled))) ∧
      (x.capacity ≤ x.members.length + 1 → 8 ≤ s.lots.manifest.length →
        joinLot i x s = t.withLots { s.lots with opens := others, full := s.lots.full ++ [y] }) := by
  intro y t others
  refine ⟨fun h => joinLot_open h, fun h hroom => ?_, fun h hroom => ?_⟩
  · rw [joinLot_filled h, closeLot_of_room (by exact hroom)]
    have hlen : (x.with ((s.slot i).member i)).members.length = x.members.length + 1 := by simp [Lot.with]
    rw [hlen]
    rfl
  · rw [joinLot_filled h, closeLot_of_no_room (by exact hroom)]
    rfl

theorem giveGrade_full {i : Fin 16} {p : Fin 4} {b : Bin} {s : State} {x : Lot} (h : s.lots.fullLot p b = some x) :
    giveGrade i p b s = ((s.setSlot i { s.slot i with state := .lotWait }).withLots
      { s.lots with waiting := s.lots.waiting ++ [i] }).withLine
        (s.line.raised i.val (.lotWait p b x.number (s.lots.waiting.length + 1))) := by
  have hlen : (s.lots.waiting ++ [i]).length = s.lots.waiting.length + 1 := by simp
  rw [giveGrade, h, ← hlen]
  rfl

theorem giveGrade_join {i : Fin 16} {p : Fin 4} {b : Bin} {s : State} (h : s.lots.fullLot p b = none) :
    giveGrade i p b s = joinKey i p b s := by rw [giveGrade, h]

theorem joinKey_open {i : Fin 16} {p : Fin 4} {b : Bin} {s : State} {x : Lot} (h : s.lots.openLot p b = some x) :
    joinKey i p b s = joinLot i x s := by rw [joinKey, h]

theorem joinKey_new {i : Fin 16} {p : Fin 4} {b : Bin} {s : State} (h : s.lots.openLot p b = none) :
    joinKey i p b s = joinLot i (s.newLot p b) (openNewLot p b s) := by rw [joinKey, h]

/-! ### The channel of a slot (R68, R75) -/

theorem completionArrives_unmatched {i : Fin 16} {c : Completion} {s : State}
    (h : (s.slot i).op.outstanding = none ∨ c.tag ≠ (s.slot i).op.tag) : completionArrives i (.record c) s = s := by
  unfold completionArrives
  simp only
  split
  · rfl
  · rename_i op hop
    rcases h with h | h
    · rw [h] at hop; cases hop
    · exact if_neg h

theorem dataArrives_unmatched {i : Fin 16} {tag : Byte} {data : List Byte} {s : State}
    (h : (∀ k, (s.slot i).op.outstanding ≠ some (.read k)) ∨ tag ≠ (s.slot i).op.tag) : dataArrives i tag data s = s := by
  unfold dataArrives
  split
  · rename_i k hk
    exact if_neg (h.resolve_left fun h => h k hk)
  · rfl

theorem dataArrives_matched {i : Fin 16} {tag : Byte} {data : List Byte} {s : State} {k : Chunk}
    (hk : (s.slot i).op.outstanding = some (.read k)) (ht : tag = (s.slot i).op.tag) :
    dataArrives i tag data s = s.modSlot i fun x => { x with sweep := { x.sweep with
      hand := x.sweep.hand.map fun h => if h.use = .inFlight then { h with data := data } else h } } := by
  unfold dataArrives
  simp only [hk, ht, if_true]
  rfl

end Sys2Proof.Machine
end

section
/-! The statements about settings and about single events of one slot (O16, O17, O28, O31, O32, O49, O51, O56). -/

namespace Sys2Proof.Proofs

open Sys2Proof Sys2Proof.Machine

/-- Settles O16: a command is a chain of acts that change the settings of its own alone. -/
theorem settingsChangeOnlyByTheirCommands : Obligations.SettingsChangeOnlyByTheirCommands := by
  intro c s t h hpower hchars
  obtain ⟨u, hu, hacts⟩ := acts_exec (L := mayChange c) hpower (fun _ h => h) s
  rw [hu] at h
  obtain rfl := Host.Outcome.next.inj h
  have hkept := kept_acts hacts
  have hchars' : ¬ ∃ chars, c = .frameDiscarded chars := fun ⟨chars, e⟩ => hchars chars e
  refine ⟨fun hc => hkept.plans.resolve_right fun h => ?_, fun hc => hkept.profiles.resolve_right fun h => ?_,
    fun hc => hkept.budget.resolve_right fun h => ?_, fun hc => hkept.zones.resolve_right fun h => ?_,
    fun hc => hkept.time.resolve_right fun h => ?_, fun hc => hkept.links.resolve_right fun h => ?_,
    fun hc => hkept.seats.resolve_right fun h => ?_, fun hc => hkept.powerUp.resolve_right fun h => ?_⟩
  · obtain ⟨r, rfl⟩ := (mayChange_plans h).resolve_right hchars'
    exact hc r rfl
  · obtain ⟨r, rfl⟩ := (mayChange_profiles h).resolve_right hchars'
    exact hc r rfl
  · obtain ⟨r, rfl⟩ := (mayChange_budget h).resolve_right hchars'
    exact hc r rfl
  · obtain ⟨r, hr⟩ := (mayChange_zones h).resolve_right hchars'
    obtain ⟨hrun, hstop, hclear⟩ := hc r
    rcases hr with hr | hr | hr
    · exact hrun hr
    · exact hstop hr
    · exact hclear hr
  · exact hc ((mayChange_time h).resolve_right hchars')
  · obtain ⟨i, hi⟩ := (mayChange_links h).resolve_right hchars'
    exact hi.elim (hc i).1 (hc i).2
  · obtain ⟨i, hi⟩ := (mayChange_seats h).resolve_right hchars'
    exact hc i hi
  · obtain ⟨r, hr⟩ := (mayChange_powerUp h).resolve_right hchars'
    exact hc r hr

/-- Settles O17: the events of a run are chains of moves, which leave the rest alone. -/
theorem runEventsLeaveTheRest : Obligations.RunEventsLeaveTheRest := by
  have hdone {c : Instr} {s t : State} (hexec : exec c s = completed t) (h : Moves false s t) :
      ∃ t, exec c s = .next t ∧ Untouched s t := ⟨_, hexec, untouched_refreshLamps (moves_untouched h)⟩
  intro c i s hc
  rcases hc with ⟨r, rfl⟩ | ⟨tag, data, rfl⟩ | ⟨tag, rfl⟩ | rfl | ⟨e, rfl⟩ | ⟨e, rfl⟩ | ⟨n, rfl⟩ | ⟨n, rfl⟩
  · exact hdone rfl (moves_completionArrives i r s)
  · exact hdone rfl (.of (quiet_dataArrives i tag data s))
  · exact hdone rfl (moves_timeoutEnds i tag s)
  · exact hdone rfl (moves_offTimeEnds i s)
  · exact hdone rfl (moves_stepTimerEnds e s)
  · exact hdone rfl (.of (quiet_pacingEnds e s))
  · exact hdone rfl (.of (quiet_fillEnds i n s))
  · exact hdone rfl (moves_checkEnds i n s)

/-- Settles O28, by what the end of the window finds. -/
theorem seatedTaken : Obligations.SeatedTaken := by
  intro i s
  refine ⟨_, rfl, fun hw hr hs => ?_, fun h => congrArg refreshLamps (seatWindowEnds_idle h)⟩
  rw [seatWindowEnds_seated hw hr hs]
  obtain ⟨houtside, hother⟩ := sameOutsideSlots_modSlot s i fun x => { x with seated := true, window := none, state := .seated }
  exact ⟨slot_modSlot_same s i fun x => { x with seated := true, window := none, state := .seated }, hother, rfl,
    { houtside with line := rfl }⟩

/-- Settles O31: the record as R14 prepares it, and the evaluation that may grant it its power. -/
theorem slotStartAccepted : Obligations.SlotStartAccepted := by
  intro i p f plan r s hd hf hstart hlink hplan hprofile
  have hp : s.hunting.planAt p = some plan := hplan
  have hrequest : slotStart r.fields s.hunting = (startRun i p f s.hunting, Reply.ok []) := by
    have hstartable : (s.hunting.slot i).startable = true := (startable_iff _).2 hstart
    have hup : (s.hunting.slot i).linkUp = true := hlink
    have hloaded : (s.hunting.profileAt f).isNone = false := Option.isNone_eq_false_iff.2 hprofile
    rw [hf, slotStart_numbers (i := i) (p := p) (f := f) (by simp; omega) (by simp; omega) (by simp; omega), hstartable, hup, hp,
      hloaded]
    rfl
  rw [startRun_eq hp f] at hrequest
  refine ⟨_, answers_taken rfl hd (fun _ => rfl) hrequest, rfl, ?_, admission_line _, admission_lots _, fun j hj hne => ?_, ?_⟩
  · exact untouched_admitted ⟨rfl, rfl, rfl, rfl, rfl, rfl⟩
  · exact admitted_slot_ne (s := s.hunting) hj hne
  · rcases admitted_slot s.hunting i _ with hy | hy
    · exact ⟨_, _, _, hy, rfl, rfl, rfl, rfl, .inl ⟨rfl, rfl, rfl, rfl, rfl⟩⟩
    · exact ⟨_, _, _, hy, rfl, rfl, rfl, rfl, .inr ⟨rfl, rfl, rfl, spinTimer_setSlot rfl hp, rfl⟩⟩

/-- Settles O32, by the checks in their order. -/
theorem slotStartRefused : Obligations.SlotStartRefused := by
  intro a b c r s hd hf
  have hrefused {result : Result} (h : slotStart [a, b, c] s.hunting = (s.hunting, Reply.refuse result)) :
      Answers (.slotStart r) r 0x20#8 (Reply.refuse result) s s.hunting :=
    answers_unchanged (h := slotStart) rfl hd (by rw [hf]; exact h)
  refine ⟨fun ha => hrefused (slotStart_slot_refused ha _), fun ha hb => hrefused (slotStart_plan_refused ha hb _),
    fun ha hb hc => hrefused (slotStart_profile_refused ha hb hc _), fun i p f ha hb hc => ⟨fun h => hrefused ?_,
      fun hstart hlink h => hrefused ?_⟩⟩
  · rw [slotStart_numbers ha hb hc]
    have hbad : (s.hunting.slot i).startable = false ∨ (s.hunting.slot i).linkUp = false := by
      rw [← Bool.not_eq_true, startable_iff]
      simp only [List.mem_cons, List.not_mem_nil, or_false, not_or] at h
      show (¬ ((s.slot i).state = .seated ∨ _)) ∨ (s.slot i).linkUp = false
      rcases h with ⟨hs, hd⟩ | ⟨hd, hreject, haborted⟩ | hlink
      · exact .inl fun h => h.elim hs fun h => hd h.1
      · exact .inl fun h => h.elim (fun hs => by rw [hd] at hs; cases hs) fun h => h.2.elim hreject haborted
      · exact .inr hlink
    cases hstart : (s.hunting.slot i).startable with
    | false => rfl
    | true =>
      rw [hbad.resolve_left (by rw [hstart]; nofun)]
      rfl
  · rw [slotStart_numbers ha hb hc]
    have hstartable : (s.hunting.slot i).startable = true := (startable_iff _).2 hstart
    have hup : (s.hunting.slot i).linkUp = true := hlink
    have hmissing : ((s.hunting.planAt p).isNone || (s.hunting.profileAt f).isNone) = true := by
      rw [Bool.or_eq_true, Option.isNone_iff_eq_none, Option.isNone_iff_eq_none]
      exact h
    rw [hstartable, hup, hmissing]
    rfl

/-- Settles O49, by the lots of the key. -/
theorem gradeReachesTheLots : Obligations.GradeReachesTheLots := by
  intro i p b s member
  refine ⟨fun x hx => giveGrade_full hx, fun hfull => ?_⟩
  cases ho : s.lots.openLot p b with
  | some o =>
    refine ⟨o, s.lots.opens, s.lots.next, fun x hx => ?_, nofun, ?_⟩
    · obtain rfl := Option.some.inj hx
      exact ⟨rfl, rfl, rfl⟩
    · rw [giveGrade_join hfull, joinKey_open ho]
      exact joinLot_cases i o s
  | none =>
    refine ⟨s.newLot p b, s.lots.opens ++ [s.newLot p b], nextNumber (s.newLot p b).number, nofun, fun _ => ⟨rfl, rfl, rfl, rfl,
      rfl, rfl, rfl, rfl, fun hnext => freeNumber_next hnext, fun hlen => freeNumber_free (by simpa using hlen) _⟩, ?_⟩
    rw [giveGrade_join hfull, joinKey_new ho]
    exact joinLot_cases i (s.newLot p b) (openNewLot p b s)

/-- Settles O51: a record or chunk that answers nothing is dropped. -/
theorem channelMatchedByTag : Obligations.ChannelMatchedByTag := by
  intro i s
  refine ⟨rfl, fun c h => congrArg completed (completionArrives_unmatched h), fun tag data =>
    ⟨fun h => congrArg completed (dataArrives_unmatched h), fun k hk ht => ?_⟩⟩
  have hmatched := dataArrives_matched (data := data) hk ht
  obtain ⟨houtside, hother⟩ := sameOutsideSlots_modSlot s i fun x => { x with sweep := { x.sweep with
    hand := x.sweep.hand.map fun h => if h.use = .inFlight then { h with data := data } else h } }
  refine ⟨_, congrArg completed hmatched, houtside, hother, ?_⟩
  rw [refreshLamps_slot, slot_modSlot_same]

/-- Settles O56: the slot waits for power, and the evaluation that follows may grant it. -/
theorem offTimeEndWaitsForPower : Obligations.OffTimeEndWaitsForPower := by
  intro i s
  refine ⟨fun hc ht => ?_, fun h => congrArg completed (offTimeEnds_idle h)⟩
  have hends := offTimeEnds_cycling hc ht
  have hexec : exec (.offTimeEnd i) s = .next (refreshLamps (admission (s.setSlot i { s.slot i with
      state := .waitPower, powered := false, op := { (s.slot i).op with offTimer := none } }))) := congrArg completed hends
  have huntouched := untouched_refreshLamps (untouched_admitted (s := s) (i := i) (y := { s.slot i with
      state := .waitPower, powered := false, op := { (s.slot i).op with offTimer := none } }) ⟨rfl, rfl, rfl, rfl, rfl, rfl⟩)
  rcases admitted_slot s i { s.slot i with
      state := .waitPower, powered := false, op := { (s.slot i).op with offTimer := none } } with hy | hy
  · exact ⟨_, _, _, _, hexec, huntouched, admission_line _, admission_lots _, rfl, admission_pool _,
      fun j hj hne => admitted_slot_ne hj hne, hy, rfl, rfl, rfl, .inl ⟨rfl, rfl, rfl⟩⟩
  · exact ⟨_, _, _, _, hexec, huntouched, admission_line _, admission_lots _, rfl, admission_pool _,
      fun j hj hne => admitted_slot_ne hj hne, hy, rfl, rfl, rfl, .inr ⟨rfl, rfl, rfl, rfl⟩⟩

end Sys2Proof.Proofs
end

section
/-! SUPPORT. The zones: ZONE SET (R112 to R115), the recompute behind a zone that stops demanding (R35), and the control period in
OFF, COOL and FAULT (R116 to R118, R122, R124). -/

namespace Sys2Proof.Machine

/-! ### Commitments and admission -/

theorem AdmissionOnly.refl (s : State) : AdmissionOnly s s := ⟨.refl s, rfl, rfl, rfl, rfl, fun _ _ => rfl⟩

theorem commits_eq_iff (s t : State) : t.commits = s.commits ↔ ∀ y, (t.zone y).commit = (s.zone y).commit := by
  simp only [State.commits, quadIds, List.map_cons, List.map_nil, List.cons.injEq, and_true]
  constructor
  · rintro ⟨h0, h1, h2, h3⟩ y
    fin_cases y
    · exact h0
    · exact h1
    · exact h2
    · exact h3
  · exact fun h => ⟨h 0, h 1, h 2, h 3⟩

theorem commits_setZone (s : State) (z : Fin 4) (x : Zone) :
    (s.setZone z x).commits = s.commits ↔ x.commit = (s.zone z).commit := by
  rw [commits_eq_iff]
  constructor
  · intro h
    have hz := h z
    rwa [zone_setZone_same] at hz
  · intro h y
    rw [zone_setZone]
    split
    · subst_vars; exact h
    · rfl

theorem admissionOnly_admitIfChanged (before : List Nat) (s : State) : AdmissionOnly s (admitIfChanged before s) := by
  unfold admitIfChanged
  split
  · exact .refl s
  · exact admissionOnly_admission s

theorem admissionOnly_ite (c : Prop) [Decidable c] (s : State) : AdmissionOnly s (if c then s else admission s) := by
  split
  · exact .refl s
  · exact admissionOnly_admission s

/-- A zone that commits nothing any more, with the evaluation that follows where it did before (R31). -/
theorem admitIfChanged_setZone {s : State} {z : Fin 4} {x : Zone} (h : x.commit = 0) :
    admitIfChanged s.commits (s.setZone z x) = if (s.zone z).commit = 0 then s.setZone z x else admission (s.setZone z x) := by
  unfold admitIfChanged
  have hiff : (s.setZone z x).commits = s.commits ↔ (s.zone z).commit = 0 := by rw [commits_setZone, h, eq_comm]
  simp only [hiff]

/-! ### The share behind a change of one zone (R33) -/

theorem demandersIn_setZone (s : State) (z : Fin 4) (x : Zone) : demandersIn [0, 1, 2, 3] (s.setZone z x) =
    (if x.demanding then 1 else 0) + demandersIn ([0, 1, 2, 3].filter fun y => decide (y ≠ z)) s := by
  simp only [Zone.demanding_iff, demandersIn, length_filter_eq_sum]
  fin_cases z <;> simp [zone_setZone] <;> omega

/-- The share where one zone has ceased to demand. -/
theorem share_setZone_cold {s : State} {z : Fin 4} {x : Zone} (h : x.demanding = false) : (s.setZone z x).share =
    heaterPoolOf s.power.budget s / demandersIn ([0, 1, 2, 3].filter fun y => decide (y ≠ z)) s := by
  rw [share_eq, demandersIn_setZone, h, if_neg (by simp), Nat.zero_add]
  rfl

/-- In a recompute a zone that does not demand takes nothing (R35). -/
theorem applyAllowance_cold {x : Zone} (h : x.demand = 0) (cost : Nat) :
    x.applyAllowance cost 0 = { x with allowance := 0, applied := 0, commit := 0 } := by
  simp [Zone.applyAllowance, h, ceilDiv]

section
variable {s : State} {z : Fin 4} {x : Zone} (hd : x.demanding = false)
include hd

theorem recomputeZones_cold_same (h0 : x.demand = 0) :
    (recomputeZones (s.setZone z x)).zone z = { x with allowance := 0, applied := 0, commit := 0 } := by
  rw [recomputeZones_zone, zone_setZone_same, hd]
  exact applyAllowance_cold h0 _

theorem recomputeZones_cold_other {y : Fin 4} (hy : y ≠ z) : (recomputeZones (s.setZone z x)).zone y =
    (s.zone y).allowed (s.power.cost.get y) ((s.zone y).shareOf
      (heaterPoolOf s.power.budget s / demandersIn ([0, 1, 2, 3].filter fun y => decide (y ≠ z)) s)) := by
  rw [recomputeZones_zone, zone_setZone_ne s x hy, Zone.shareOf_eq, Zone.applyAllowance_eq, share_setZone_cold hd]
  rfl

end

/-! ### ZONE SET (R112) -/

theorem fieldAt_cons (b : Byte) (l : List Byte) (n k : Nat) : fieldAt (b :: l) (n + 1) k = fieldAt l n k := rfl

theorem ZoneAction.ofNat?_code (a : ZoneAction) : ZoneAction.ofNat? a.code.toNat = some a := by cases a <;> rfl

/-- The settings of a ZONE SET, in quarter degrees and clamped (R112). -/
theorem settingsOf_eq (n m a b c d e f g : Byte) : zoneSettings [n, m, a, b, c, d, e, f, g] = settingsOf a b c d e f g := by
  simp only [zoneSettings, fieldAt_cons, fieldAt_head]
  rfl

/-- ZONE SET of a well-formed body is its action. -/
theorem zoneSet_action (z : Fin 4) (a b c d e f g : Byte) (action : ZoneAction) {r : Req}
    (hr : r.fields = [BitVec.ofNat 8 z.val, a, b, c, d, e, f, g]) (s : State) :
    zoneSet (withAction action r).fields s = match action.act z (settingsOf a b c d e f g) s with
      | none => refused s .badState
      | some t => (t, Reply.ok ((t.zone z).record z)) := by
  have hfields : (withAction action r).fields = [BitVec.ofNat 8 z.val, action.code, a, b, c, d, e, f, g] := by
    simp [withAction, hr]
  have haction : fieldAt [BitVec.ofNat 8 z.val, action.code, a, b, c, d, e, f, g] 1 1 = action.code.toNat := fieldAt_second _ _ _
  rw [hfields, zoneSet, quadNo?_field, haction, ZoneAction.ofNat?_code, settingsOf_eq]
  rfl

section
variable {z : Fin 4} {a b c d e f g : Byte} {action : ZoneAction} {r : Req} {s t : State}
  (hr : r.fields = [BitVec.ofNat 8 z.val, a, b, c, d, e, f, g])
include hr

theorem zoneSet_taken (h : action.act z (settingsOf a b c d e f g) s = some t) :
    zoneSet (withAction action r).fields s = (t, Reply.ok ((t.zone z).record z)) := by
  rw [zoneSet_action z a b c d e f g action hr, h]

theorem zoneSet_refused (h : action.act z (settingsOf a b c d e f g) s = none) :
    zoneSet (withAction action r).fields s = (s, Reply.refuse .badState) := by
  rw [zoneSet_action z a b c d e f g action hr, h]
  rfl

end

theorem runZone_taken {z : Fin 4} {set : ZoneSettings} {s : State} {t : Int} (hs : (s.zone z).state ≠ .fault)
    (ht : (s.zone z).temp = some t) :
    runZone z set s = some (admitIfChanged s.commits (s.setZone z (Zone.run t { s.zone z with set := set }))) := by
  unfold runZone
  rw [ht]
  split
  · rename_i h
    exact absurd h hs
  · rename_i h _
    cases h
  · rename_i h _
    obtain rfl := Option.some.inj h
    rfl

theorem runZone_refused {z : Fin 4} {set : ZoneSettings} {s : State} (h : (s.zone z).state = .fault ∨ (s.zone z).temp = none) :
    runZone z set s = none := by
  unfold runZone
  split
  · rfl
  · rfl
  · rename_i ht hs
    rcases h with h | h
    · exact absurd h hs
    · rw [h] at ht; cases ht

theorem stopZone_taken {z : Fin 4} {set : ZoneSettings} {s : State} (h : (s.zone z).state ∈ [ZoneState.off, .ramp, .soak]) :
    stopZone z set s = some (admitIfChanged s.commits (recomputeZones (s.setZone z (Zone.stop { s.zone z with set := set })))) := by
  simp only [List.mem_cons, List.not_mem_nil, or_false] at h
  unfold stopZone
  rcases h with h | h | h <;> rw [h] <;> rfl

theorem stopZone_cool {z : Fin 4} {set : ZoneSettings} {s : State} (h : (s.zone z).state = .cool) :
    stopZone z set s = some (s.setZone z { s.zone z with set := set }) := by
  unfold stopZone
  rw [h]
  rfl

theorem stopZone_refused {z : Fin 4} {set : ZoneSettings} {s : State} (h : (s.zone z).state = .fault) :
    stopZone z set s = none := by
  unfold stopZone
  rw [h]

/-! ### CLEAR (R115), and the slots that go on (R17, R58) -/

theorem mayClear_iff (set : ZoneSettings) (z : Zone) : z.mayClear set = true ↔
    z.miss = 0 ∧ ∃ t, z.temp = some t ∧ t < min ((set.setpoint : Int) + set.margin) 380 := by
  rw [Zone.mayClear, Bool.and_eq_true, decide_eq_true_iff, Option.any_eq_true]
  simp only [decide_eq_true_iff]
  rfl

theorem clearZone_taken {z : Fin 4} {set : ZoneSettings} {s : State} (hs : (s.zone z).state = .fault)
    (hm : (s.zone z).mayClear set = true) :
    clearZone z set s = some (unmet (liftZone z) (s.setZone z (Zone.cleared { s.zone z with set := set }))) := by
  unfold clearZone
  rw [hs, if_pos hm]
  rfl

theorem clearZone_refused {z : Fin 4} {set : ZoneSettings} {s : State}
    (h : ¬ ((s.zone z).state = .fault ∧ (s.zone z).mayClear set = true)) : clearZone z set s = none := by
  unfold clearZone
  split
  · rename_i hs
    exact if_neg fun hm => h ⟨hs, hm⟩
  · rfl

theorem mem_zoneSlots : ∀ (i : Fin 16) (z : Fin 4), i ∈ zoneSlots z ↔ zoneOf i = z := by decide

theorem zoneSlots_nodup : ∀ z : Fin 4, (zoneSlots z).Nodup := by decide

/-- A slot that is held or not in ACTIVE stays where it stood. -/
theorem pauseLifts_still {s : State} {j : Fin 16} (h : (s.slot j).state ≠ .active ∨ (s.slot j).held = true) :
    pauseLifts j s = s := by
  rcases h with h | h
  · exact pauseLifts_of_ne_active h
  · exact pauseLifts_of_paused (by simp [State.paused, h])

theorem foldl_pauseLifts_still {l : List (Fin 16)} {s : State}
    (h : ∀ j ∈ l, (s.slot j).state ≠ .active ∨ (s.slot j).held = true) : l.foldl (fun t i => pauseLifts i t) s = s := by
  induction l with
  | nil => rfl
  | cons j l ih =>
    rw [List.foldl_cons, pauseLifts_still (h j (List.mem_cons_self ..))]
    exact ih fun k hk => h k (List.mem_cons_of_mem j hk)

/-- Where one slot of the list goes on and leaves the other records alone, that is all the list does. -/
theorem foldl_pauseLifts_alone {l : List (Fin 16)} {i : Fin 16} {s u : State} (hi : i ∈ l) (hl : l.Nodup)
    (h : ∀ j ∈ l, j ≠ i → (s.slot j).state ≠ .active ∨ (s.slot j).held = true) (hu : pauseLifts i s = u)
    (hsame : ∀ j, j ≠ i → u.slot j = s.slot j) : l.foldl (fun t i => pauseLifts i t) s = u := by
  induction l with
  | nil => cases hi
  | cons j l ih =>
    obtain ⟨hj, hl⟩ := List.nodup_cons.1 hl
    rw [List.foldl_cons]
    by_cases hij : j = i
    · subst hij
      rw [hu]
      refine foldl_pauseLifts_still fun k hk => ?_
      have hne : k ≠ j := fun e => hj (e ▸ hk)
      rw [hsame k hne]
      exact h k (List.mem_cons_of_mem j hk) hne
    · rw [pauseLifts_still (h j (List.mem_cons_self ..) hij)]
      exact ih ((List.mem_cons.1 hi).resolve_left fun e => hij e.symm) hl fun k hk => h k (List.mem_cons_of_mem j hk)

/-- The one slot of a zone that goes on does so as a slot whose pause has lifted (R58). -/
theorem resumes_foldl {l : List (Fin 16)} {i : Fin 16} {plan : Plan} {s : State} (hi : i ∈ l) (hl : l.Nodup)
    (h : ∀ j ∈ l, j ≠ i → (s.slot j).state ≠ .active ∨ (s.slot j).held = true) (k : Resumes i plan s (pauseLifts i s)) :
    Resumes i plan s (l.foldl (fun t i => pauseLifts i t) s) where
  waiting := fun hw hs hst => foldl_pauseLifts_alone hi hl h (k.waiting hw hs hst) fun _ hj => slot_setSlot_ne s _ hj
  interrupted := fun hw he ho hint => foldl_pauseLifts_alone hi hl h (k.interrupted hw he ho hint) fun _ hj => slot_setSlot_ne s _ hj
  firstOp := fun hw he ho hint hst =>
    foldl_pauseLifts_alone hi hl h (k.firstOp hw he ho hint hst) fun _ hj => slot_setSlot_ne s _ hj
  inFlight := fun hw he ho => foldl_pauseLifts_alone hi hl h (k.inFlight hw he ho) fun _ _ => rfl
  seeks := fun f hw hk hf ho hint hlow hle hg =>
    foldl_pauseLifts_alone hi hl h (k.seeks f hw hk hf ho hint hlow hle hg) fun _ hj => slot_setSlot_ne s _ hj

theorem setZone_setZone (s : State) (z : Fin 4) (x y : Zone) : (s.setZone z x).setZone z y = s.setZone z y := by
  simp [State.setZone]

/-! ### The control period up to its fault test (R116 to R118) -/

theorem endRead_eq (z : Fin 4) (s : State) : endRead z s =
    { s with bus := if s.bus.reading = some z then { s.bus with reading := none } else s.bus } := by
  unfold endRead
  split <;> rfl

/-- The zone record with the read in it, by the read's temperature and the misses counted. -/
def Zone.read (temp : Option Int) (miss : Nat) (z : Zone) : Zone := { z with temp := temp, miss := miss }

theorem readTaken_eq {r : Option Int} {x : Zone} {temp : Option Int} {miss : Nat}
    (h : (r = none ∧ temp = x.temp ∧ miss = min 3 (x.miss + 1)) ∨ ∃ t, r = some t ∧ temp = some t ∧ miss = 0) :
    x.readTaken r = x.read temp miss := by
  rcases h with ⟨rfl, rfl, rfl⟩ | ⟨t, rfl, rfl, rfl⟩ <;> rfl

/-- The state as the fault test finds it. -/
def afterRead (z : Fin 4) (temp : Option Int) (miss : Nat) (s : State) : State :=
  { s with bus := if s.bus.reading = some z then { s.bus with reading := none } else s.bus }.setZone z ((s.zone z).read temp miss)

theorem afterRead_commit (z y : Fin 4) (temp : Option Int) (miss : Nat) (s : State) :
    ((afterRead z temp miss s).zone y).commit = (s.zone y).commit := by
  rw [afterRead, zone_setZone]
  split
  · subst_vars; rfl
  · rfl

theorem modZone_readTaken {z : Fin 4} {r : Option Int} {temp : Option Int} {miss : Nat} {s : State}
    (h : (r = none ∧ temp = (s.zone z).temp ∧ miss = min 3 ((s.zone z).miss + 1)) ∨ ∃ t, r = some t ∧ temp = some t ∧ miss = 0) :
    (endRead z s).modZone z (Zone.readTaken r) = afterRead z temp miss s := by
  rw [endRead_eq, State.modZone, afterRead]
  congr 1
  exact readTaken_eq h

section
variable {z : Fin 4} {read : SensorRead} {temp : Option Int} {miss : Nat} {s : State}
  (h : (goodRead read = none ∧ temp = (s.zone z).temp ∧ miss = min 3 ((s.zone z).miss + 1)) ∨
    ∃ t, goodRead read = some t ∧ temp = some t ∧ miss = 0)
include h

theorem zonePeriod_faults {reason : ZoneReason} (hf : ((s.zone z).read temp miss).finds (goodRead read) = some reason) :
    zonePeriod z read s = faultZone z reason (afterRead z temp miss s) := by
  unfold zonePeriod
  simp only [modZone_readTaken h]
  have hzone : (afterRead z temp miss s).zone z = (s.zone z).read temp miss := zone_setZone_same _ _ _
  rw [hzone, hf]

theorem zonePeriod_fault (hs : (s.zone z).state = .fault) : zonePeriod z read s = afterRead z temp miss s := by
  unfold zonePeriod
  simp only [modZone_readTaken h]
  have hzone : (afterRead z temp miss s).zone z = (s.zone z).read temp miss := zone_setZone_same _ _ _
  have hstate : ((s.zone z).read temp miss).state = .fault := hs
  have hfinds : ((s.zone z).read temp miss).finds (goodRead read) = none := if_pos hs
  rw [hzone, hfinds, hstate]

theorem zonePeriod_idle (hf : ((s.zone z).read temp miss).finds (goodRead read) = none)
    (hs : (s.zone z).state = .off ∨ (s.zone z).state = .cool) :
    zonePeriod z read s = admitIfChanged (afterRead z temp miss s).commits
      (allowZone z ((afterRead z temp miss s).modZone z Zone.idlePeriod)) := by
  unfold zonePeriod
  simp only [modZone_readTaken h]
  have hzone : (afterRead z temp miss s).zone z = (s.zone z).read temp miss := zone_setZone_same _ _ _
  have hstate : ((s.zone z).read temp miss).state = (s.zone z).state := rfl
  rw [hzone, hf, hstate]
  rcases hs with hs | hs <;> rw [hs]

theorem zonePeriod_heated (hf : ((s.zone z).read temp miss).finds (goodRead read) = none)
    (hs : (s.zone z).state = .ramp ∨ (s.zone z).state = .soak) :
    zonePeriod z read s = heatedPeriod z (afterRead z temp miss s) := by
  unfold zonePeriod
  simp only [modZone_readTaken h]
  have hzone : (afterRead z temp miss s).zone z = (s.zone z).read temp miss := zone_setZone_same _ _ _
  have hstate : ((s.zone z).read temp miss).state = (s.zone z).state := rfl
  rw [hzone, hf, hstate]
  rcases hs with hs | hs <;> rw [hs]

end

theorem finds_none {z : Zone} {r : Option Int} {temp : Option Int} {miss : Nat}
    (hmiss : r = none → miss ≠ 3) (hover : ∀ t, r = some t → t < min ((z.set.setpoint : Int) + z.set.margin) 380) :
    (z.read temp miss).finds r = none := by
  unfold Zone.finds
  split
  · rfl
  · split
    · exact if_neg (hmiss rfl)
    · exact if_neg (not_le.2 (hover _ rfl))

/-! ### The period in OFF and COOL (R122) -/

/-- A period in OFF or COOL leaves the heater off and its allowance 0. -/
theorem idlePeriod_allowed {x : Zone} (hs : x.state = .off ∨ x.state = .cool) (cost : Nat) :
    x.idlePeriod.applyAllowance cost 0 = x.idlePeriod ∧ x.idlePeriod.demanding = false := by
  unfold Zone.idlePeriod
  rcases hs with hs | hs
  · rw [hs]
    exact ⟨applyAllowance_cold rfl cost, by simp [Zone.demanding, Zone.heaterOff]⟩
  · rw [hs]
    simp only
    split
    · exact ⟨applyAllowance_cold rfl cost, by simp [Zone.demanding, Zone.heaterOff]⟩
    · exact ⟨applyAllowance_cold rfl cost, by simp [Zone.demanding, Zone.heaterOff]⟩

/-- The record a period in OFF or COOL leaves, by its read (R122). -/
theorem idlePeriod_read {x : Zone} (hs : x.state = .off ∨ x.state = .cool) (temp : Option Int) (miss : Nat) :
    (x.read temp miss).idlePeriod =
      if x.state = ZoneState.cool then
        if temp.any fun c => decide (c ≤ 140) then { (x.read temp miss).heaterOff with state := .off, fan := x.set.fanMin }
        else { (x.read temp miss).heaterOff with fan := 100 }
      else { (x.read temp miss).heaterOff with fan := x.set.fanMin } := by
  have hstate : (x.read temp miss).state = x.state := rfl
  unfold Zone.idlePeriod
  rw [hstate]
  rcases hs with hs | hs <;> rw [hs] <;> rfl

theorem allowZone_idle {z : Fin 4} {s : State} (hs : (s.zone z).state = .off ∨ (s.zone z).state = .cool) :
    allowZone z (s.modZone z Zone.idlePeriod) = s.modZone z Zone.idlePeriod := by
  obtain ⟨hsame, hcold⟩ := idlePeriod_allowed hs ((s.modZone z Zone.idlePeriod).power.cost.get z)
  rw [allowZone, zone_modZone_same, hcold]
  simp only [Bool.false_eq_true, if_false, hsame]
  simp [State.modZone, State.setZone]

/-! ### The fault (R124) -/

theorem voidRunning_slot (i j : Fin 16) (s : State) : (voidRunning i s).slot j =
    if j = i then { s.slot i with sweep := { (s.slot i).sweep with bands := (s.slot i).sweep.bands.map Band.stopped } }
    else s.slot j := by
  rw [voidRunning, State.modSweep, State.modSlot, slot_setSlot]

theorem voidRunning_eq (i : Fin 16) (s : State) : voidRunning i s = { s with slots := (voidRunning i s).slots } := rfl

theorem foldl_voidRunning_eq (l : List (Fin 16)) (s : State) : l.foldl (fun t i => voidRunning i t) s =
    { s with slots := (l.foldl (fun t i => voidRunning i t) s).slots } := by
  induction l generalizing s with
  | nil => rfl
  | cons i l ih => rw [List.foldl_cons, ih, voidRunning_eq]

theorem foldl_voidRunning_slot {l : List (Fin 16)} (hl : l.Nodup) (s : State) (j : Fin 16) :
    (l.foldl (fun t i => voidRunning i t) s).slot j =
      if j ∈ l then { s.slot j with sweep := { (s.slot j).sweep with bands := (s.slot j).sweep.bands.map Band.stopped } }
      else s.slot j := by
  induction l generalizing s with
  | nil => rfl
  | cons i l ih =>
    obtain ⟨hi, hl⟩ := List.nodup_cons.1 hl
    rw [List.foldl_cons, ih hl, voidRunning_slot]
    by_cases hj : j = i
    · subst hj
      simp [hi]
    · simp [hj]

/-- What decides an evaluation is as it was. -/
theorem reserveOf_quiet {s t : State} (h : Quiet s t) : reserveOf t = reserveOf s := by
  have hpower : t.power = s.power := by rw [h.rest]
  have hplans : t.plans = s.plans := by rw [h.rest]
  have hzones : t.zones = s.zones := by rw [h.rest]
  have hcommit (i : Fin 16) : slotCommit t.plans (t.slot i) = slotCommit s.plans (s.slot i) := by
    rw [hplans, fixed_commit (h.slots i)]
  have hspin : t.spinCount = s.spinCount := by
    rw [spinCount_eq, spinCount_eq]
    exact sum_slotIds_congr fun i => fixed_place (h.slots i)
  have hcommitted : t.committed = s.committed := by
    have hdrive : t.driveTotal = s.driveTotal := by
      rw [driveTotal_eq, driveTotal_eq]
      exact sum_slotIds_congr hcommit
    have hheat : t.heaterTotal = s.heaterTotal := by
      simp only [State.heaterTotal, State.zone, hzones]
    rw [State.committed, State.committed, hdrive, hheat]
  have hcandidate : t.candidate = s.candidate := by
    have hstate (i : Fin 16) : (t.slot i).state = (s.slot i).state := (h.slots i).state
    have hheld (i : Fin 16) : (t.slot i).held = (s.slot i).held := (h.slots i).pins.2.2.2.2.2
    simp only [State.candidate, State.pendingList, hpower, hstate, hheld]
  have hneed (i : Fin 16) : t.need i = s.need i := by
    have hcost : t.spinCost i = s.spinCost i := by
      have hplanAt : t.planAt = s.planAt := funext fun p => by rw [State.planAt, hplans]; rfl
      simp only [State.spinCost, State.planOf, hplanAt, (h.slots i).plan]
    rw [State.need, State.need, driveCommit_eq, driveCommit_eq, hcommit, hcost]
  unfold reserveOf
  simp only [hspin, hcommitted, hcandidate, hneed, hpower]

theorem settled_quiet {s t : State} (h : Quiet s t) (k : Settled s) : Settled t := by
  have hpower : t.power = s.power := by rw [h.rest]
  unfold Settled at *
  rw [reserveOf_quiet h, hpower]
  exact k

theorem quiet_foldl_voidRunning (l : List (Fin 16)) (s : State) : Quiet s (l.foldl (fun t i => voidRunning i t) s) := by
  induction l generalizing s with
  | nil => exact .refl s
  | cons i l ih => exact Quiet.trans (quiet_voidRunning i s) (ih _)

theorem foldl_voidRunning_zone (l : List (Fin 16)) (s : State) (z : Fin 4) :
    (l.foldl (fun t i => voidRunning i t) s).zone z = s.zone z := by
  rw [foldl_voidRunning_eq]
  rfl

theorem admitIfChanged_zone (before : List Nat) (s : State) (z : Fin 4) : (admitIfChanged before s).zone z = s.zone z := by
  rw [State.zone, (admissionOnly_admitIfChanged before s).untouched.zones]
  rfl

/-- The zone in FAULT, with the recompute for the others (R124, R35). -/
def faultRecord (z : Fin 4) (reason : ZoneReason) (s : State) : State := recomputeZones (s.modZone z (Zone.faulted reason))

/-- The evaluation behind it, and the bands of the zone's slots that are void (R31, R106). -/
def faultPause (z : Fin 4) (reason : ZoneReason) (s : State) : State :=
  (zoneSlots z).foldl (fun t i => voidRunning i t) (admitIfChanged s.commits (faultRecord z reason s))

theorem faultPause_zone (z y : Fin 4) (reason : ZoneReason) (s : State) :
    (faultPause z reason s).zone y = (faultRecord z reason s).zone y := by
  rw [faultPause, foldl_voidRunning_zone, admitIfChanged_zone]

theorem faultRecord_same (z : Fin 4) (reason : ZoneReason) (s : State) :
    (faultRecord z reason s).zone z = (s.zone z).faulted reason := recomputeZones_cold_same rfl rfl

theorem faultZone_eq (z : Fin 4) (reason : ZoneReason) (s : State) : faultZone z reason s =
    raise z.val (.zoneFault reason (s.zone z).temp (s.zone z).state) (faultPause z reason s) := by
  have htemp : ((faultPause z reason s).zone z).temp = (s.zone z).temp := by
    rw [faultPause_zone, faultRecord_same]
    rfl
  rw [← htemp]
  rfl

theorem faultPause_slot {z : Fin 4} {reason : ZoneReason} {s : State} {i : Fin 16} (hi : (s.slot i).state ≠ .waitPower) :
    (faultPause z reason s).slot i =
      if zoneOf i = z then { s.slot i with sweep := { (s.slot i).sweep with bands := (s.slot i).sweep.bands.map Band.stopped } }
      else s.slot i := by
  have hrecord : (faultRecord z reason s).slot i = s.slot i := by
    rw [faultRecord, recomputeZones_eq]
    rfl
  have hadmitted : (admitIfChanged s.commits (faultRecord z reason s)).slot i = s.slot i := by
    rw [(admissionOnly_admitIfChanged s.commits (faultRecord z reason s)).slots i (by rw [hrecord]; exact hi), hrecord]
  rw [faultPause, foldl_voidRunning_slot (zoneSlots_nodup z), hadmitted]
  simp only [mem_zoneSlots]

/-- A pause of a zone leaves everything but zones, slots, pointer and reservation. -/
theorem faultPause_frame (z : Fin 4) (reason : ZoneReason) (s : State) : ∃ u : State, AdmissionOnly (faultRecord z reason s) u ∧
    faultPause z reason s = { u with slots := (faultPause z reason s).slots } ∧ Quiet u (faultPause z reason s) ∧
    (u.commits ≠ s.commits → Settled u) := by
  refine ⟨admitIfChanged s.commits (faultRecord z reason s), admissionOnly_admitIfChanged _ _, foldl_voidRunning_eq _ _,
    quiet_foldl_voidRunning _ _, fun h => ?_⟩
  unfold admitIfChanged at h ⊢
  split
  · rename_i hsame
    rw [if_pos hsame] at h
    exact absurd hsame h
  · exact settled_admission _

end Sys2Proof.Machine
end

section
/-! The statements about ZONE SET and the control periods that heat nothing (O40, O41, O43, O44). -/

namespace Sys2Proof.Proofs

open Sys2Proof Sys2Proof.Machine

/-- Settles O40, by the zone's state and temperature; a zone that stops demanding leaves the share to the others. -/
theorem zoneSetRunAndStop : Obligations.ZoneSetRunAndStop := by
  refine ⟨fun z a b c d e f g r s hd hr => ⟨fun t hs ht => ?_, fun h => ?_⟩,
    fun z a b c d e f g r s hd hr => ⟨fun hs => ?_, fun hs => ?_, fun hs => ?_⟩⟩
  · have hrun := runZone_taken (set := settingsOf a b c d e f g) (s := s.hunting) (z := z) hs ht
    have hrequest := zoneSet_taken (action := .run) hr hrun
    refine ⟨_, _, answers_taken rfl hd (fun _ => rfl) hrequest, admissionOnly_admitIfChanged _ _, admitIfChanged_setZone rfl, rfl⟩
  · have hrefused := runZone_refused (set := settingsOf a b c d e f g) (s := s.hunting) (z := z) h
    exact answers_unchanged rfl hd (zoneSet_refused (action := .run) hr hrefused)
  · have hcool := stopZone_cool (set := settingsOf a b c d e f g) (s := s.hunting) (z := z) hs
    have hrequest := zoneSet_taken (action := .stop) hr hcool
    rw [zone_setZone_same] at hrequest
    exact answers_taken rfl hd (fun _ => rfl) hrequest
  · have hstop := stopZone_taken (set := settingsOf a b c d e f g) (s := s.hunting) (z := z) hs
    have hrequest := zoneSet_taken (action := .stop) hr hstop
    refine ⟨_, _, answers_taken rfl hd (fun _ => rfl) hrequest, admissionOnly_admitIfChanged _ _, ?_, recomputeZones_eq _,
      recomputeZones_cold_same rfl rfl, fun y hy => recomputeZones_cold_other rfl hy⟩
    unfold admitIfChanged
    simp only [commits_eq_iff]
    rfl
  · have hrefused := stopZone_refused (set := settingsOf a b c d e f g) (s := s.hunting) (z := z) hs
    exact answers_unchanged rfl hd (zoneSet_refused (action := .stop) hr hrefused)

/-- Settles O41: CLEAR lifts the pause of the zone's slots one by one, and a slot that is held or not in ACTIVE stays. -/
theorem zoneSetClear : Obligations.ZoneSetClear := by
  intro z a b c d e f g r s hd hr set mayClear
  have hiff : ((s.hunting.zone z).state = .fault ∧ (s.hunting.zone z).mayClear set = true) ↔ mayClear :=
    and_congr_right fun _ => mayClear_iff set _
  refine ⟨fun hmay => ?_, fun hmay => ?_⟩
  · obtain ⟨hs, hm⟩ := hiff.2 hmay
    have hrequest := zoneSet_taken (action := .clear) hr (clearZone_taken hs hm)
    refine ⟨_, answers_taken rfl hd (fun _ => rfl) hrequest,
      moves_untouched (moves_unmet (strict := true) _ (moves_liftZone z) _), fun hstill => unmet_of_eq ?_,
      fun i plan hi ha hh hplan hstill => resumes_pending (q := []) ?_⟩
    · exact foldl_pauseLifts_still fun j hj => hstill j ((mem_zoneSlots j z).1 hj)
    · refine resumes_foldl ((mem_zoneSlots i z).2 hi) (zoneSlots_nodup z) (fun j hj hne => hstill j ((mem_zoneSlots j z).1 hj) hne) ?_
      refine resumes_pauseLifts hplan ha (paused_eq_false hh ?_)
      rw [hi]
      show ((s.hunting.setZone z _).zone z).state ≠ .fault
      rw [zone_setZone_same]
      nofun
  · exact answers_unchanged rfl hd (zoneSet_refused (action := .clear) hr (clearZone_refused fun h => hmay (hiff.1 h)))

/-- Settles O43, by the parts of a zone's FAULT. -/
theorem controlPeriodFaults : Obligations.ControlPeriodFaults := by
  intro z read reason temp miss s hs hfault share
  have hread : (goodRead read = none ∧ temp = (s.zone z).temp ∧ miss = min 3 ((s.zone z).miss + 1)) ∨
      ∃ t, goodRead read = some t ∧ temp = some t ∧ miss = 0 := by
    rcases hfault with ⟨hnone, hmiss, -, htemp, rfl⟩ | ⟨t, hgood, -, -, htemp, hmiss⟩
    · exact .inl ⟨hnone, htemp, by omega⟩
    · exact .inr ⟨t, hgood, htemp, hmiss⟩
  have hfinds : ((s.zone z).read temp miss).finds (goodRead read) = some reason := by
    have hstate : ((s.zone z).read temp miss).state ≠ .fault := hs
    unfold Zone.finds
    rw [if_neg hstate]
    rcases hfault with ⟨hnone, hmiss, rfl, htemp, rfl⟩ | ⟨t, hgood, hlimit, rfl, htemp, hmiss⟩
    · rw [hnone]
      exact if_pos rfl
    · rw [hgood]
      exact if_pos hlimit
  have hperiod : zonePeriod z read s = raise z.val (.zoneFault reason temp (s.zone z).state)
      (faultPause z reason (afterRead z temp miss s)) := by
    have hzone : (afterRead z temp miss s).zone z = (s.zone z).read temp miss := zone_setZone_same _ _ _
    rw [zonePeriod_faults hread hfinds, faultZone_eq, hzone]
    rfl
  obtain ⟨u, hadmitted, hframe, hquiet, hsettled⟩ := faultPause_frame z reason (afterRead z temp miss s)
  obtain ⟨⟨hpending, hnow, -, hbus, hbudget, hlimit, hcost, hplans, hstaging, hprofiles, -, -⟩, hline, hpool, hwork, hlots, -⟩ :=
    hadmitted
  have hzone (y : Fin 4) := faultPause_zone z y reason (afterRead z temp miss s)
  have hfault : (faultPause z reason (afterRead z temp miss s)).zone z = ((s.zone z).read temp miss).faulted reason := by
    rw [hzone, faultRecord_same]
    exact congrArg (Zone.faulted reason) (zone_setZone_same _ _ _)
  have hother (y : Fin 4) (hy : y ≠ z) : (faultPause z reason (afterRead z temp miss s)).zone y =
      (s.zone y).allowed (s.power.cost.get y) ((s.zone y).shareOf share) := by
    rw [hzone, faultRecord, State.modZone, afterRead, setZone_setZone]
    exact recomputeZones_cold_other rfl hy
  rw [hframe] at hfault hother
  refine ⟨_, congrArg completed hperiod, ?_⟩
  rw [hframe]
  refine ⟨hfault, hother, hbus, congrArg (Line.raised · _ _) hline, ?_, hplans, hstaging, hprofiles, hlots, hpool, hwork, hnow, hpending,
    fun hchanged => ?_, fun i hi => ?_⟩
  · show u.power = { s.power with pointer := u.power.pointer, reservation := u.power.reservation }
    have hpower (p q : Power) (hb : p.budget = q.budget) (hl : p.limit = q.limit) (hc : p.cost = q.cost) :
        p = { q with pointer := p.pointer, reservation := p.reservation } := by
      rw [← hb, ← hl, ← hc]
    exact hpower _ _ hbudget hlimit hcost
  · obtain ⟨y, hy⟩ := hchanged
    refine admission_of_settled (settled_refreshLamps (settled_raise ?_ _ _))
    rw [← hframe]
    refine settled_quiet hquiet (hsettled fun hsame => hy ?_)
    exact ((commits_eq_iff _ _).1 hsame y).trans (afterRead_commit z y temp miss s)
  · have hslot := faultPause_slot (z := z) (reason := reason) (s := afterRead z temp miss s) (i := i) hi
    rw [hframe] at hslot
    exact hslot

/-- Settles O44, by the zone's state. -/
theorem controlPeriodUnheated : Obligations.ControlPeriodUnheated := by
  intro z read temp miss s hread bus x off
  refine ⟨fun hs => ⟨_, congrArg completed (zonePeriod_fault hread hs), rfl,
    ⟨rfl, rfl, rfl, rfl, rfl, rfl, rfl, rfl, rfl, rfl, rfl, rfl⟩⟩, fun hs hmiss hover => ?_⟩
  have hmiss3 : goodRead read = none → miss ≠ 3 := by
    intro hnone
    rcases hread with ⟨-, -, hm⟩ | ⟨t, hgood, -, hm⟩
    · have := hmiss hnone
      omega
    · omega
  have hperiod := zonePeriod_idle hread (finds_none hmiss3 hover) hs
  have hzone : (afterRead z temp miss s).zone z = (s.zone z).read temp miss := zone_setZone_same _ _ _
  rw [allowZone_idle (by rw [hzone]; exact hs), State.modZone, hzone] at hperiod
  have hv : (afterRead z temp miss s).setZone z ((s.zone z).read temp miss).idlePeriod = { s with bus := bus }.setZone z
      (if (s.zone z).state = ZoneState.cool then
        if temp.any fun c => decide (c ≤ 140) then { off with state := .off, fan := (s.zone z).set.fanMin } else { off with fan := 100 }
      else { off with fan := (s.zone z).set.fanMin }) := by
    rw [afterRead, setZone_setZone]
    congr 1
    exact idlePeriod_read hs temp miss
  have hbefore : admitIfChanged (afterRead z temp miss s).commits
      ((afterRead z temp miss s).setZone z ((s.zone z).read temp miss).idlePeriod) = _ :=
    admitIfChanged_setZone (idlePeriod_commit _)
  rw [hbefore, hzone, hv] at hperiod
  refine ⟨_, congrArg completed hperiod, ?_, rfl⟩
  have hlamps {u t : State} (h : AdmissionOnly u t) : AdmissionOnly u (refreshLamps t) :=
    ⟨untouched_refreshLamps h.untouched, h.line, h.pool, h.work, h.lots, h.slots⟩
  exact hlamps (admissionOnly_ite _ _)

end Sys2Proof.Proofs
end

section
/-! SUPPORT. The control period in RAMP and SOAK (R119 to R121, R123), and the seconds its slots gain (R125). -/

namespace Sys2Proof.Machine

/-! ### Target, band and demand (R119 to R121) -/

/-- target_fine after a period's move (R119). -/
def Zone.movedFine (x : Zone) : Int :=
  if x.fine < 60 * x.set.setpoint then min (60 * x.set.setpoint) (x.fine + x.set.rate) else max (60 * x.set.setpoint) (x.fine - x.set.rate)

/-- The zone is in SOAK behind the move (R119). -/
abbrev Zone.soaks (x : Zone) : Prop := x.state = .soak ∨ x.movedFine = 60 * x.set.setpoint

/-- The zone is in SOAK and its temperature in band (R120). -/
def Zone.soaksInBand (temp : Int) (x : Zone) : Bool := decide (x.soaks ∧ (temp - x.set.setpoint).natAbs ≤ x.set.band)

/-- The target behind the move (R111, R119). -/
def Zone.movedTarget (x : Zone) : Int :=
  if x.soaks then x.set.setpoint else (if x.state = .ramp then x.movedFine else x.fine).fdiv 60

/-- The first in-band notice of this SOAK has been raised already. -/
def Zone.stillNoticed (x : Zone) : Bool := x.noticed && decide (x.state = .soak ∨ x.movedFine ≠ 60 * x.set.setpoint)

section
variable {x : Zone} (temp : Int) (miss : Nat)

theorem moveFine_eq (x : Zone) : moveFine (x.set.setpoint * 60) x.set.rate x.fine = x.movedFine := by
  unfold moveFine Zone.movedFine
  rw [mul_comm (x.set.setpoint : Int) 60, min_comm, max_comm]

/-- The record behind read, move and band test. -/
theorem ramped_read (hs : x.state = .ramp ∨ x.state = .soak) : (x.read (some temp) miss).ramped.banded = { x with
    temp := some temp, miss := miss, fine := if x.state = .ramp then x.movedFine else x.fine
    state := if x.soaks then .soak else .ramp, inBand := x.soaksInBand temp, noticed := x.stillNoticed } := by
  have hmove : moveFine ((x.read (some temp) miss).set.setpoint * 60) (x.read (some temp) miss).set.rate
      (x.read (some temp) miss).fine = x.movedFine := moveFine_eq x
  have hcomm : (x.set.setpoint : Int) * 60 = 60 * x.set.setpoint := mul_comm _ _
  unfold Zone.ramped
  rw [hmove]
  rcases hs with hs | hs
  · by_cases hgoal : x.movedFine = 60 * x.set.setpoint
    · simp [Zone.banded, Zone.withinBand, Zone.soaksInBand, Zone.stillNoticed, Zone.read, hs, hgoal, hcomm]
    · simp [Zone.banded, Zone.withinBand, Zone.soaksInBand, Zone.stillNoticed, Zone.read, hs, hgoal, hcomm]
  · simp [Zone.banded, Zone.withinBand, Zone.soaksInBand, Zone.stillNoticed, Zone.read, hs]

/-- The demand of a zone in RAMP or SOAK, and its fan (R121). -/
def Zone.demandAt (temp : Int) (x : Zone) : Nat := (max 0 (min 100 ((x.movedTarget - temp) * x.set.kp))).toNat

def Zone.fanAt (temp : Int) (x : Zone) : Nat :=
  (max (x.set.fanMin : Int) (min 100 ((temp - x.movedTarget) * x.set.kf))).toNat

/-- The record of a zone in RAMP or SOAK as its demand is set, its first in-band period noticed (R119 to R121). -/
def Zone.heatedAt (temp : Int) (miss : Nat) (x : Zone) : Zone :=
  { x with
    temp := some temp, miss := miss, fine := if x.state = .ramp then x.movedFine else x.fine
    state := if x.soaks then .soak else .ramp, inBand := x.soaksInBand temp
    noticed := x.soaksInBand temp || x.stillNoticed, demand := x.demandAt temp, fan := x.fanAt temp }

/-- The record with the band tested and the notice raised. -/
def Zone.noticedAt (temp : Int) (miss : Nat) (x : Zone) : Zone :=
  { (x.read (some temp) miss).ramped.banded with noticed := x.soaksInBand temp || x.stillNoticed }

theorem driven_noticedAt (hs : x.state = .ramp ∨ x.state = .soak) : (x.noticedAt temp miss).driven = x.heatedAt temp miss := by
  have htarget : (x.noticedAt temp miss).target = some x.movedTarget := by
    rw [Zone.noticedAt, ramped_read temp miss hs]
    unfold Zone.target Zone.movedTarget
    by_cases hsoak : x.soaks <;> simp [hsoak]
  have htemp : (x.noticedAt temp miss).temp = some temp := by rw [Zone.noticedAt, ramped_read temp miss hs]
  have herror : (x.noticedAt temp miss).error = x.movedTarget - temp := by rw [Zone.error, htarget, htemp]; rfl
  have hneg : -(x.movedTarget - temp) = temp - x.movedTarget := by ring
  rw [Zone.driven, herror, hneg, Zone.noticedAt, ramped_read temp miss hs]
  rfl

end

theorem setZone_self (s : State) (z : Fin 4) : s.setZone z (s.zone z) = s := by
  simp [State.setZone, State.zone, Vector.get_eq_getElem]

/-! ### The notice of the first in-band period (R120) -/

theorem bandNotice_eq {z : Fin 4} {s : State} {x : Zone} {temp : Int} {miss : Nat} (hs : x.state = .ramp ∨ x.state = .soak)
    (hx : s.zone z = (x.read (some temp) miss).ramped.banded) : bandNotice z s =
      { s.setZone z (x.noticedAt temp miss) with
        line := if x.soaksInBand temp && !x.stillNoticed then s.line.raised z.val (.zoneInBand temp x.set.setpoint) else s.line } := by
  have hin : (s.zone z).inBand = x.soaksInBand temp := by rw [hx, ramped_read temp miss hs]
  have hnoticed : (s.zone z).noticed = x.stillNoticed := by rw [hx, ramped_read temp miss hs]
  have htemp : (s.zone z).temp = some temp := by rw [hx, ramped_read temp miss hs]
  have hset : (s.zone z).set = x.set := by rw [hx, ramped_set]; rfl
  unfold bandNotice
  simp only [hin, hnoticed, htemp, hset]
  by_cases hraise : (x.soaksInBand temp && !x.stillNoticed) = true
  · obtain ⟨hband, hstill⟩ := Bool.and_eq_true_iff.1 hraise
    have hrecord : { s.zone z with noticed := true } = x.noticedAt temp miss := by
      rw [Zone.noticedAt, hband, hx]
      rfl
    rw [if_pos hraise, if_pos hraise, State.modZone, hrecord]
    rfl
  · have hsame : (x.soaksInBand temp || x.stillNoticed) = x.stillNoticed := by
      cases hband : x.soaksInBand temp <;> cases hstill : x.stillNoticed <;> simp_all
    have hrecord : s.zone z = x.noticedAt temp miss := by
      rw [Zone.noticedAt, hsame, ← hnoticed, ← hx]
    rw [if_neg hraise, if_neg hraise, ← hrecord, setZone_self]

/-- The notice is raised in band, unless it has been in this SOAK (R120). -/
theorem Zone.raises_iff (x : Zone) (temp : Int) : (x.soaksInBand temp && !x.stillNoticed) =
    (x.soaksInBand temp && !(x.noticed && decide (x.state = .soak))) := by
  cases hband : x.soaksInBand temp with
  | false => rfl
  | true =>
    have hsoaks : x.soaks := (of_decide_eq_true hband).1
    have hsame : decide (x.state = .soak ∨ x.movedFine ≠ 60 * x.set.setpoint) = decide (x.state = .soak) := by
      rw [decide_eq_decide]
      refine or_iff_left_of_imp fun hne => hsoaks.resolve_right hne
    rw [Zone.stillNoticed, hsame]

theorem power_frame {p q : Power} (hb : p.budget = q.budget) (hl : p.limit = q.limit) (hc : p.cost = q.cost) :
    p = { q with pointer := p.pointer, reservation := p.reservation } := by
  rw [← hb, ← hl, ← hc]

/-! ### The seconds gained (R125) -/

/-- A record that gains a second of exposure, and one of its DWELL where it is at one (R125). -/
def Slot.gained (dwelling : Bool) (x : Slot) : Slot :=
  { x with
    acc := { x.acc with exposure := min (x.acc.exposure + 1) 4294967295 }
    exec := if dwelling = true ∧ x.exec.phase = .working then { x.exec with dwell := x.exec.dwell + 1 } else x.exec }

/-- No second completes the slot's DWELL. -/
def State.dwellsOn (s : State) (i : Fin 16) : Prop := ∀ m, s.stepAt i = some (.dwell m) → (s.slot i).exec.dwell + 1 < m * 60

theorem dwellGoal_modAcc (s : State) (i : Fin 16) (f : Accum → Accum) : (s.modAcc i f).dwellGoal i = s.dwellGoal i := by
  have hstep : (s.modAcc i f).stepAt i = s.stepAt i := by
    simp only [State.stepAt, State.stepsOf, State.planOf, State.modAcc, slot_modSlot_same]
    rfl
  rw [State.dwellGoal, State.dwellGoal, hstep]

theorem credit_gained {i : Fin 16} {s : State} (hc : (s.slot i).credited = true) (h : s.dwellsOn i) :
    credit i s = s.modSlot i (Slot.gained (s.dwellGoal i).isSome) := by
  have hgoal (goal : Nat) (hg : s.dwellGoal i = some goal) : ¬ goal ≤ (s.slot i).exec.dwell + 1 := by
    unfold State.dwellGoal at hg
    split at hg
    · rename_i m hm
      obtain rfl := Option.some.inj hg
      exact Nat.not_le.2 (h m hm)
    · cases hg
  unfold credit
  simp only [hc, if_true, dwellGoal_modAcc]
  cases hg : s.dwellGoal i with
  | none => rfl
  | some goal =>
    have hgoal := hgoal goal hg
    by_cases hw : (s.slot i).exec.phase = .working
    · simp [State.modAcc, State.modExec, State.modSlot, hw, hgoal, Slot.gained, sat32, Config.top32]
    · simp [State.modAcc, State.modSlot, hw, Slot.gained, sat32, Config.top32]

/-- The credit that completes a DWELL is the second gained and the step's end (R48, R56). -/
theorem credit_completes {i : Fin 16} {plan : Plan} {m : Nat} {s : State} (ha : (s.slot i).state = .active)
    (hh : (s.slot i).held = false) (hplan : s.planOf i = some plan) (hw : (s.slot i).exec.phase = .working)
    (hstep : plan.steps[(s.slot i).exec.index]? = some (.dwell m)) (hgoal : m * 60 ≤ (s.slot i).exec.dwell + 1) :
    credit i s = dwellEnds i (s.modSlot i (Slot.gained true)) := by
  have hcredited : (s.slot i).credited = true := by simp [Slot.credited, ha, hh]
  have hdwell : s.dwellGoal i = some (m * 60) := by rw [State.dwellGoal, stepAt_eq hplan, hstep]
  unfold credit
  simp only [hcredited, if_true, dwellGoal_modAcc, hdwell]
  simp [State.modAcc, State.modExec, State.modSlot, hw, hgoal, Slot.gained, sat32, Config.top32]

theorem credit_idle {i : Fin 16} {s : State} (hc : (s.slot i).credited = false) : credit i s = s := by
  rw [credit, hc]
  rfl

theorem credit_slot {i : Fin 16} {s : State} (h : (s.slot i).credited = true → s.dwellsOn i) (j : Fin 16) :
    (credit i s).slot j = if j = i ∧ (s.slot i).credited = true then (s.slot j).gained (s.dwellGoal j).isSome else s.slot j := by
  cases hc : (s.slot i).credited with
  | false => rw [credit_idle hc]; simp
  | true =>
    rw [credit_gained hc (h hc)]
    by_cases hj : j = i
    · subst hj; simp
    · rw [slot_modSlot_ne _ _ hj]; simp [hj]

theorem credit_frame {i : Fin 16} {s : State} (h : (s.slot i).credited = true → s.dwellsOn i) :
    credit i s = { s with slots := (credit i s).slots } ∧ Quiet s (credit i s) := by
  cases hc : (s.slot i).credited with
  | false => rw [credit_idle hc]; exact ⟨rfl, .refl s⟩
  | true =>
    rw [credit_gained hc (h hc)]
    exact ⟨rfl, quiet_modSlot s i _ ⟨rfl, rfl, rfl, rfl, rfl, .refl _⟩ rfl⟩

theorem dwellGoal_of_same {s t : State} {i : Fin 16} (hs : t.slot i = s.slot i) (hp : t.plans = s.plans) :
    t.stepAt i = s.stepAt i ∧ t.dwellGoal i = s.dwellGoal i := by
  have hstep : t.stepAt i = s.stepAt i := by
    have hplanAt : t.planAt = s.planAt := funext fun p => by rw [State.planAt, hp]; rfl
    simp only [State.stepAt, State.stepsOf, State.planOf, hplanAt, hs]
  exact ⟨hstep, by rw [State.dwellGoal, State.dwellGoal, hstep]⟩

/-- The seconds of a period, slot by slot, where none completes a DWELL. -/
theorem foldl_credit {l : List (Fin 16)} (hl : l.Nodup) {s : State} (h : ∀ i ∈ l, (s.slot i).credited = true → s.dwellsOn i) :
    (l.foldl (fun t i => credit i t) s = { s with slots := (l.foldl (fun t i => credit i t) s).slots }) ∧
      Quiet s (l.foldl (fun t i => credit i t) s) ∧
      ∀ j, (l.foldl (fun t i => credit i t) s).slot j =
        if j ∈ l ∧ (s.slot j).credited = true then (s.slot j).gained (s.dwellGoal j).isSome else s.slot j := by
  induction l generalizing s with
  | nil => exact ⟨rfl, .refl s, fun j => by simp⟩
  | cons i l ih =>
    obtain ⟨hi, hl⟩ := List.nodup_cons.1 hl
    have hhead := h i (List.mem_cons_self ..)
    obtain ⟨hframe, hquiet⟩ := credit_frame hhead
    have hplans : (credit i s).plans = s.plans := by rw [hframe]
    have hsame (j : Fin 16) (hj : j ≠ i) : (credit i s).slot j = s.slot j := by rw [credit_slot hhead]; simp [hj]
    have hrest : ∀ j ∈ l, ((credit i s).slot j).credited = true → (credit i s).dwellsOn j := by
      intro j hj
      have hne : j ≠ i := fun e => hi (e ▸ hj)
      obtain ⟨hstep, -⟩ := dwellGoal_of_same (hsame j hne) hplans
      unfold State.dwellsOn
      rw [hsame j hne, hstep]
      exact h j (List.mem_cons_of_mem i hj)
    obtain ⟨hframe', hquiet', hslot'⟩ := ih hl hrest
    rw [List.foldl_cons]
    refine ⟨?_, Quiet.trans hquiet hquiet', fun j => ?_⟩
    · rw [hframe', hframe]
    · rw [hslot']
      by_cases hj : j = i
      · subst hj
        rw [if_neg (fun h => hi h.1), credit_slot hhead]
        simp
      · obtain ⟨-, hgoal⟩ := dwellGoal_of_same (hsame j hj) hplans
        rw [hsame j hj, hgoal]
        simp [hj]

/-- The seconds a zone's slots gain in band, where none completes a DWELL. -/
theorem creditZone_slots {z : Fin 4} {s : State} (h : ∀ i, zoneOf i = z → (s.slot i).credited = true → s.dwellsOn i) :
    creditZone z s = { s with slots := (creditZone z s).slots } ∧ Quiet s (creditZone z s) ∧ ∀ j, (creditZone z s).slot j =
      if zoneOf j = z ∧ (s.zone z).inBand = true ∧ (s.slot j).credited = true then (s.slot j).gained (s.dwellGoal j).isSome
      else s.slot j := by
  cases hband : (s.zone z).inBand with
  | false =>
    have hsame : creditZone z s = s := by rw [creditZone, hband]; rfl
    rw [hsame]
    exact ⟨rfl, .refl s, fun j => by simp⟩
  | true =>
    have hfold : creditZone z s = (zoneSlots z).foldl (fun t i => credit i t) s := if_pos hband
    obtain ⟨hframe, hquiet, hslot⟩ := foldl_credit (zoneSlots_nodup z) fun i hi => h i ((mem_zoneSlots i z).1 hi)
    rw [hfold]
    refine ⟨hframe, hquiet, fun j => ?_⟩
    rw [hslot]
    simp only [mem_zoneSlots, true_and]

theorem credited_iff (x : Slot) : x.credited = true ↔ x.state = .active ∧ x.held = false := by
  simp [Slot.credited]

/-! ### The step that follows (R48, R62) -/

/-- A step that does not end at once is all the executor does, also where a pause meets the event (R48, R62). -/
theorem walk_begins {s t : State} {i : Fin 16} {st : Step} {met : Bool} (hs : s.stepAt i = some st)
    (hr : ∀ target count, st ≠ .repeatTo target count) (hb : beginStep met i st s = (t, false)) : walk walkFuel met i s = t := by
  obtain ⟨n, hn⟩ : ∃ n, walkFuel = n + 1 := Nat.exists_eq_succ_of_ne_zero walkFuel_pos.ne'
  rw [hn, walk, hs]
  cases st with
  | repeatTo target count => exact absurd rfl (hr target count)
  | _ => simp only [hb]

/-- The record of a spun drive whose HEALTH step has begun (R48, R52). -/
def Slot.healthBegun (plan : Plan) (now : Nat) (x : Slot) : Slot :=
  { x with
    exec := { x.exec with phase := .working, dwell := 0, timer := none }
    op := { x.op.sending .health now plan.healthTimeout with stage := 0 } }

/-- A HEALTH step of a spun drive begins under no pause (R48, R52). -/
theorem beginStep_health_slot {s : State} {i : Fin 16} {plan : Plan} (hplan : s.planOf i = some plan) (hp : s.paused i = false)
    (hs : (s.slot i).spun = true) :
    beginStep false i .health s = (s.setSlot i ((s.slot i).healthBegun plan s.now), false) := by
  rw [beginStep_health hp hs, issue_planned (plan := plan)
    (by rw [← hplan]; simp [setPhase, State.modExec, State.modSlot, planOf_setSlot, Slot.begun])]
  simp [setPhase, State.modExec, State.modOp, State.modSlot, Slot.begun, Slot.engineBegun, Step.timer, Step.isSweep,
    Step.isWriteSweep, OpUnit.sending, opTimeout, Slot.healthBegun]

/-- A step meets a pause where a HEALTH step would begin (R62). -/
theorem beginStep_met {s : State} {i : Fin 16} {st : Step} (hst : st ≠ .spin) :
    beginStep true i st s = (setPhase i .waiting s, false) := by
  simp [beginStep, hst]

/-- The end of a DWELL in front of a HEALTH step of a spun drive (R48, R56, R62). -/
theorem dwellEnds_health {s : State} {i : Fin 16} {plan : Plan} {x : Slot} (hh : x.held = false)
    (hz : (s.zone (zoneOf i)).state ≠ .fault) (hplan : s.planOf i = some plan) (hspun : x.spun = true) (hkept : x.plan = (s.slot i).plan)
    (hnext : plan.steps[x.exec.index + 1]? = some .health) :
    dwellEnds i (s.setSlot i x) = s.setSlot i (if s.pauseMeets i then
      { x.stepOver with exec := { x.stepOver.exec with phase := .waiting } } else x.stepOver.healthBegun plan s.now) := by
  have hover : (s.setSlot i x).modSlot i Slot.stepOver = s.setSlot i x.stepOver := by simp [State.modSlot]
  have hplan' : (s.setSlot i x.stepOver).planOf i = some plan := (planOf_setSlot (y := x.stepOver) hkept).trans hplan
  have hheld : ((s.setSlot i x.stepOver).slot i).held = false := by rw [slot_setSlot_same]; exact hh
  have hspun' : ((s.setSlot i x.stepOver).slot i).spun = true := by rw [slot_setSlot_same]; exact hspun
  have hstep : (s.setSlot i x.stepOver).stepAt i = some .health := by
    rw [stepAt_eq hplan', slot_setSlot_same]; exact hnext
  have hmeets : (s.setSlot i x).pauseMeets i = s.pauseMeets i := rfl
  rw [dwellEnds, hmeets, hover]
  cases hmet : s.pauseMeets i with
  | true =>
    rw [walk_begins hstep (by simp) (beginStep_met (by simp))]
    simp [setPhase, State.modExec, State.modSlot]
  | false =>
    rw [walk_begins hstep (by simp) (beginStep_health_slot hplan' (paused_eq_false hheld hz) hspun')]
    simp

/-- A slot in ACTIVE behind an evaluation has not been touched by it. -/
theorem admitIfChanged_slot_active {before : List Nat} {s : State} {i : Fin 16}
    (h : ((admitIfChanged before s).slot i).state = .active) : (admitIfChanged before s).slot i = s.slot i := by
  refine (admissionOnly_admitIfChanged before s).slots i fun hwait => ?_
  unfold admitIfChanged at h
  split at h
  · rw [hwait] at h; cases h
  · exact admission_state_ne_active (by rw [hwait]; nofun) h

theorem settled_admitIfChanged {before : List Nat} {s : State} (h : s.commits ≠ before) : Settled (admitIfChanged before s) := by
  rw [admitIfChanged, if_neg h]
  exact settled_admission s

/-! ### The period (R119 to R123) -/

/-- The sensor bus as the end of a zone's read leaves it (R116). -/
def busAfter (z : Fin 4) (b : Bus) : Bus := if b.reading = some z then { b with reading := none } else b

/-- The part as demand and fan of the zone are set, its notice raised (R119 to R121). -/
def heatedState (z : Fin 4) (temp : Int) (miss : Nat) (s : State) : State :=
  { s.setZone z ((s.zone z).heatedAt temp miss) with
    bus := busAfter z s.bus
    line :=
      if (s.zone z).soaksInBand temp && !(s.zone z).stillNoticed then
        s.line.raised z.val (.zoneInBand temp (s.zone z).set.setpoint)
      else s.line }

/-- The allowance the period gives the zone (R34). -/
def heatedAllowance (z : Fin 4) (temp : Int) (miss : Nat) (s : State) : Nat :=
  if ((s.zone z).heatedAt temp miss).demanding then
    min (heatedState z temp miss s).share ((heatedState z temp miss s).room z)
  else 0

section
variable {z : Fin 4} {temp : Int} {miss : Nat} {s : State}

theorem heatedState_zone_same : (heatedState z temp miss s).zone z = (s.zone z).heatedAt temp miss := zone_setZone_same _ _ _

theorem heatedState_zone_ne {y : Fin 4} (hy : y ≠ z) : (heatedState z temp miss s).zone y = s.zone y := zone_setZone_ne _ _ hy

theorem heatedAt_demanding : ((s.zone z).heatedAt temp miss).demanding = decide (0 < (s.zone z).demandAt temp) := by
  have hstate : ((s.zone z).heatedAt temp miss).state = .ramp ∨ ((s.zone z).heatedAt temp miss).state = .soak := by
    by_cases h : (s.zone z).soaks <;> simp [Zone.heatedAt, h]
  rw [Bool.eq_iff_iff, Zone.demanding_iff, decide_eq_true_iff]
  exact and_iff_right hstate

/-- The allowance of R34: the share where the zone demands, within its room. -/
theorem heatedAllowance_eq : heatedAllowance z temp miss s = if (s.zone z).demandAt temp = 0 then 0 else
    min (heaterPoolOf s.power.budget s / (1 + demandersIn ([0, 1, 2, 3].filter fun y => decide (y ≠ z)) s))
      (s.power.budget - s.driveTotal - (([0, 1, 2, 3].filter fun y => decide (y ≠ z)).map fun y => (s.zone y).commit).sum) := by
  have hdemanding := heatedAt_demanding (z := z) (temp := temp) (miss := miss) (s := s)
  by_cases h0 : (s.zone z).demandAt temp = 0
  · rw [heatedAllowance, hdemanding, h0]
    rfl
  · have hpos : ((s.zone z).heatedAt temp miss).demanding = true := by rw [hdemanding]; exact decide_eq_true (Nat.pos_of_ne_zero h0)
    have hshare : (heatedState z temp miss s).share =
        heaterPoolOf s.power.budget s / (1 + demandersIn ([0, 1, 2, 3].filter fun y => decide (y ≠ z)) s) := by
      have hdemanders := demandersIn_setZone s z ((s.zone z).heatedAt temp miss)
      rw [hpos, if_pos rfl] at hdemanders
      rw [share_eq, ← hdemanders]
      rfl
    have hroom : (heatedState z temp miss s).room z =
        s.power.budget - s.driveTotal - (([0, 1, 2, 3].filter fun y => decide (y ≠ z)).map fun y => (s.zone y).commit).sum := by
      have hothers : ((quadIds.filter fun y => decide (y ≠ z)).map fun y => ((heatedState z temp miss s).zone y).commit) =
          ([0, 1, 2, 3].filter fun y => decide (y ≠ z)).map fun y => (s.zone y).commit := by
        refine List.map_congr_left fun y hy => ?_
        rw [heatedState_zone_ne (of_decide_eq_true (List.mem_filter.1 hy).2)]
      rw [State.room, hothers]
      rfl
    rw [heatedAllowance, hpos, if_pos rfl, if_neg h0, hshare, hroom]

variable (hs : (s.zone z).state = .ramp ∨ (s.zone z).state = .soak)
include hs

/-- The notice and the demand, behind the read. -/
theorem heatedState_eq : let noticed := bandNotice z ((afterRead z (some temp) miss s).modZone z fun x => x.ramped.banded)
    noticed.modZone z Zone.driven = heatedState z temp miss s ∧ noticed.commits = s.commits := by
  intro noticed
  have hzone : (afterRead z (some temp) miss s).zone z = (s.zone z).read (some temp) miss := zone_setZone_same _ _ _
  have hnotice := bandNotice_eq (z := z) (s := (afterRead z (some temp) miss s).modZone z fun x => x.ramped.banded)
    (x := s.zone z) (temp := temp) (miss := miss) hs (by rw [zone_modZone_same, hzone])
  have hrecord : noticed.zone z = (s.zone z).noticedAt temp miss := by
    show (bandNotice z _).zone z = _
    rw [hnotice]
    exact zone_setZone_same _ _ _
  constructor
  · rw [State.modZone, hrecord, driven_noticedAt temp miss hs]
    show (bandNotice z _).setZone z _ = _
    rw [hnotice, heatedState, State.modZone, afterRead, setZone_setZone, setZone_setZone]
    simp only [State.setZone, Vector.set_set]
    rfl
  · rw [commits_eq_iff]
    intro y
    show ((bandNotice z _).zone y).commit = _
    rw [hnotice]
    show (((State.setZone _ z _).setZone z _).zone y).commit = _
    rw [afterRead, setZone_setZone, setZone_setZone, zone_setZone]
    split
    · subst_vars
      exact ramped_commit ((s.zone _).read (some temp) miss)
    · rfl

/-- A heated period behind its read: the record, the evaluation where its commitment changed, and the seconds gained. -/
theorem heatedPeriod_eq : heatedPeriod z (afterRead z (some temp) miss s) = creditZone z (admitIfChanged s.commits
    ((heatedState z temp miss s).setZone z (((s.zone z).heatedAt temp miss).applyAllowance (s.power.cost.get z)
      (heatedAllowance z temp miss s)))) := by
  obtain ⟨hdriven, hcommits⟩ := heatedState_eq (temp := temp) (miss := miss) hs
  have hzone := heatedState_zone_same (z := z) (temp := temp) (miss := miss) (s := s)
  unfold heatedPeriod
  simp only [hdriven, hcommits]
  rw [allowZone, hzone]
  rfl

end

end Sys2Proof.Machine
end

section
/-! The statement about the control periods in RAMP and SOAK (O45). -/

namespace Sys2Proof.Proofs

open Sys2Proof Sys2Proof.Machine

/-- Settles O45: a period in RAMP or SOAK is a record, an evaluation and the seconds its slots gain, and a second that completes a
DWELL is a step's end. -/
theorem controlPeriodHeated : Obligations.ControlPeriodHeated := by
  refine ⟨fun z read temp miss s hs hread hdwell => ?_, fun i plan m s ha hh hz hplan hw hspun hstep hgoal hnext => ?_⟩
  · have hread' : (goodRead read = none ∧ some temp = (s.zone z).temp ∧ miss = min 3 ((s.zone z).miss + 1)) ∨
        ∃ t, goodRead read = some t ∧ some temp = some t ∧ miss = 0 := by
      rcases hread with ⟨hnone, htemp, hmiss, rfl⟩ | ⟨hgood, -, hmiss⟩
      · exact .inl ⟨hnone, htemp.symm, by omega⟩
      · exact .inr ⟨temp, hgood, rfl, hmiss⟩
    have hfinds : ((s.zone z).read (some temp) miss).finds (goodRead read) = none := by
      refine finds_none (fun hnone => ?_) fun t ht => ?_
      · rcases hread with ⟨-, -, hmiss, rfl⟩ | ⟨hgood, -, hmiss⟩ <;> omega
      · rcases hread with ⟨hnone, -, -, -⟩ | ⟨hgood, hlimit, -⟩
        · rw [hnone] at ht; cases ht
        · rw [hgood] at ht
          obtain rfl := Option.some.inj ht
          exact hlimit
    intro set goal moved fine soak inBand target demand
    have hperiod := (zonePeriod_heated hread' hfinds hs).trans (heatedPeriod_eq hs)
    let v := (heatedState z temp miss s).setZone z
      (((s.zone z).heatedAt temp miss).applyAllowance (s.power.cost.get z) (heatedAllowance z temp miss s))
    obtain ⟨⟨hpending, hnow, -, hbus, hbudget, hlimit, hcost, hplans, hstaging, hprofiles, hzones, -⟩, hline, hpool, hwork, hlots,
      hslots⟩ := admissionOnly_admitIfChanged s.commits v
    have hzone (y : Fin 4) : (admitIfChanged s.commits v).zone y = v.zone y := admitIfChanged_zone _ _ y
    have hsame : v.zone z = ((s.zone z).heatedAt temp miss).applyAllowance (s.power.cost.get z) (heatedAllowance z temp miss s) :=
      zone_setZone_same _ _ _
    have hdwells : ∀ i, zoneOf i = z → ((admitIfChanged s.commits v).slot i).credited = true →
        (admitIfChanged s.commits v).dwellsOn i := by
      intro i hi hcredited
      have hslot : (admitIfChanged s.commits v).slot i = s.slot i :=
        admitIfChanged_slot_active ((credited_iff _).1 hcredited).1
      unfold State.dwellsOn
      rw [(dwellGoal_of_same hslot hplans).1, hslot]
      exact hdwell i hi
    obtain ⟨hframe, hquiet, hgained⟩ := creditZone_slots hdwells
    have hsettled : v.commits ≠ s.commits → Settled (creditZone z (admitIfChanged s.commits v)) :=
      fun h => settled_quiet hquiet (settled_admitIfChanged h)
    rw [hframe] at hperiod hsettled hgained
    refine ⟨_, congrArg completed hperiod, ⟨heatedAllowance z temp miss s, _, (hzone z).trans hsame, rfl, heatedAllowance_eq⟩,
      fun y hy => (hzone y).trans ?_, hline.trans ?_, hlots, hpool, hwork, hplans, hstaging, hprofiles, hnow, hpending, hbus, ?_,
      fun hchanged => ?_, fun i hi => ?_⟩
    · exact (zone_setZone_ne _ _ hy).trans (zone_setZone_ne _ _ hy)
    · have hcondition := (s.zone z).raises_iff temp
      show (if (s.zone z).soaksInBand temp && !(s.zone z).stillNoticed then _ else _) = _
      rw [hcondition]
      rfl
    · exact power_frame hbudget hlimit hcost
    · refine admission_of_settled (settled_refreshLamps (hsettled fun hsame => hchanged ?_))
      exact (congrArg Zone.commit (hzone z)).trans ((commits_eq_iff s v).1 hsame z)
    · have hslot : (admitIfChanged s.commits v).slot i = s.slot i := hslots i hi
      refine (hgained i).trans ?_
      rw [hslot, (dwellGoal_of_same hslot hplans).2, hzone z, hsame]
      simp only [credited_iff, Slot.gained]
      rfl
  · rw [credit_completes ha hh hplan hw hstep hgoal]
    have hexec : ((s.slot i).gained true).exec = { (s.slot i).exec with dwell := (s.slot i).exec.dwell + 1 } := if_pos ⟨rfl, hw⟩
    refine (dwellEnds_health (x := (s.slot i).gained true) hh hz hplan hspun rfl (by rw [hexec]; exact hnext)).trans ?_
    simp only [Slot.stepOver, Slot.healthBegun, hexec, OpUnit.sending]
    simp [Slot.gained, hw]

end Sys2Proof.Proofs
end

section
/-! SUPPORT. The part right after reset: no slot, zone, plan, profile or lot stands in the way of a law. -/

namespace Sys2Proof.Machine

theorem reset_slot (i : Fin 16) : State.reset.slot i = Slot.reset := by simp [State.slot, State.reset, Vector.get_eq_getElem]

/-- No plan is loaded or staged, and no profile loaded, in the part right after reset (R63, R145). -/
theorem reset_stores (p : Fin 4) :
    State.reset.planAt p = none ∧ State.reset.stagingAt p = none ∧ State.reset.profileAt p = none := by
  simp [State.planAt, State.stagingAt, State.profileAt, State.reset, Vector.get_eq_getElem]

theorem storeLaw_reset : StoreLaw State.reset := by
  refine ⟨fun p x h => ?_, fun p x h => ?_, fun p x h => ?_⟩
  · cases (reset_stores p).1.symm.trans h
  · cases (reset_stores p).2.1.symm.trans h
  · cases (reset_stores p).2.2.symm.trans h

theorem powerLaw_reset : PowerLaw State.reset := by
  refine powerLaw_of_no_power (fun i => by rw [reset_slot]; rfl) rfl (fun p x h => ?_) fun p x h => ?_
  · cases (reset_stores p).1.symm.trans h
  · cases (reset_stores p).2.1.symm.trans h

theorem recordLaw_reset : RecordLaw State.reset :=
  ⟨fun i => by rw [reset_slot]; exact sound_empty rfl rfl rfl rfl, nofun⟩

/-- No lot is held, so the laws of lots ask nothing but of the counter of numbers (R146). -/
theorem lotLaw_reset : LotLaw State.reset where
  manifest := Nat.zero_le _
  numbers := .nil
  keys := .nil
  range := ⟨by decide, by decide, nofun⟩
  held := nofun
  opens := nofun
  capacity p f h := by cases (reset_stores p).2.2.symm.trans h

theorem lotWaitLaw_reset : LotWaitLaw State.reset where
  once := .nil
  states i := by rw [reset_slot]; exact ⟨nofun, nofun⟩
  behind := nofun
  full h := absurd rfl h

theorem serialLaw_reset : SerialLaw State.reset where
  slots i j _ h := by rw [reset_slot] at h; cases h
  members := .nil
  same _ := nofun

end Sys2Proof.Machine
end

section
/-! The statement about the part right after reset (O26). -/

namespace Sys2Proof.Proofs

open Sys2Proof Sys2Proof.Machine

/-- Settles O26, law by law. -/
theorem resetKeepsTheLaws : Obligations.ResetKeepsTheLaws :=
  ⟨bufferLaw_of_no_hand rfl fun i => by rw [reset_slot]; rfl, ⟨Nat.zero_le _, .nil, nofun⟩, powerLaw_reset, recordLaw_reset,
    zoneLaw_frame (s := powerOn 0#5 .first State.reset) rfl rfl (zoneLaw_powerOn 0#5 .first State.reset), lotLaw_reset,
    storeLaw_reset, lotWaitLaw_reset, serialLaw_reset⟩

end Sys2Proof.Proofs
end

section
/-! SUPPORT. Fields of a body read back where they stand (R180), and the bytes of a profile (R129, R130, R188). -/

namespace Sys2Proof.Machine

/-! ### Fields where they stand -/

theorem fieldAt_drop (l : List Byte) (m n k : Nat) : fieldAt (l.drop m) n k = fieldAt l (m + n) k := by
  rw [fieldAt, fieldAt, List.drop_drop]

/-- A field behind the first part of a body. -/
theorem fieldAt_append_right {a b : List Byte} {n k : Nat} (h : a.length ≤ n) :
    fieldAt (a ++ b) n k = fieldAt b (n - a.length) k := by
  rw [fieldAt, fieldAt, List.drop_append, List.drop_eq_nil_of_le h, List.nil_append]

/-- A field within the first part of a body. -/
theorem fieldAt_append_left {a b : List Byte} {n k : Nat} (h : n + k ≤ a.length) : fieldAt (a ++ b) n k = fieldAt a n k := by
  rw [fieldAt, fieldAt, List.drop_append_of_le_length (by omega), List.take_append_of_le_length (by simp; omega)]

theorem fieldAt_of_le (k n : Nat) : fieldAt (le k n) 0 k = n % 256 ^ k := by
  rw [fieldAt, List.drop_zero, List.take_of_length_le (le_length k n).le, ofLe_le]

theorem fieldAt_byte (n : Nat) : fieldAt (byte n) 0 1 = n % 256 := fieldAt_of_le 1 n

theorem quadNo?_mod (p : Fin 4) : quadNo? (p.val % 256) = some p := by
  rw [Nat.mod_eq_of_lt (by omega), quadNo?_val]

theorem yesNo?_eq_none {n : Nat} : yesNo? n = none ↔ 1 < n := by
  match n with
  | 0 | 1 => simp [yesNo?]
  | n + 2 => simp [yesNo?]

theorem yesNo?_of_le {n : Nat} (h : n ≤ 1) : yesNo? n = some (decide (n = 1)) := by
  interval_cases n <;> rfl

/-! ### The bin entries (R130, R188) -/

/-- The bin entry a body holds from the offset `k` on, its limits clamped (R130). -/
def binAt (f : List Byte) (k : Nat) : Option BinEntry :=
  if fieldAt f k 1 = 1 then
    some { dmax := min 8608800 (fieldAt f (k + 1) 4), umax := min 4095 (fieldAt f (k + 5) 2), wmax := min 4095 (fieldAt f (k + 7) 2) }
  else none

theorem binEntry?_none {f : List Byte} {k : Nat} (h : 1 < fieldAt f k 1) : binEntry? (f.drop k) = none := by
  have hmark : yesNo? (fieldAt (f.drop k) 0 1) = none := by rw [fieldAt_drop, Nat.add_zero]; exact yesNo?_eq_none.2 h
  rw [binEntry?, hmark]
  rfl

theorem binEntry?_some {f : List Byte} {k : Nat} (h : fieldAt f k 1 ≤ 1) : binEntry? (f.drop k) = some (binAt f k) := by
  have hmark : yesNo? (fieldAt (f.drop k) 0 1) = some (decide (fieldAt f k 1 = 1)) := by
    rw [fieldAt_drop, Nat.add_zero, yesNo?_of_le h]
  rw [binEntry?, hmark]
  simp [binAt, fieldAt_drop, clamp]

theorem binField_length (e : Option BinEntry) : (binField e).length = 9 := by
  cases e <;> simp [binField, le_length]

/-- A bin entry in range is read back behind what stands before it. -/
theorem binAt_binField {pre rest : List Byte} {e : Option BinEntry} {k : Nat} (hk : pre.length = k)
    (h : ∀ x, e = some x → x.dmax ≤ 8608800 ∧ x.umax ≤ 4095 ∧ x.wmax ≤ 4095) :
    fieldAt (pre ++ (binField e ++ rest)) k 1 ≤ 1 ∧ binAt (pre ++ (binField e ++ rest)) k = e := by
  have hread (n m : Nat) (hn : n + m ≤ 9) : fieldAt (pre ++ (binField e ++ rest)) (k + n) m = fieldAt (binField e) n m := by
    rw [fieldAt_append_right (by omega), fieldAt_append_left (by rw [binField_length]; omega)]
    congr 1
    omega
  rw [binAt, hread 1 4 (by omega), hread 5 2 (by omega), hread 7 2 (by omega), ← Nat.add_zero k, hread 0 1 (by omega)]
  cases e with
  | none => exact ⟨by decide, rfl⟩
  | some x =>
    obtain ⟨hd, hu, hw⟩ := h x rfl
    simp only [binField, fieldAt_head, fieldAt_cons]
    simp [fieldAt_append_right, fieldAt_append_left, fieldAt_of_le, le_length]
    obtain ⟨d, u, w⟩ := x
    simp only [BinEntry.mk.injEq] at hd hu hw ⊢
    omega

/-! ### The profile (R129, R130, R188) -/

/-- The profile a body of 52 bytes stands for, its fields clamped (R130). -/
def profileAt (f : List Byte) : Profile :=
  { weights :=
      { u := fieldAt f 1 1, k := fieldAt f 2 1, m := fieldAt f 3 1, w := fieldAt f 4 1, r := fieldAt f 5 1
        p := fieldAt f 6 1, e := fieldAt f 7 1, l := fieldAt f 8 1, s := fieldAt f 9 1 }
    nominalRate := max 1 (min 1000000 (fieldAt f 10 4)), lotCapacity := max 1 (min 48 (fieldAt f 14 1))
    retestLimit := min 3 (fieldAt f 15 1), binA := binAt f 16, binB := binAt f 25, binC := binAt f 34, binD := binAt f 43 }

theorem profile?_ok {f : List Byte} (h : ∀ k : Fin 4, fieldAt f (16 + 9 * k.val) 1 ≤ 1) : profile? f = .ok (profileAt f) := by
  have ha : binEntry? (f.drop 16) = _ := binEntry?_some (h 0)
  have hb : binEntry? (f.drop 25) = _ := binEntry?_some (h 1)
  have hc : binEntry? (f.drop 34) = _ := binEntry?_some (h 2)
  have hd : binEntry? (f.drop 43) = _ := binEntry?_some (h 3)
  rw [profile?, ha, hb, hc, hd]
  simp [profileAt, clamp]

/-- The first bin entry whose mark is neither yes nor no is named (R130). -/
theorem profile?_error {f : List Byte} {k : Fin 4} (hk : 1 < fieldAt f (16 + 9 * k.val) 1)
    (h : ∀ j : Fin 4, j < k → fieldAt f (16 + 9 * j.val) 1 ≤ 1) : profile? f = .error (13 + k.val) := by
  have hnone : binEntry? (f.drop (16 + 9 * k.val)) = none := binEntry?_none hk
  have hsome (j : Fin 4) (hj : j < k) : binEntry? (f.drop (16 + 9 * j.val)) = _ := binEntry?_some (h j hj)
  match k with
  | 0 => rw [profile?, show binEntry? (f.drop 16) = _ from hnone]; rfl
  | 1 => rw [profile?, show binEntry? (f.drop 16) = _ from hsome 0 (by decide), show binEntry? (f.drop 25) = _ from hnone]; rfl
  | 2 =>
    rw [profile?, show binEntry? (f.drop 16) = _ from hsome 0 (by decide), show binEntry? (f.drop 25) = _ from hsome 1 (by decide),
      show binEntry? (f.drop 34) = _ from hnone]
    rfl
  | 3 =>
    rw [profile?, show binEntry? (f.drop 16) = _ from hsome 0 (by decide), show binEntry? (f.drop 25) = _ from hsome 1 (by decide),
      show binEntry? (f.drop 34) = _ from hsome 2 (by decide), show binEntry? (f.drop 43) = _ from hnone]
    rfl

/-- The bytes of a profile in front of its bin entries. -/
def Profile.frontBytes (id : Fin 4) (f : Profile) : List Byte :=
  byte id.val ++ [f.weights.u, f.weights.k, f.weights.m, f.weights.w, f.weights.r, f.weights.p, f.weights.e, f.weights.l,
    f.weights.s].flatMap byte ++ le 4 f.nominalRate ++ byte f.lotCapacity ++ byte f.retestLimit

theorem frontBytes_length (id : Fin 4) (f : Profile) : (f.frontBytes id).length = 16 := by
  simp [Profile.frontBytes, byte_length, le_length]

theorem profile_bytes (id : Fin 4) (f : Profile) :
    f.bytes id = f.frontBytes id ++ (binField f.binA ++ (binField f.binB ++ (binField f.binC ++ binField f.binD))) := by
  simp [Profile.bytes, Profile.frontBytes]

theorem profile_bytes_length (id : Fin 4) (f : Profile) : (f.bytes id).length = 52 := by
  simp [profile_bytes, frontBytes_length, binField_length]

theorem profile_bytes_id (id : Fin 4) (f : Profile) : quadNo? (fieldAt (f.bytes id) 0 1) = some id := by
  rw [profile_bytes, fieldAt_append_left (by rw [frontBytes_length]; omega)]
  simp [Profile.frontBytes, fieldAt_append_left, fieldAt_byte, byte_length, quadNo?_mod]

/-- The bin entries of a profile in range are read back (R129, R188). -/
theorem profile_bins {id : Fin 4} {f : Profile} (h : f.Sound) :
    (∀ k : Fin 4, fieldAt (f.bytes id) (16 + 9 * k.val) 1 ≤ 1) ∧ binAt (f.bytes id) 16 = f.binA ∧ binAt (f.bytes id) 25 = f.binB ∧
      binAt (f.bytes id) 34 = f.binC ∧ binAt (f.bytes id) 43 = f.binD := by
  have hfront := frontBytes_length id f
  obtain ⟨ha, ha'⟩ := binAt_binField (pre := f.frontBytes id) (rest := binField f.binB ++ (binField f.binC ++ binField f.binD))
    hfront fun x hx => h.bins .A x hx
  obtain ⟨hb, hb'⟩ := binAt_binField (pre := f.frontBytes id ++ binField f.binA) (rest := binField f.binC ++ binField f.binD)
    (k := 25) (by simp [hfront, binField_length]) fun x hx => h.bins .B x hx
  obtain ⟨hc, hc'⟩ := binAt_binField (pre := f.frontBytes id ++ (binField f.binA ++ binField f.binB)) (rest := binField f.binD)
    (k := 34) (by simp [hfront, binField_length]) fun x hx => h.bins .C x hx
  obtain ⟨hd, hd'⟩ := binAt_binField (pre := f.frontBytes id ++ (binField f.binA ++ (binField f.binB ++ binField f.binC)))
    (rest := []) (k := 43) (by simp [hfront, binField_length]) fun x hx => h.bins .D x hx
  simp only [List.append_assoc, List.append_nil] at hb hb' hc hc' hd hd'
  simp only [profile_bytes]
  refine ⟨fun k => ?_, ha', hb', hc', hd'⟩
  match k with
  | 0 => exact ha
  | 1 => exact hb
  | 2 => exact hc
  | 3 => exact hd

/-- A profile in range is read back from its bytes (R129, R188). -/
theorem profileAt_bytes {id : Fin 4} {f : Profile} (h : f.Sound) : profileAt (f.bytes id) = f := by
  obtain ⟨-, ha, hb, hc, hd⟩ := profile_bins (id := id) h
  have hread (n k : Nat) (hn : n + k ≤ 16) : fieldAt (f.bytes id) n k = fieldAt (f.frontBytes id) n k := by
    rw [profile_bytes, fieldAt_append_left (by rw [frontBytes_length]; omega)]
  have hweights := h.weights
  obtain ⟨-, hrate, hcapacity, hretests, -⟩ := h
  rw [profileAt, ha, hb, hc, hd]
  obtain ⟨⟨wu, wk, wm, ww, wr, wp, we, wl, ws⟩, rate, capacity, retests, a, b, c, d⟩ := f
  dsimp only at hrate hcapacity hretests
  simp only [List.forall_mem_cons] at hweights
  simp only [hread, Nat.reduceAdd, Nat.reduceLeDiff]
  simp only [Profile.frontBytes, List.flatMap_cons, List.flatMap_nil, List.append_assoc]
  simp [fieldAt_append_right, fieldAt_append_left, fieldAt_of_le, fieldAt_byte, byte_length, le_length]
  omega

/-! ### PROFILE LOAD (R130, R131) -/

section
variable {id : Fin 4} {f : List Byte} {s : State} (hid : quadNo? (fieldAt f 0 1) = some id) (hlen : f.length = 52)
include hid hlen

theorem profileLoad_error {n : Nat} (h : profile? f = .error n) : profileLoad f s = refused s (.badArgument n) := by
  simp only [profileLoad, hid, hlen, h, profileBytes]
  rfl

theorem profileLoad_inUse {x : Profile} (h : profile? f = .ok x) (hused : s.profileInUse id = true) :
    profileLoad f s = refused s .inUse := by
  simp only [profileLoad, hid, hlen, h, profileBytes, hused]
  rfl

theorem profileLoad_installs {x : Profile} (h : profile? f = .ok x) (hfree : s.profileInUse id = false) :
    profileLoad f s = (s.setProfile id (some x), Reply.ok (x.bytes id)) := by
  simp only [profileLoad, hid, hlen, h, profileBytes, hfree]
  rfl

end

/-- A profile is in use while a run or a lot of it goes on (R131). -/
theorem profileInUse_iff (s : State) (p : Fin 4) : s.profileInUse p = true ↔
    (∃ i, (s.slot i).profile = some p ∧ (s.slot i).state.inUse = true) ∨ ∃ x ∈ s.lots.opens ++ s.lots.full, x.profile = p := by
  simp only [State.profileInUse, Bool.or_eq_true, List.any_eq_true, Bool.and_eq_true, decide_eq_true_eq]
  exact or_congr_left ⟨fun ⟨i, _, h⟩ => ⟨i, h⟩, fun ⟨i, h⟩ => ⟨i, mem_slotIds i, h⟩⟩

theorem profileInUse_of_used {s : State} {p : Fin 4}
    (h : (∃ i, (s.slot i).profile = some p ∧
        (s.slot i).state ∈ [SlotState.waitPower, .spinning, .active, .recovering, .cycling, .lotWait]) ∨
      ∃ x ∈ s.lots.opens ++ s.lots.full, x.profile = p) : s.profileInUse p = true :=
  (profileInUse_iff s p).2 (h.imp_left fun ⟨i, hp, hs⟩ => ⟨i, hp, Proofs.inUse_of_mem hs⟩)

theorem profileInUse_of_free {s : State} {p : Fin 4}
    (hslots : ∀ i : Fin 16, (s.slot i).profile = some p → (s.slot i).state ∈ [SlotState.empty, .seated, .done, .faulted])
    (hlots : ∀ x ∈ s.lots.opens ++ s.lots.full, x.profile ≠ p) : s.profileInUse p = false := by
  rw [Bool.eq_false_iff]
  intro h
  rcases (profileInUse_iff s p).1 h with ⟨i, hp, hs⟩ | ⟨x, hx, hp⟩
  · rw [Proofs.not_inUse_of_mem (hslots i hp)] at hs; cases hs
  · exact hlots x hx hp

end Sys2Proof.Machine
end

section
/-! The statement about the loading of profiles (O39). -/

namespace Sys2Proof.Proofs

open Sys2Proof Sys2Proof.Machine

/-- Settles O39: the bytes of a profile in range are read back as it, and any 52 bytes are read as a profile in range or refused by the
first check they fail. -/
theorem profileInstalledAsSent : Obligations.ProfileInstalledAsSent := by
  refine ⟨fun id f r s hd hsound hf => ⟨profile_bytes_length id f, ?_⟩, fun r s hd hlen => ?_⟩
  · have hid : quadNo? (fieldAt r.fields 0 1) = some id := by rw [hf, profile_bytes_id]
    have hlen : r.fields.length = 52 := by rw [hf, profile_bytes_length]
    have hread : profile? r.fields = .ok f := by rw [hf, profile?_ok (profile_bins hsound).1, profileAt_bytes hsound]
    refine ⟨fun hslots hlots => ?_, fun hused => ?_⟩
    · refine ⟨_, answers_taken rfl hd (fun _ => rfl)
        (profileLoad_installs (s := s.hunting) hid hlen hread (profileInUse_of_free hslots hlots)), ?_, fun p hp => ?_, rfl⟩
      · rw [profileAt_setProfile, if_pos rfl]
      · exact (profileAt_setProfile ..).trans (if_neg hp)
    · exact answers_unchanged rfl hd (profileLoad_inUse (s := s.hunting) hid hlen hread (profileInUse_of_used hused))
  · refine ⟨fun hid => answers_unchanged rfl hd ?_, fun hid hne => answers_unchanged rfl hd ?_,
      fun hid hlen' k hk hj => answers_unchanged rfl hd ?_, fun id hid hlen' hmarks hslots hlots => ?_⟩
    · rw [profileLoad, if_neg (by omega), quadNo?_of_le hid]
      rfl
    · rw [profileLoad, if_neg (by omega), quadNo?_of_lt hid]
      exact if_pos hne
    · exact profileLoad_error (quadNo?_of_lt hid) hlen' (profile?_error hk hj)
    · refine ⟨_, _, answers_taken rfl hd (fun _ => rfl) (profileLoad_installs (s := s.hunting) (by rw [hid, quadNo?_val]) hlen'
        (profile?_ok hmarks) (profileInUse_of_free hslots hlots)), ?_, rfl, rfl⟩
      rw [profileAt_setProfile, if_pos rfl]

end Sys2Proof.Proofs
end

section
/-! SUPPORT. The bytes of plan headers and steps read back (R180 to R186), and the checks of a part (R43). -/

namespace Sys2Proof.Machine

/-! ### Named values (R184) -/

theorem Direction.ofNat?_code (x : Direction) : Direction.ofNat? x.code.toNat = some x := by cases x <;> rfl

theorem Pacing.ofNat?_code (x : Pacing) : Pacing.ofNat? x.code.toNat = some x := by cases x <;> rfl

theorem Pattern.ofNat?_code (x : Pattern) : Pattern.ofNat? x.code.toNat = some x := by cases x <;> rfl

theorem yesNo?_toNat (b : Bool) : yesNo? b.toNat = some b := by cases b <;> rfl

theorem Direction.ofNat?_of_lt {n : Nat} (h : 3 < n) : Direction.ofNat? n = none := by
  obtain ⟨k, rfl⟩ := Nat.exists_eq_add_of_lt h
  rw [Nat.add_comm 3, Nat.add_right_comm]
  rfl

theorem Pacing.ofNat?_of_lt {n : Nat} (h : 1 < n) : Pacing.ofNat? n = none := by
  obtain ⟨k, rfl⟩ := Nat.exists_eq_add_of_lt h
  rw [Nat.add_comm 1, Nat.add_right_comm]
  rfl

theorem Pattern.ofNat?_of_lt {n : Nat} (h : 3 < n) : Pattern.ofNat? n = none := by
  obtain ⟨k, rfl⟩ := Nat.exists_eq_add_of_lt h
  rw [Nat.add_comm 3, Nat.add_right_comm]
  rfl

/-! ### Step entries (R44, R186) -/

/-- The fields of a WRITE SWEEP or READ SWEEP entry, its numbers clamped (R44). -/
def sweepAt (e : List Byte) (direction : Direction) (pacing : Pacing) (pattern : Pattern) (continuous : Bool) : SweepFields :=
  { start := min 1000 (fieldAt e 1 2), stop := min 1000 (fieldAt e 3 2), chunk := max 1 (min 128 (fieldAt e 5 1))
    direction := direction, pacing := pacing, interval := max 1 (min 1000 (fieldAt e 8 2)), pattern := pattern
    continuous := continuous, timeLimit := min 604800 (fieldAt e 13 3) }

/-- The fields of a SEEK SWEEP entry, its numbers clamped (R44). -/
def seekAt (e : List Byte) (pacing : Pacing) : SeekFields :=
  { start := min 1000 (fieldAt e 1 2), stop := min 1000 (fieldAt e 3 2), count := max 1 (min 1000000 (fieldAt e 5 4))
    limit := max 1 (min 1000 (fieldAt e 9 2)), pacing := pacing, interval := max 1 (min 1000 (fieldAt e 12 2)) }

theorem sweepFields?_eq {e : List Byte} {direction : Direction} {pacing : Pacing} {pattern : Pattern} {continuous : Bool}
    (hd : fieldAt e 6 1 = direction.code.toNat) (hp : fieldAt e 7 1 = pacing.code.toNat) (hx : fieldAt e 10 1 = pattern.code.toNat)
    (hc : fieldAt e 11 1 = continuous.toNat) : sweepFields? e = some (sweepAt e direction pacing pattern continuous) := by
  simp [sweepFields?, hd, hp, hx, hc, Direction.ofNat?_code, Pacing.ofNat?_code, Pattern.ofNat?_code, yesNo?_toNat, sweepAt, clamp]

theorem seekFields?_eq {e : List Byte} {pacing : Pacing} (hp : fieldAt e 11 1 = pacing.code.toNat) :
    seekFields? e = some (seekAt e pacing) := by
  simp [seekFields?, hp, Pacing.ofNat?_code, seekAt, clamp]

/-- A named value out of its codes leaves no sweep. -/
theorem sweepFields?_none {e : List Byte}
    (h : 3 < fieldAt e 6 1 ∨ 1 < fieldAt e 7 1 ∨ 3 < fieldAt e 10 1 ∨ 1 < fieldAt e 11 1) : sweepFields? e = none := by
  unfold sweepFields?
  split
  · rename_i hd hp hx hc
    rcases h with h | h | h | h
    · rw [Direction.ofNat?_of_lt h] at hd; cases hd
    · rw [Pacing.ofNat?_of_lt h] at hp; cases hp
    · rw [Pattern.ofNat?_of_lt h] at hx; cases hx
    · rw [yesNo?_eq_none.2 h] at hc; cases hc
  · rfl

/-- An entry of no known kind or named value is refused (R43 check 5). -/
theorem step?_none {e : List Byte} (h : fieldAt e 0 1 = 0 ∨ 9 < fieldAt e 0 1 ∨
    ((fieldAt e 0 1 = 4 ∨ fieldAt e 0 1 = 5) ∧ (3 < fieldAt e 6 1 ∨ 1 < fieldAt e 7 1 ∨ 3 < fieldAt e 10 1 ∨ 1 < fieldAt e 11 1)) ∨
    (fieldAt e 0 1 = 5 ∧ 1 < fieldAt e 12 1) ∨ (fieldAt e 0 1 = 6 ∧ 1 < fieldAt e 11 1)) : step? e = none := by
  rcases h with h | h | ⟨h | h, hbad⟩ | ⟨h, hbad⟩ | ⟨h, hbad⟩
  · rw [step?, h]
    rfl
  · obtain ⟨k, hk⟩ := Nat.exists_eq_add_of_lt h
    rw [step?, show fieldAt e 0 1 = k + 10 by omega]
    rfl
  · rw [step?, h]
    simp [sweepFields?_none hbad]
  · rw [step?, h]
    simp [sweepFields?_none hbad]
  · rw [step?, h]
    simp [yesNo?_eq_none.2 hbad]
  · rw [step?, h]
    simp [seekFields?, Pacing.ofNat?_of_lt hbad]

theorem Step.bytes_length (st : Step) : st.bytes.length = 16 := by
  cases st <;> exact padTo_length _ _

/-- A field within what has been filled up. -/
theorem fieldAt_padTo {l : List Byte} {m n k : Nat} (hn : n + k ≤ l.length) (hl : l.length ≤ m) :
    fieldAt (padTo m l) n k = fieldAt l n k := by
  rw [padTo, List.take_of_length_le hl, fieldAt_append_left hn]

theorem fieldAt_yesNo (b : Bool) : fieldAt (yesNo b) 0 1 = b.toNat := by cases b <;> rfl

theorem sweepBytes_length (f : SweepFields) (verify : Bool) : (f.bytes verify).length = 15 := by
  simp [SweepFields.bytes, le_length, byte_length, yesNo_length]

theorem seekBytes_length (f : SeekFields) : f.bytes.length = 13 := by
  simp [SeekFields.bytes, le_length]

/-- The fields of a WRITE SWEEP or READ SWEEP entry behind its kind (R186). -/
theorem sweepBytes_fields (f : SweepFields) (verify : Bool) :
    fieldAt (f.bytes verify) 0 2 = f.start % 65536 ∧ fieldAt (f.bytes verify) 2 2 = f.stop % 65536 ∧
      fieldAt (f.bytes verify) 4 1 = f.chunk % 256 ∧ fieldAt (f.bytes verify) 5 1 = f.direction.code.toNat ∧
      fieldAt (f.bytes verify) 6 1 = f.pacing.code.toNat ∧ fieldAt (f.bytes verify) 7 2 = f.interval % 65536 ∧
      fieldAt (f.bytes verify) 9 1 = f.pattern.code.toNat ∧ fieldAt (f.bytes verify) 10 1 = f.continuous.toNat ∧
      fieldAt (f.bytes verify) 11 1 = verify.toNat ∧ fieldAt (f.bytes verify) 12 3 = f.timeLimit % 16777216 := by
  simp only [SweepFields.bytes, List.append_assoc]
  simp [fieldAt_append_right, fieldAt_append_left, fieldAt_of_le, fieldAt_byte, fieldAt_head, fieldAt_cons, fieldAt_yesNo,
    byte_length, le_length, yesNo_length]

/-- The fields of a SEEK SWEEP entry behind its kind (R186). -/
theorem seekBytes_fields (f : SeekFields) :
    fieldAt f.bytes 0 2 = f.start % 65536 ∧ fieldAt f.bytes 2 2 = f.stop % 65536 ∧ fieldAt f.bytes 4 4 = f.count % 4294967296 ∧
      fieldAt f.bytes 8 2 = f.limit % 65536 ∧ fieldAt f.bytes 10 1 = f.pacing.code.toNat ∧
      fieldAt f.bytes 11 2 = f.interval % 65536 := by
  simp only [SeekFields.bytes, List.append_assoc]
  simp [fieldAt_append_right, fieldAt_append_left, fieldAt_of_le, fieldAt_head, fieldAt_cons, le_length]

/-- The fields of an entry lie behind its kind. -/
theorem fieldAt_entry {c : Byte} {l : List Byte} (hl : l.length ≤ 15) :
    fieldAt (padTo 16 (c :: l)) 0 1 = c.toNat ∧ ∀ n k, n + k ≤ l.length → fieldAt (padTo 16 (c :: l)) (n + 1) k = fieldAt l n k := by
  refine ⟨?_, fun n k hn => ?_⟩
  · rw [fieldAt_padTo (by simp) (by simp; omega), fieldAt_head]
  · rw [fieldAt_padTo (by simp; omega) (by simp; omega), fieldAt_cons]

/-- A WRITE SWEEP or READ SWEEP entry in range is read back. -/
theorem sweepFields?_bytes {f : SweepFields} {verify : Bool} {c : Byte} (h : f.Sound) :
    sweepFields? (padTo 16 (c :: f.bytes verify)) = some f ∧ fieldAt (padTo 16 (c :: f.bytes verify)) 0 1 = c.toNat ∧
      fieldAt (padTo 16 (c :: f.bytes verify)) 12 1 = verify.toNat := by
  have hlen := sweepBytes_length f verify
  obtain ⟨hkind, hread⟩ := fieldAt_entry (c := c) hlen.le
  obtain ⟨hstart, hstop, hchunk, hdirection, hpacing, hinterval, hpattern, hcontinuous, hverify, hlimit⟩ := sweepBytes_fields f verify
  rw [hlen] at hread
  rw [← hread _ _ (by omega)] at hstart hstop hchunk hdirection hpacing hinterval hpattern hcontinuous hverify hlimit
  refine ⟨?_, hkind, hverify⟩
  rw [sweepFields?_eq hdirection hpacing hpattern hcontinuous, sweepAt, hstart, hstop, hchunk, hinterval, hlimit]
  obtain ⟨hstart, hstop, hchunk, hinterval, hlimit⟩ := h
  cases f
  simp only [Option.some.injEq, SweepFields.mk.injEq, true_and] at *
  omega

/-- A SEEK SWEEP entry in range is read back. -/
theorem seekFields?_bytes {f : SeekFields} {c : Byte} (h : f.Sound) :
    seekFields? (padTo 16 (c :: f.bytes)) = some f ∧ fieldAt (padTo 16 (c :: f.bytes)) 0 1 = c.toNat := by
  have hlen := seekBytes_length f
  obtain ⟨hkind, hread⟩ := fieldAt_entry (c := c) (hlen.le.trans (by omega : 13 ≤ 15))
  obtain ⟨hstart, hstop, hcount, hlimit, hpacing, hinterval⟩ := seekBytes_fields f
  rw [hlen] at hread
  rw [← hread _ _ (by omega)] at hstart hstop hcount hlimit hpacing hinterval
  refine ⟨?_, hkind⟩
  rw [seekFields?_eq hpacing, seekAt, hstart, hstop, hcount, hlimit, hinterval]
  obtain ⟨hstart, hstop, hcount, hlimit, hinterval⟩ := h
  cases f
  simp only [Option.some.injEq, SeekFields.mk.injEq, true_and] at *
  omega

/-- A step in range is read back from its entry (R44, R186). -/
theorem step?_bytes {st : Step} (h : st.Sound) : step? st.bytes = some st := by
  cases st with
  | spin | ident | health | standby => rfl
  | writeSweep f =>
    obtain ⟨hfields, hkind, -⟩ := sweepFields?_bytes (c := 4#8) (verify := false) h
    rw [Step.bytes, step?, hkind]
    simp [hfields]
  | readSweep f verify =>
    obtain ⟨hfields, hkind, hverify⟩ := sweepFields?_bytes (c := 5#8) (verify := verify) h
    rw [Step.bytes, step?, hkind]
    simp [hfields, hverify, yesNo?_toNat]
  | seekSweep f =>
    obtain ⟨hfields, hkind⟩ := seekFields?_bytes (c := 6#8) h
    rw [Step.bytes, step?, hkind]
    simp [hfields]
  | dwell minutes =>
    have hkind : fieldAt (Step.dwell minutes).bytes 0 1 = 7 := rfl
    have hminutes : fieldAt (Step.dwell minutes).bytes 1 2 = minutes % 65536 := by
      rw [Step.bytes, fieldAt_padTo (by simp [le_length]) (by simp [le_length])]
      exact fieldAt_of_le 2 minutes
    obtain ⟨hlo, hhi⟩ := h
    rw [step?, hkind]
    simp only [hminutes, clamp]
    congr 2
    omega
  | repeatTo target count =>
    have hkind : fieldAt (Step.repeatTo target count).bytes 0 1 = 9 := rfl
    have htarget : fieldAt (Step.repeatTo target count).bytes 1 1 = target % 256 := by
      rw [Step.bytes, fieldAt_padTo (by simp [byte_length]) (by simp [byte_length]), fieldAt_cons,
        fieldAt_append_left (by simp [byte_length]), fieldAt_byte]
    have hcount : fieldAt (Step.repeatTo target count).bytes 2 1 = count % 256 := by
      rw [Step.bytes, fieldAt_padTo (by simp [byte_length]) (by simp [byte_length]), fieldAt_cons,
        fieldAt_append_right (by simp [byte_length]), byte_length, fieldAt_byte]
    obtain ⟨htop, hlo, hhi⟩ := h
    rw [step?, hkind]
    simp only [htarget, hcount, clamp]
    congr 2 <;> omega

/-- Entries in range are read back, and what follows them is read from the place behind them. -/
theorem steps?_append {before : List Step} (h : ∀ st ∈ before, st.Sound) (n : Nat) (rest : List Byte) (place : Nat) :
    steps? (before.length + n) (before.flatMap Step.bytes ++ rest) place =
      (steps? n rest (place + before.length)).map (before ++ ·) := by
  induction before generalizing place with
  | nil => simp [Except.map]; split <;> simp_all
  | cons st before ih =>
    have hst := step?_bytes (h st (List.mem_cons_self ..))
    have hrest := ih (fun x hx => h x (List.mem_cons_of_mem st hx)) (place + 1)
    rw [show (st :: before).length + n = (before.length + n) + 1 by simp; omega]
    simp only [steps?, List.flatMap_cons, List.append_assoc]
    rw [List.take_append_of_le_length (Step.bytes_length st).ge, List.take_of_length_le (Step.bytes_length st).le,
      List.drop_append_of_le_length (Step.bytes_length st).ge, List.drop_eq_nil_of_le (Step.bytes_length st).le, hst]
    simp only [List.nil_append, hrest]
    rw [show place + (st :: before).length = place + 1 + before.length by simp; omega]
    cases steps? n rest (place + 1 + before.length) <;> rfl

theorem steps?_bytes {steps : List Step} (h : ∀ st ∈ steps, st.Sound) (place : Nat) :
    steps? steps.length (steps.flatMap Step.bytes) place = .ok steps := by
  have hall := steps?_append h 0 [] place
  rw [List.append_nil] at hall
  rw [Nat.add_zero] at hall
  rw [hall]
  simp [steps?, Except.map]

/-- The first entry that is no step in range is named by its place (R43 check 5). -/
theorem steps?_error {before : List Step} (h : ∀ st ∈ before, st.Sound) {e rest : List Byte} (he : e.length = 16)
    (hbad : step? e = none) {n place : Nat} (hn : before.length < n) :
    steps? n (before.flatMap Step.bytes ++ (e ++ rest)) place = .error (place + before.length) := by
  obtain ⟨k, rfl⟩ := Nat.exists_eq_add_of_lt hn
  rw [Nat.add_assoc, steps?_append h]
  simp only [steps?]
  rw [List.take_append_of_le_length he.ge, List.take_of_length_le he.le, hbad]
  rfl

/-! ### The header (R44, R181, R186) -/

theorem headerBytes_length (p : Plan) : p.headerBytes.length = 35 := by
  simp [Plan.headerBytes, nameField_length, byte_length, le_length]

theorem name_read {name : List Byte} {rest : List Byte} (h : name.length ≤ 16) :
    (((nameField name ++ rest).drop 1).take 16).take (min 16 (fieldAt (nameField name ++ rest) 0 1)) = name := by
  have hlen : fieldAt (nameField name ++ rest) 0 1 = name.length := by
    rw [nameField, List.append_assoc, fieldAt_append_left (by simp [byte_length]), fieldAt_byte]
    omega
  have hdrop : (nameField name ++ rest).drop 1 = padTo 16 name ++ rest := rfl
  rw [hlen, hdrop, List.take_append_of_le_length (padTo_length 16 name).ge, List.take_of_length_le (padTo_length 16 name).le, padTo,
    List.take_of_length_le h, List.take_append_of_le_length (by omega), List.take_of_length_le (by omega)]

/-- The numbers of a plan header behind its name (R186). -/
theorem headerBytes_fields (p : Plan) :
    fieldAt p.headerBytes 17 1 = p.spinCost % 256 ∧ fieldAt p.headerBytes 18 1 = p.runCost % 256 ∧
      fieldAt p.headerBytes 19 1 = p.offTime % 256 ∧ fieldAt p.headerBytes 20 2 = p.exposure % 65536 ∧
      fieldAt p.headerBytes 22 1 = p.spinTimeout % 256 ∧ fieldAt p.headerBytes 23 2 = p.identTimeout % 65536 ∧
      fieldAt p.headerBytes 25 2 = p.healthTimeout % 65536 ∧ fieldAt p.headerBytes 27 2 = p.writeTimeout % 65536 ∧
      fieldAt p.headerBytes 29 2 = p.readTimeout % 65536 ∧ fieldAt p.headerBytes 31 2 = p.seekTimeout % 65536 ∧
      fieldAt p.headerBytes 33 2 = p.standbyTimeout % 65536 := by
  simp only [Plan.headerBytes, List.append_assoc]
  simp [fieldAt_append_right, fieldAt_append_left, fieldAt_of_le, fieldAt_byte, byte_length, le_length, nameField_length]

/-- A header in range is read back (R44, R186). -/
theorem header_bytes {p : Plan} (h : p.HeaderSound) : header p.headerBytes = { p with steps := [] } := by
  have hname : ((p.headerBytes.drop 1).take 16).take (min 16 (fieldAt p.headerBytes 0 1)) = p.name := by
    simp only [Plan.headerBytes, List.append_assoc]
    exact name_read h.name
  obtain ⟨hspin, hrun, hoff, hexposure, hspinT, hident, hhealth, hwrite, hread, hseek, hstandby⟩ := headerBytes_fields p
  rw [header, hname, hspin, hrun, hoff, hexposure, hspinT, hident, hhealth, hwrite, hread, hseek, hstandby]
  obtain ⟨-, hspin, hrun, hoff, hexposure, hspinT, hident, hhealth, hwrite, hread, hseek, hstandby⟩ := h
  cases p
  simp only [Plan.mk.injEq, clamp, timeoutMs, true_and, and_true] at *
  omega

/-! ### The parts of a plan (R43 checks 1 to 4, R182) -/

/-- The bytes in front of the step entries: id, index and mark, and at index 0 the header (R185). -/
def frontLength (f : List Byte) : Nat := if fieldAt f 1 1 = 0 then 38 else 3

/-- The part a body with a mark, of `n` whole entries, stands for (R43 check 2). -/
def partAt (f : List Byte) (n : Nat) : Part :=
  { index := fieldAt f 1 1, last := decide (fieldAt f 2 1 = 1)
    head := if fieldAt f 1 1 = 0 then some (header ((f.drop 3).take 35)) else none, count := n, entries := f.drop (frontLength f) }

theorem entryCount_mul {n : Nat} (h : n ≤ 12) : entryCount (16 * n) = some n := by
  rw [entryCount, if_pos ⟨by omega, by rw [Config.partSteps]; omega⟩]
  congr 1
  omega

theorem entryCount_none {m : Nat} (h : ∀ n, n ≤ 12 → m ≠ 16 * n) : entryCount m = none := by
  refine if_neg fun ⟨hm, hn⟩ => h (m / 16) ?_ (by omega)
  exact hn

theorem part?_ok {f : List Byte} {n : Nat} (hmark : fieldAt f 2 1 ≤ 1) (hn : n ≤ 12) (hlen : f.length = frontLength f + 16 * n) :
    part? f = some (partAt f n) := by
  have hfront : 3 ≤ frontLength f := by rw [frontLength]; split <;> omega
  rw [part?, if_neg (by omega), yesNo?_of_le hmark]
  by_cases hi : fieldAt f 1 1 = 0
  · have hfront : frontLength f = 38 := if_pos hi
    have hcount : entryCount ((f.drop 3).length - headerBytes) = some n := by
      rw [List.length_drop, headerBytes, ← entryCount_mul hn]
      congr 1
      omega
    simp only [Option.bind_some, hi, if_true, hcount]
    rw [if_neg (by rw [List.length_drop, headerBytes]; omega)]
    simp [partAt, hi, hfront, headerBytes, List.drop_drop]
  · have hfront : frontLength f = 3 := if_neg hi
    have hcount : entryCount (f.drop 3).length = some n := by
      rw [List.length_drop, ← entryCount_mul hn]
      congr 1
      omega
    rw [List.length_drop] at hcount
    simp [partAt, hi, hfront, hcount]

/-- Lengths or a last-part mark that do not agree (R43 check 2, R182). -/
theorem part?_none {f : List Byte} (h : f.length < 3 ∨ 1 < fieldAt f 2 1 ∨ (fieldAt f 1 1 = 0 ∧ ∀ n, n ≤ 12 → f.length ≠ 38 + 16 * n) ∨
    (fieldAt f 1 1 ≠ 0 ∧ ∀ n, n ≤ 12 → f.length ≠ 3 + 16 * n)) : part? f = none := by
  unfold part?
  split
  · rfl
  · rename_i hshort
    rcases h with h | h | ⟨hi, h⟩ | ⟨hi, h⟩
    · exact absurd h hshort
    · rw [yesNo?_eq_none.2 h]
      rfl
    · refine Option.bind_eq_none_iff.2 fun last _ => ?_
      simp only [hi, if_true]
      split
      · rfl
      · rename_i hhead
        rw [List.length_drop, headerBytes] at hhead ⊢
        rw [entryCount_none fun n hn hm => h n hn (by omega)]
        rfl
    · refine Option.bind_eq_none_iff.2 fun last _ => ?_
      simp only [hi, if_false]
      rw [List.length_drop, entryCount_none fun n hn hm => h n hn (by omega)]
      rfl

/-- A part whose index is the number of steps staged, or 0, and leads to no more than 32 steps (R43 checks 3 and 4). -/
def Part.follows (p : Part) (s : State) (id : Fin 4) : Prop :=
  (p.index = 0 ∨ ∃ x, s.stagingAt id = some x ∧ x.steps.length = p.index) ∧ p.index + p.count ≤ 32

theorem not_badState {s : State} {id : Fin 4} {p : Part} (h : p.index = 0 ∨ ∃ x, s.stagingAt id = some x ∧ x.steps.length = p.index) :
    ¬ (p.index ≠ 0 ∧ (s.stagingAt id = none ∨ s.stagedCount id ≠ p.index)) := by
  rintro ⟨hi, hstage⟩
  rcases h with h | ⟨x, hx, hlen⟩
  · exact hi h
  · rw [State.stagedCount, hx] at hstage
    exact hstage.elim nofun fun hne => hne hlen

section
variable {f : List Byte} {s : State} {id : Fin 4} {p : Part} (hlen : 1 ≤ f.length) (hid : quadNo? (fieldAt f 0 1) = some id)
include hlen hid

theorem planLoad_malformed (hp : part? f = none) : planLoad f s = refused s .malformed := by
  rw [planLoad, if_neg (by omega), hid]
  simp only [hp]

variable (hp : part? f = some p)
include hp

theorem planLoad_badState (hi : p.index ≠ 0) (h : ∀ x, s.stagingAt id = some x → x.steps.length ≠ p.index) :
    planLoad f s = refused s .badState := by
  have hstage : s.stagingAt id = none ∨ s.stagedCount id ≠ p.index := by
    cases hx : s.stagingAt id with
    | none => exact .inl rfl
    | some x => exact .inr (by simpa [State.stagedCount, hx] using h x hx)
  rw [planLoad, if_neg (by omega), hid]
  simp only [hp]
  rw [if_pos ⟨hi, hstage⟩]

theorem planLoad_tooLong {x : Plan} (hx : s.stagingAt id = some x) (hi : x.steps.length = p.index) (h : 32 < p.index + p.count) :
    planLoad f s = refused s (.badArgument 32) := by
  rw [planLoad, if_neg (by omega), hid]
  simp only [hp]
  rw [if_neg (not_badState (.inr ⟨x, hx, hi⟩)), if_pos (by exact h)]

theorem planLoad_badStep (hfollows : p.follows s id) {k : Nat} (h : steps? p.count p.entries p.index = .error k) :
    planLoad f s = refused s (.badArgument k) := by
  obtain ⟨hindex, hcount⟩ := hfollows
  rw [planLoad, if_neg (by omega), hid]
  simp only [hp, h]
  rw [if_neg (not_badState hindex), if_neg (by rw [Config.planSteps]; omega)]

theorem planLoad_takes (hfollows : p.follows s id) {steps : List Step} (h : steps? p.count p.entries p.index = .ok steps) :
    planLoad f s = takePart id p steps s := by
  obtain ⟨hindex, hcount⟩ := hfollows
  rw [planLoad, if_neg (by omega), hid]
  simp only [hp, h]
  rw [if_neg (not_badState hindex), if_neg (by rw [Config.planSteps]; omega)]

end

/-! ### Parts as sent (R185) -/

/-- What a part sent with a header gives (R43 check 2). -/
def wholePart (last : Bool) (head : Plan) (steps : List Step) : Part :=
  { index := 0, last := last, head := some { head with steps := [] }, count := steps.length, entries := steps.flatMap Step.bytes }

/-- What a part sent behind staged steps gives. -/
def nextPart (index : Nat) (last : Bool) (steps : List Step) : Part :=
  { index := index, last := last, head := none, count := steps.length, entries := steps.flatMap Step.bytes }

theorem flatMap_bytes_length (steps : List Step) : (steps.flatMap Step.bytes).length = 16 * steps.length := by
  induction steps with
  | nil => rfl
  | cons st steps ih => rw [List.flatMap_cons, List.length_append, ih, Step.bytes_length, List.length_cons]; omega

section
variable {id : Fin 4} {last : Bool} {steps : List Step} {s : State} (hsteps : ∀ st ∈ steps, st.Sound) (hn : steps.length ≤ 12)
include hsteps hn

/-- A part sent at index 0 is taken with its header and steps (R42 to R44). -/
theorem planLoad_whole {head : Plan} (h : head.HeaderSound) :
    planLoad (partBytes id 0 last (some head) steps) s = takePart id (wholePart last head steps) steps s := by
  set f := partBytes id 0 last (some head) steps with hf
  have hbody : f = BitVec.ofNat 8 id.val :: 0#8 :: BitVec.ofNat 8 last.toNat :: (head.headerBytes ++ steps.flatMap Step.bytes) := by
    rw [hf, partBytes, Option.map_some, Option.getD_some, List.append_assoc]
    rfl
  have hindex : fieldAt f 1 1 = 0 := by rw [hbody]; rfl
  have hmark : fieldAt f 2 1 = last.toNat := by rw [hbody]; cases last <;> rfl
  have hfront : frontLength f = 38 := if_pos hindex
  have hlen : f.length = 38 + 16 * steps.length := by
    rw [hbody]
    simp only [List.length_cons, List.length_append, headerBytes_length, flatMap_bytes_length]
    omega
  have hentries : f.drop 38 = steps.flatMap Step.bytes := by
    rw [hbody]
    show (head.headerBytes ++ steps.flatMap Step.bytes).drop 35 = _
    rw [← headerBytes_length head, List.drop_left]
  have hhead : header ((f.drop 3).take 35) = { head with steps := [] } := by
    rw [hbody]
    show header ((head.headerBytes ++ steps.flatMap Step.bytes).take 35) = _
    rw [← headerBytes_length head, List.take_left, header_bytes h]
  have hpart : part? f = some (wholePart last head steps) := by
    rw [part?_ok (n := steps.length) (by rw [hmark]; cases last <;> decide) hn (by rw [hfront, hlen]), partAt, hindex, hmark, hfront,
      hentries, hhead]
    cases last <;> rfl
  exact planLoad_takes (by omega) (by rw [hbody]; exact quadNo?_field id _) hpart
    ⟨.inl rfl, by show 0 + steps.length ≤ 32; omega⟩ (steps?_bytes hsteps 0)

/-- A part sent behind staged steps is taken with its own (R42 to R44). -/
theorem planLoad_next {image : Plan} (himage : s.stagingAt id = some image) (hlo : 1 ≤ image.steps.length)
    (hhi : image.steps.length ≤ 31) (hsum : image.steps.length + steps.length ≤ 32) :
    planLoad (partBytes id image.steps.length last none steps) s =
      takePart id (nextPart image.steps.length last steps) steps s := by
  set f := partBytes id image.steps.length last none steps with hf
  have hbody : f = BitVec.ofNat 8 id.val :: BitVec.ofNat 8 image.steps.length :: BitVec.ofNat 8 last.toNat ::
      steps.flatMap Step.bytes := by rw [hf]; rfl
  have hindex : fieldAt f 1 1 = image.steps.length := by
    rw [hbody, fieldAt_second]
    simp
    omega
  have hmark : fieldAt f 2 1 = last.toNat := by rw [hbody]; cases last <;> rfl
  have hne : image.steps.length ≠ 0 := by omega
  have hfront : frontLength f = 3 := if_neg (by rw [hindex]; exact hne)
  have hlen : f.length = 3 + 16 * steps.length := by
    rw [hbody]
    simp only [List.length_cons, flatMap_bytes_length]
    omega
  have hpart : part? f = some (nextPart image.steps.length last steps) := by
    rw [part?_ok (n := steps.length) (by rw [hmark]; cases last <;> decide) hn (by rw [hfront, hlen]), partAt, hindex, hmark, hfront,
      if_neg hne, hbody]
    cases last <;> rfl
  exact planLoad_takes (by omega) (by rw [hbody]; exact quadNo?_field id _) hpart ⟨.inr ⟨image, himage, rfl⟩, hsum⟩
    (steps?_bytes hsteps _)

end

/-- Any header, sent alone, is taken clamped (R44, R181). -/
theorem planLoad_header {id : Fin 4} {h : List Byte} (hh : h.length = 35) (s : State) :
    planLoad ([BitVec.ofNat 8 id.val, 0#8, 0#8] ++ h) s =
      takePart id { index := 0, last := false, head := some (header h), count := 0, entries := [] } [] s := by
  have hpart : part? ([BitVec.ofNat 8 id.val, 0#8, 0#8] ++ h) =
      some { index := 0, last := false, head := some (header h), count := 0, entries := [] } := by
    have hlen : ([BitVec.ofNat 8 id.val, 0#8, 0#8] ++ h).length = 38 := by rw [List.length_append, hh]; rfl
    rw [part?_ok (f := [BitVec.ofNat 8 id.val, 0#8, 0#8] ++ h) (n := 0) (Nat.zero_le 1) (by omega) hlen]
    show some (Part.mk 0 false (some (header (h.take 35))) 0 (h.drop 35)) = _
    rw [List.take_of_length_le hh.le, List.drop_eq_nil_of_le hh.le]
  exact planLoad_takes (by simp) (quadNo?_field id _) hpart ⟨.inl rfl, Nat.zero_le 32⟩ rfl

/-- Any entry of a known kind, sent alone behind staged steps, is taken as the step it stands for (R43, R44). -/
theorem planLoad_entry {id : Fin 4} {e : List Byte} {st : Step} {image : Plan} {s : State} (he : e.length = 16)
    (hst : step? e = some st) (himage : s.stagingAt id = some image) (hlo : 1 ≤ image.steps.length)
    (hhi : image.steps.length ≤ 31) :
    planLoad ([BitVec.ofNat 8 id.val, BitVec.ofNat 8 image.steps.length, 0#8] ++ e) s = takePart id
      { index := image.steps.length, last := false, head := none, count := 1, entries := e } [st] s := by
  set f := [BitVec.ofNat 8 id.val, BitVec.ofNat 8 image.steps.length, 0#8] ++ e with hf
  have hindex : fieldAt f 1 1 = image.steps.length := by
    rw [hf, List.cons_append, List.cons_append, fieldAt_second]
    simp
    omega
  have hne : image.steps.length ≠ 0 := by omega
  have hfront : frontLength f = 3 := if_neg (by rw [hindex]; exact hne)
  have hmark : fieldAt f 2 1 = 0 := rfl
  have hpart : part? f = some { index := image.steps.length, last := false, head := none, count := 1, entries := e } := by
    rw [part?_ok (n := 1) (by rw [hmark]; omega) (by omega) (by rw [hfront, hf, List.length_append, he]; rfl), partAt, hindex, hmark,
      hfront, if_neg hne]
    rfl
  have hread : steps? 1 e image.steps.length = .ok [st] := by
    rw [steps?, List.take_of_length_le he.le, hst]
    rfl
  exact planLoad_takes (by simp) (quadNo?_field id _) hpart
    ⟨.inr ⟨image, himage, rfl⟩, by show image.steps.length + 1 ≤ 32; omega⟩ hread

/-! ### What becomes of a part taken (R42, R45, R46) -/

theorem takePart_staged {id : Fin 4} {p : Part} {steps : List Step} {s : State} (h : p.last = false) : takePart id p steps s =
    (s.setStaging id (some (p.staged (s.stagingAt id) steps)), partReply id (p.staged (s.stagingAt id) steps) p steps) := by
  rw [takePart, h]
  rfl

section
variable {id : Fin 4} {p : Part} {steps : List Step} {s : State} (h : p.last = true)
include h

theorem takePart_invalid {k : Nat} (hk : (p.staged (s.stagingAt id) steps).invalid = some k) :
    takePart id p steps s = refused s (.badArgument k) := by
  simp only [takePart, h, if_true, hk]

variable (hvalid : (p.staged (s.stagingAt id) steps).invalid = none)
include hvalid

theorem takePart_inUse (hused : s.planInUse id = true) : takePart id p steps s = refused s .inUse := by
  simp only [takePart, h, if_true, hvalid, hused]

theorem takePart_installs (hfree : s.planInUse id = false) : takePart id p steps s =
    ((s.setPlan id (some (p.staged (s.stagingAt id) steps))).setStaging id none,
      partReply id (p.staged (s.stagingAt id) steps) p steps) := by
  simp only [takePart, h, if_true, hvalid, hfree]
  rfl

end

/-- The reply to a part sent with a header (R185). -/
theorem partReply_header (id : Fin 4) (image x : Plan) {p : Part} (steps : List Step) (h : p.head = some x) :
    partReply id image p steps = Reply.ok ([BitVec.ofNat 8 id.val, BitVec.ofNat 8 image.steps.length] ++ x.headerBytes ++
      steps.flatMap Step.bytes) := by
  rw [partReply, h]
  rfl

/-- The reply to a part sent behind staged steps (R185). -/
theorem partReply_next (id : Fin 4) (image : Plan) {p : Part} (steps : List Step) (h : p.head = none) :
    partReply id image p steps = Reply.ok ([BitVec.ofNat 8 id.val, BitVec.ofNat 8 image.steps.length] ++
      steps.flatMap Step.bytes) := by
  rw [partReply, h, Option.map_none, Option.getD_none, List.append_nil]
  rfl

/-- A plan is in use while a slot that names it is in a run or in LOT_WAIT (R46). -/
theorem planInUse_iff (s : State) (p : Fin 4) : s.planInUse p = true ↔
    ∃ i, (s.slot i).plan = some p ∧ (s.slot i).state.inUse = true := by
  simp only [State.planInUse, List.any_eq_true, Bool.and_eq_true, decide_eq_true_eq]
  exact ⟨fun ⟨i, _, h⟩ => ⟨i, h⟩, fun ⟨i, h⟩ => ⟨i, mem_slotIds i, h⟩⟩

theorem planInUse_of_used {s : State} {p : Fin 4} (h : ∃ i, (s.slot i).plan = some p ∧
    (s.slot i).state ∈ [SlotState.waitPower, .spinning, .active, .recovering, .cycling, .lotWait]) : s.planInUse p = true :=
  (planInUse_iff s p).2 (h.imp fun _ ⟨hp, hs⟩ => ⟨hp, Proofs.inUse_of_mem hs⟩)

theorem planInUse_of_free {s : State} {p : Fin 4}
    (h : ∀ i, (s.slot i).plan = some p → (s.slot i).state ∈ [SlotState.empty, .seated, .done, .faulted]) : s.planInUse p = false := by
  rw [Bool.eq_false_iff]
  intro hused
  obtain ⟨i, hp, hs⟩ := (planInUse_iff s p).1 hused
  rw [Proofs.not_inUse_of_mem (h i hp)] at hs
  cases hs

end Sys2Proof.Machine
end

section
/-! The statements about the loading of plans (O37, O38). -/

namespace Sys2Proof.Proofs

open Sys2Proof Sys2Proof.Machine

/-- A part that is not the last is staged, and that is all (R42). -/
theorem part_stages {id : Fin 4} {p : Part} {steps : List Step} {image : Plan} {r : Req} {s : State} (hd : s.line.deaf = false)
    (hload : planLoad r.fields s.hunting = takePart id p steps s.hunting) (hlast : p.last = false)
    (himage : p.staged (s.stagingAt id) steps = image) {reply : Reply} (hreply : partReply id image p steps = reply) :
    ∃ u, Answers (.planLoad r) r 0x10#8 reply s u ∧ u.stagingAt id = some image ∧
      (∀ q : Fin 4, q ≠ id → u.stagingAt q = s.stagingAt q) ∧ u = { s.hunting with staging := u.staging } := by
  have htaken := hload.trans (takePart_staged (s := s.hunting) hlast)
  have hsame : p.staged (s.hunting.stagingAt id) steps = image := himage
  rw [hsame, hreply] at htaken
  refine ⟨_, answers_taken rfl hd (fun _ => rfl) htaken, ?_, fun q hq => ?_, rfl⟩
  · rw [stagingAt_setStaging, if_pos rfl]
  · exact (stagingAt_setStaging ..).trans (if_neg hq)

/-- A last part is installed with its image, or refused by validation or with IN_USE, the image kept (R42, R45, R46). -/
theorem part_installs {id : Fin 4} {p : Part} {steps : List Step} {image : Plan} {r : Req} {s : State} (hd : s.line.deaf = false)
    (hload : planLoad r.fields s.hunting = takePart id p steps s.hunting) (hlast : p.last = true)
    (himage : p.staged (s.stagingAt id) steps = image) {reply : Reply} (hreply : partReply id image p steps = reply) :
    (image.invalid = none →
      (∀ i : Fin 16, (s.slot i).plan = some id → (s.slot i).state ∈ [SlotState.empty, .seated, .done, .faulted]) →
      ∃ u, Answers (.planLoad r) r 0x10#8 reply s u ∧ u.planAt id = some image ∧ u.stagingAt id = none ∧
        (∀ q : Fin 4, q ≠ id → u.planAt q = s.planAt q ∧ u.stagingAt q = s.stagingAt q) ∧
        u = { s.hunting with plans := u.plans, staging := u.staging }) ∧
    (image.invalid = none → (∃ i : Fin 16, (s.slot i).plan = some id ∧
        (s.slot i).state ∈ [SlotState.waitPower, .spinning, .active, .recovering, .cycling, .lotWait]) →
      Answers (.planLoad r) r 0x10#8 (Reply.refuse .inUse) s s.hunting) ∧
    ∀ k, image.invalid = some k → Answers (.planLoad r) r 0x10#8 (Reply.refuse (.badArgument k)) s s.hunting := by
  have hsame : p.staged (s.hunting.stagingAt id) steps = image := himage
  refine ⟨fun hvalid hfree => ?_, fun hvalid hused => answers_unchanged rfl hd ?_, fun k hk => answers_unchanged rfl hd ?_⟩
  · have htaken := hload.trans (takePart_installs (s := s.hunting) hlast (by rw [hsame]; exact hvalid) (planInUse_of_free hfree))
    rw [hsame, hreply] at htaken
    refine ⟨_, answers_taken rfl hd (fun _ => rfl) htaken, ?_, ?_, fun q hq => ⟨?_, ?_⟩, rfl⟩
    · exact (planAt_setPlan ..).trans (if_pos rfl)
    · exact (stagingAt_setStaging ..).trans (if_pos rfl)
    · exact (planAt_setPlan ..).trans (if_neg hq)
    · exact (stagingAt_setStaging ..).trans (if_neg hq)
  · exact hload.trans (takePart_inUse hlast (by rw [hsame]; exact hvalid) (planInUse_of_used hused))
  · exact hload.trans (takePart_invalid hlast (by rw [hsame]; exact hk))

/-- Settles O37: every part sent is read back, and any header or entry of a known kind is read clamped. -/
theorem planPartStaged : Obligations.PlanPartStaged := by
  refine ⟨fun id head steps r s hd hsteps hn => ⟨fun hhead hsame hf => ?_, fun image himage hlo hhi hsum hf => ?_⟩,
    fun id h r s hd hlen hf => ?_, fun id e image r s hd he himage hlo hhi hf => ?_⟩
  · refine part_stages (p := wholePart false head steps) hd (by rw [hf]; exact planLoad_whole hsteps hn hhead) rfl
      (by rw [← hsame]; rfl) ?_
    rw [partReply_header _ _ { head with steps := [] } _ rfl, hsame]
    rfl
  · refine part_stages (p := nextPart image.steps.length false steps) hd
      (by rw [hf]; exact planLoad_next (s := s.hunting) hsteps hn himage hlo hhi hsum) rfl (by rw [himage]; rfl) ?_
    rw [partReply_next _ _ _ rfl, List.length_append]
  · have hload := planLoad_header (id := id) hlen s.hunting
    rw [← hf] at hload
    obtain ⟨u, hanswers, hstaged, -, hframe⟩ := part_stages hd hload rfl rfl (partReply_header id _ (header h) [] rfl)
    rw [List.flatMap_nil, List.append_nil] at hanswers
    refine ⟨u, _, hanswers, hstaged, hframe, ?_⟩
    simp [header, List.take_take, clamp, timeoutMs]
  · intro staged
    have hstaged (st : Step) (hst : step? e = some st) : staged st := by
      obtain ⟨u, hanswers, hstaged, -, hframe⟩ := part_stages hd
        (by rw [hf]; exact planLoad_entry (s := s.hunting) he hst himage hlo hhi) rfl (by rw [himage]; rfl)
        (partReply_next id { image with steps := image.steps ++ [st] } [st] rfl)
      rw [List.flatMap_singleton, List.length_append] at hanswers
      exact ⟨u, hanswers, hstaged, hframe⟩
    refine ⟨fun h => hstaged _ ?_, fun h => hstaged _ ?_, fun h => hstaged _ ?_, fun h => hstaged _ ?_, fun h => hstaged _ ?_,
      fun h => hstaged _ ?_, fun h pacing hp => hstaged _ ?_, fun direction pacing pattern continuous hdir hp hx hc =>
      ⟨fun h => hstaged _ ?_, fun verify h hv => hstaged _ ?_⟩⟩
    · rw [step?, h]
      rfl
    · rw [step?, h]
      rfl
    · rw [step?, h]
      rfl
    · rw [step?, h]
      rfl
    · rw [step?, h]
      rfl
    · have htop := fieldAt_one_le e 2
      rw [step?, h]
      simp only [clamp]
      congr 2
      omega
    · rw [step?, h]
      exact congrArg (Option.map Step.seekSweep) (seekFields?_eq hp)
    · rw [step?, h]
      exact congrArg (Option.map Step.writeSweep) (sweepFields?_eq hdir hp hx hc)
    · rw [step?, h]
      simp only [sweepFields?_eq hdir hp hx hc, hv, yesNo?_toNat]
      rfl

/-- Settles O38: a part sent is read back, and any part is refused by the first check it fails. -/
theorem planInstalledAsSent : Obligations.PlanInstalledAsSent := by
  refine ⟨fun id plan r s hd hhead hsteps hn hf => ?_, fun id image steps r s hd hsteps hn himage hlo hhi hsum hf => ?_,
    fun r s hd hlen => ⟨fun hid => answers_unchanged rfl hd ?_, fun hid hbad => answers_unchanged rfl hd ?_,
      fun id n hid hmark hn hlen' => ?_⟩⟩
  · exact part_installs (p := wholePart true plan plan.steps) hd (by rw [hf]; exact planLoad_whole hsteps hn hhead) rfl rfl
      (partReply_header id plan { plan with steps := [] } plan.steps rfl)
  · refine part_installs (p := nextPart image.steps.length true steps) hd
      (by rw [hf]; exact planLoad_next (s := s.hunting) hsteps hn himage hlo hhi hsum) rfl (by rw [himage]; rfl) ?_
    rw [partReply_next _ _ _ rfl, List.length_append]
  · rw [planLoad, if_neg (by omega), quadNo?_of_le hid]
    rfl
  · exact planLoad_malformed hlen (quadNo?_of_lt hid) (part?_none hbad)
  · have hid : quadNo? (fieldAt r.fields 0 1) = some id := by rw [hid, quadNo?_val]
    have hpart := part?_ok hmark hn hlen'
    refine ⟨fun hindex hnone => answers_unchanged rfl hd ?_, fun x hx hplace hlong => answers_unchanged rfl hd ?_,
      fun before e rest hbefore he hbytes hplace hbad => answers_unchanged rfl hd ?_⟩
    · exact planLoad_badState (s := s.hunting) hlen hid hpart hindex hnone
    · exact planLoad_tooLong (s := s.hunting) hlen hid hpart hx hplace hlong
    · have hcount : before.length < n := by
        have hsize := congrArg List.length hbytes
        rw [List.length_drop, List.length_append, List.length_append, flatMap_bytes_length, he] at hsize
        omega
      have hfollows : (partAt r.fields n).follows s.hunting id := by
        rcases hplace with hzero | ⟨x, hx, hplace, hsum⟩
        · exact ⟨.inl hzero, by show fieldAt r.fields 1 1 + n ≤ 32; omega⟩
        · exact ⟨.inr ⟨x, hx, hplace⟩, hsum⟩
      refine planLoad_badStep hlen hid hpart hfollows ?_
      show steps? n (r.fields.drop (frontLength r.fields)) _ = _
      rw [frontLength, hbytes, List.append_assoc]
      exact steps?_error hbefore he (step?_none hbad) hcount

end Sys2Proof.Proofs
end

section
/-! SUPPORT. The sweep engine of one slot: the state as that slot's record, the pool and the work, and what the engine's operations
make of them (R89 to R92, R97, R98). -/

namespace Sys2Proof.Machine

/-! ### One slot, the pool and the work -/

/-- The state with a record of one slot, a pool and a list of work. -/
def State.engage (s : State) (i : Fin 16) (x : Slot) (p : Pool) (w : List Work) : State := { s.setSlot i x with pool := p, work := w }

section
variable (s : State) (i : Fin 16) (x y : Slot) (p q : Pool) (w v : List Work)

theorem engage_self : s.engage i (s.slot i) s.pool s.work = s := by
  simp [State.engage, State.setSlot, State.slot, Vector.get_eq_getElem]

@[simp] theorem engage_slot_same : (s.engage i x p w).slot i = x := slot_setSlot_same s i x
@[simp] theorem engage_pool : (s.engage i x p w).pool = p := rfl
@[simp] theorem engage_work : (s.engage i x p w).work = w := rfl
@[simp] theorem engage_now : (s.engage i x p w).now = s.now := rfl
@[simp] theorem engage_line : (s.engage i x p w).line = s.line := rfl
@[simp] theorem engage_lots : (s.engage i x p w).lots = s.lots := rfl
@[simp] theorem engage_zoneHold : (s.engage i x p w).zoneHold i = s.zoneHold i := rfl
@[simp] theorem engage_withPool : (s.engage i x p w).withPool q = s.engage i x q w := rfl
@[simp] theorem engage_withWork : (s.engage i x p w).withWork v = s.engage i x p v := rfl

@[simp] theorem engage_setSlot : (s.engage i x p w).setSlot i y = s.engage i y p w := by
  simp [State.engage, State.setSlot]

@[simp] theorem engage_modSlot (f : Slot → Slot) : (s.engage i x p w).modSlot i f = s.engage i (f x) p w := by
  rw [State.modSlot, engage_slot_same, engage_setSlot]

@[simp] theorem engage_modAcc (f : Accum → Accum) :
    (s.engage i x p w).modAcc i f = s.engage i { x with acc := f x.acc } p w := engage_modSlot ..
@[simp] theorem engage_modExec (f : Executor → Executor) :
    (s.engage i x p w).modExec i f = s.engage i { x with exec := f x.exec } p w := engage_modSlot ..
@[simp] theorem engage_modOp (f : OpUnit → OpUnit) :
    (s.engage i x p w).modOp i f = s.engage i { x with op := f x.op } p w := engage_modSlot ..
@[simp] theorem engage_modSweep (f : Sweep → Sweep) :
    (s.engage i x p w).modSweep i f = s.engage i { x with sweep := f x.sweep } p w := engage_modSlot ..

@[simp] theorem engage_planOf : (s.engage i x p w).planOf i = x.plan.bind s.planAt := by
  rw [State.planOf, engage_slot_same]
  rfl

end

theorem engage_slot_ne (s : State) {i j : Fin 16} (x : Slot) (p : Pool) (w : List Work) (h : j ≠ i) :
    (s.engage i x p w).slot j = s.slot j := slot_setSlot_ne s x h

/-! ### What an event's state is made of -/

theorem quiet_line {s t : State} (h : Quiet s t) : t.line = s.line := by rw [h.rest]

theorem quiet_lots {s t : State} (h : Quiet s t) : t.lots = s.lots := by rw [h.rest]

/-- A slot that the executor and no pause keep from working (R92, R97). -/
def Slot.works (x : Slot) : Bool := decide (x.state = .active) && decide (x.exec.phase = .working) && !x.held

theorem works_iff (x : Slot) : x.works = true ↔ x.state = .active ∧ x.exec.phase = .working ∧ x.held = false := by
  simp [Slot.works, and_assoc]

theorem zoneHold_eq_false {s : State} {i : Fin 16} (hz : (s.zone (zoneOf i)).state ≠ .fault) : s.zoneHold i = false := by
  simp [State.zoneHold, hz]

theorem mayWork_engage (s : State) (i : Fin 16) (x : Slot) (p : Pool) (w : List Work) :
    (s.engage i x p w).mayWork i = (x.works && !s.zoneHold i) := by
  simp only [State.mayWork, State.paused, engage_slot_same, engage_zoneHold, Slot.works]
  cases x.held <;> cases s.zoneHold i <;> simp

theorem issue_engage {s : State} {i : Fin 16} {x : Slot} {p : Pool} {w : List Work} {plan : Plan}
    (h : x.plan.bind s.planAt = some plan) (op : Op) (data : List Byte) :
    issue i op data (s.engage i x p w) =
      s.engage i { x with op := { x.op.sending op s.now (opTimeout plan op) with sentData := data } } p w := by
  simp [issue, h, OpUnit.sending]

/-! ### Rounds of the engine (R92, R97, R98) -/

/-- An engine that asks for nothing has gone on as far as it can. -/
theorem engineRounds_rests {n : Nat} {i : Fin 16} {s : State} (h : (tryIssue i s).wantsBuffer i = false) :
    engineRounds (n + 1) i s = tryIssue i s := by
  rw [engineRounds]
  exact if_neg (by rw [h]; nofun)

theorem engineRounds_waits {n : Nat} {i : Fin 16} {s : State} (h : (tryIssue i s).wantsBuffer i = true) (hp : s.pool.free = 0) :
    engineRounds (n + 1) i s = (tryIssue i s).withPool { s.pool with waiting := s.pool.waiting ++ [i] } := by
  have hfree : ¬ 0 < (tryIssue i s).pool.free := by rw [tryIssue_pool, hp]; exact Nat.lt_irrefl 0
  rw [engineRounds]
  simp only [h, if_true, if_neg hfree]
  rw [tryIssue_pool]

theorem engineRounds_lends {n : Nat} {i : Fin 16} {s : State} (h : (tryIssue i s).wantsBuffer i = true) (hp : 0 < s.pool.free) :
    engineRounds (n + 1) i s =
      engineRounds n i (lend i ((tryIssue i s).withPool { s.pool with free := s.pool.free - 1 })) := by
  have hfree : 0 < (tryIssue i s).pool.free := by rw [tryIssue_pool]; exact hp
  rw [engineRounds]
  simp only [h, if_true, if_pos hfree]
  rw [tryIssue_pool]

theorem engineGo_rests {i : Fin 16} {s : State} (h : (tryIssue i s).wantsBuffer i = false) : engineGo i s = tryIssue i s :=
  engineRounds_rests h

/-- The engine of a slot that may not work does nothing. -/
theorem tryIssue_idle {i : Fin 16} {s : State} (h : s.mayWork i = false) : tryIssue i s = s := by
  simp [tryIssue, h]

theorem engineGo_idle {i : Fin 16} {s : State} (h : s.mayWork i = false) : engineGo i s = s := by
  have hissue := tryIssue_idle h
  rw [engineGo_rests (by rw [hissue]; simp [State.wantsBuffer, h]), hissue]

/-! ### What the engine of a slot issues and asks -/

/-- The record of a slot that has issued a prepared chunk (R92, R106). -/
def Slot.chunkSent (plan : Plan) (now : Nat) (h : InHand) (x : Slot) : Slot :=
  { x with
    sweep := { x.sweep.sentOff h.lending with
      bands := x.sweep.bands.set h.chunk.band ((x.sweep.bands.get h.chunk.band).issued now) }
    op := { x.op.sending (x.sweep.chunkOp h.chunk) now (opTimeout plan (x.sweep.chunkOp h.chunk)) with
      sentData := h.data, interrupted := if h.again then none else x.op.interrupted } }

/-- A slot has room for a buffer, does not wait for one, and has something to take, none prepared (R97). -/
def Slot.asks (x : Slot) (waits : Bool) : Bool :=
  x.sweep.movesChunks && decide (x.sweep.hand.length < 2) && !waits
    && (x.chunkWaiting.isSome || (!(x.sweep.hand.any fun h => decide (h.use = .prepared)) && x.canTake))

/-- A chunk handed to a slot as it takes it (R98, R100). -/
def lentChunk (lending : Nat) (write again : Bool) (c : Chunk) : InHand :=
  { lending := lending, chunk := c, use := if write then .filling else .prepared, again := again, data := [] }

section
variable {s : State} {i : Fin 16} {x : Slot} {p : Pool} {w : List Work} {plan : Plan}

theorem wantsBuffer_engage : (s.engage i x p w).wantsBuffer i = (x.works && !s.zoneHold i && x.asks (p.waiting.contains i)) := by
  simp only [State.wantsBuffer, mayWork_engage, engage_slot_same, engage_pool, Slot.asks, Config.buffersPerSlot]
  simp only [Bool.and_assoc]

theorem issueChunk_engage (hplan : x.plan.bind s.planAt = some plan) (h : InHand) :
    issueChunk i h (s.engage i x p w) = s.engage i (x.chunkSent plan s.now h) p w := by
  unfold issueChunk
  cases hagain : h.again with
  | false =>
    simp only [engage_slot_same, engage_modSweep, engage_now, Bool.false_eq_true, if_false]
    refine Eq.trans (issue_engage (plan := plan) ?_ _ _) ?_
    · exact hplan
    · rw [Slot.chunkSent, hagain]
      rfl
  | true =>
    simp only [engage_slot_same, engage_modSweep, engage_modOp, engage_now, if_true]
    refine Eq.trans (issue_engage (plan := plan) ?_ _ _) ?_
    · exact hplan
    · rw [Slot.chunkSent, hagain]
      rfl

theorem tryIssue_outstanding (h : x.op.outstanding.isSome = true) : tryIssue i (s.engage i x p w) = s.engage i x p w := by
  have hsome : x.op.outstanding ≠ none := Option.isSome_iff_ne_none.1 h
  simp [tryIssue, hsome]

theorem tryIssue_paced (hi : x.op.interrupted = none) (hp : x.sweep.pace.1 ≠ .drive) :
    tryIssue i (s.engage i x p w) = s.engage i x p w := by
  simp [tryIssue, hi, hp]

/-- Under drive pacing nothing prepared leaves nothing to issue (R92). -/
theorem tryIssue_unprepared (hi : x.op.interrupted = none) (hk : x.sweep.isSeek = false) (hn : x.sweep.prepared = none) :
    tryIssue i (s.engage i x p w) = s.engage i x p w := by
  simp [tryIssue, hi, issueNext, hk, hn]

/-- Under drive pacing the oldest prepared chunk is issued (R92). -/
theorem tryIssue_chunk {h : InHand} (hplan : x.plan.bind s.planAt = some plan) (hx : x.works = true) (hz : s.zoneHold i = false)
    (hr : x.sweep.movesChunks = true) (ho : x.op.outstanding = none) (hi : x.op.interrupted = none) (hp : x.sweep.pace.1 = .drive)
    (hn : x.sweep.prepared = some h) :
    tryIssue i (s.engage i x p w) = s.engage i (x.chunkSent plan s.now h) p w := by
  have hrunning : x.sweep.running = true ∧ x.sweep.isSeek = false := by
    unfold Sweep.movesChunks Sweep.running Sweep.isSeek Sweep.kindCode at *
    split <;> simp_all
  unfold tryIssue
  simp [mayWork_engage, hx, hz, hrunning.1, ho, hi, hp, issueNext, hrunning.2, hn, issueChunk_engage hplan]

/-- A buffer lent to a slot that takes (R97, R98). -/
theorem lend_engage {c : Chunk} {again : Bool} {e : Sweep} (hk : x.sweep.movesChunks = true) (hh : x.sweep.hand.length < 2)
    (ht : x.take = some (c, again, e)) (hw : e.isWrite = x.sweep.isWrite) : lend i (s.engage i x p w) =
      s.engage i { x with sweep := { e with hand := e.hand ++ [lentChunk p.lendings x.sweep.isWrite again c] } }
        { p with lendings := p.lendings + 1 }
        (w ++ if x.sweep.isWrite then [{ slot := i, lending := p.lendings, check := false }] else []) := by
  unfold lend
  simp only [engage_slot_same, hk, hh, Config.buffersPerSlot, decide_true, Bool.and_true, if_true, ht, hw, engage_pool]
  cases x.sweep.isWrite <;> simp [lentChunk]

end

/-! ### Returns with no slot waiting (R98, R99) -/

theorem returnBuffers_free {s : State} (h : s.pool.waiting = []) (n : Nat) :
    returnBuffers n s = s.withPool { s.pool with free := s.pool.free + n } := by
  induction n generalizing s with
  | zero => rfl
  | succ n ih =>
    have hone : returnBuffer s = freeBuffer s := by rw [returnBuffer, h]
    rw [returnBuffers, hone, ih (by exact h), freeBuffer]
    simp only [State.withPool]
    congr 2
    omega

/-- The pieces of work that chunks dropped by a slot leave (R99). -/
def workLeft (i : Fin 16) (gone : List InHand) (w : List Work) : List Work :=
  w.filter fun v => !(decide (v.slot = i) && (gone.map InHand.lending).contains v.lending)

theorem dropChunks_free {s : State} {i : Fin 16} {x : Slot} {p : Pool} {w : List Work} (hw : p.waiting = [])
    (gone : InHand → Bool) : dropChunks i gone (s.engage i x p w) =
      s.engage i { x with sweep := { x.sweep with hand := x.sweep.hand.filter fun h => !gone h } }
        { p with free := p.free + (x.sweep.hand.filter gone).length } (workLeft i (x.sweep.hand.filter gone) w) := by
  unfold dropChunks
  simp only [engage_slot_same, engage_modSweep]
  rw [returnBuffers_free (by exact hw)]
  rfl

/-! ### A sweep's end and the step that follows (R48, R91) -/

/-- The slot's own part of a sweep's end (R91). -/
def Slot.sweepOver (x : Slot) : Bool :=
  decide (x.state = .active) && x.sweep.running
    && (decide (x.exec.phase = .draining)
      || (decide (x.exec.phase = .working) && (if x.sweep.isSeek then decide (x.sweep.remaining = 0) else !x.canTake)))
    && x.op.outstanding.isNone && x.op.interrupted.isNone && x.sweep.hand.isEmpty

theorem sweepEnded_eq (s : State) (i : Fin 16) : s.sweepEnded i = ((s.slot i).sweepOver && !s.pool.waiting.contains i) := rfl

theorem endIfEnded_goes_on {s : State} {i : Fin 16} (h : (s.slot i).sweepOver = false) : endIfEnded i s = s := by
  rw [endIfEnded, sweepEnded_eq, h]
  rfl

theorem endIfEnded_over {s : State} {i : Fin 16} (h : (s.slot i).sweepOver = true) (hw : i ∉ s.pool.waiting) :
    endIfEnded i s = nextStep i s := by
  rw [endIfEnded, sweepEnded_eq, h]
  exact if_pos (by simpa using hw)

theorem sweepOver_of_outstanding {x : Slot} (h : x.op.outstanding.isSome = true) : x.sweepOver = false := by
  have hn : x.op.outstanding ≠ none := Option.isSome_iff_ne_none.1 h
  simp [Slot.sweepOver, hn]

theorem sweepOver_of_hand {x : Slot} (h : x.sweep.hand ≠ []) : x.sweepOver = false := by
  simp [Slot.sweepOver, h]

/-- A sweep that has something to redo goes on (R90, R91). -/
theorem sweepOver_of_redo {x : Slot} (hw : x.exec.phase = .working) (hk : x.sweep.isSeek = false) (h : x.sweep.redo ≠ []) :
    x.sweepOver = false := by
  have htake : x.canTake = true := by
    unfold Slot.canTake Slot.take
    cases x.chunkWaiting with
    | some c => rfl
    | none =>
      cases hr : x.sweep.redo with
      | nil => exact absurd hr h
      | cons c rest => rfl
  simp [Slot.sweepOver, hw, hk, htake]

section
variable {s : State} {i : Fin 16} {x : Slot} {p : Pool} {w : List Work} {plan : Plan}

/-- The step that follows one that ends begins (R48). -/
theorem nextStep_begins {st : Step} {t : State} (hplan : x.plan.bind s.planAt = some plan)
    (hnext : plan.steps[x.exec.index + 1]? = some st) (hr : ∀ target count, st ≠ .repeatTo target count)
    (hb : beginStep false i st (s.engage i x.stepOver p w) = (t, false)) : nextStep i (s.engage i x p w) = t := by
  have hstep : (s.engage i x.stepOver p w).stepAt i = some st := by
    rw [stepAt_eq (plan := plan) (by rw [engage_planOf]; exact hplan), engage_slot_same]
    exact hnext
  rw [nextStep, engage_modSlot]
  exact proceed_begins hstep hr hb

theorem paused_engage : (s.engage i x p w).paused i = (x.held || s.zoneHold i) := by
  rw [State.paused, engage_slot_same, engage_zoneHold]

/-- A HEALTH step of a spun drive follows the step that ends (R48, R52). -/
theorem nextStep_health (hplan : x.plan.bind s.planAt = some plan) (hh : x.held = false) (hz : s.zoneHold i = false)
    (hspun : x.spun = true) (hnext : plan.steps[x.exec.index + 1]? = some .health) :
    nextStep i (s.engage i x p w) = s.engage i (x.stepOver.healthBegun plan s.now) p w := by
  refine nextStep_begins hplan hnext (by simp) ?_
  rw [beginStep_health_slot (plan := plan) (by rw [engage_planOf]; exact hplan)
    (by rw [paused_engage, hz, Bool.or_false]; exact hh) (by rw [engage_slot_same]; exact hspun)]
  simp

end

end Sys2Proof.Machine
end

section
/-! SUPPORT. The takes of an engine (R89, R90), the drained engine (R91), the pacing tick (R93) and the pattern unit's completions
(R100, R101). -/

namespace Sys2Proof.Machine

/-! ### Takes (R89, R90) -/

/-- What an engine takes next where nothing interrupted waits: the head of the redo list, else the next grid chunk (R90). -/
def Sweep.nextTake (e : Sweep) : Option (Chunk × Sweep) :=
  match e.redo with
  | c :: rest => some (c, { e with redo := rest })
  | [] => e.takeIndex.map fun q => (e.gridChunk q.1, q.2)

theorem take_of_no_chunk {x : Slot} (h : x.chunkWaiting = none) : x.take = x.sweep.nextTake.map fun q => (q.1, false, q.2) := by
  rw [Slot.take, h, Sweep.nextTake]
  cases x.sweep.redo with
  | nil => rw [Option.map_map]; rfl
  | cons c rest => rfl

theorem chunkWaiting_none {x : Slot} (h : x.op.interrupted = none) : x.chunkWaiting = none := by
  simp [Slot.chunkWaiting, OpUnit.interruptedChunk, h]

theorem stepped_step (e : Sweep) : e.stepped.step = e.step := by
  unfold Sweep.stepped
  repeat' split
  all_goals rfl

theorem takeIndex_step {x e : Sweep} {k : Nat} (h : x.takeIndex = some (k, e)) : e.step = x.step := by
  have hrewound : (if (x.lapDone && x.endless) = true then x.rewound else x).step = x.step := by
    split <;> rfl
  unfold Sweep.takeIndex at h
  simp only [Option.ite_none_left_eq_some, Option.some.injEq, Prod.mk.injEq] at h
  obtain ⟨-, -, rfl⟩ := h
  rw [stepped_step, hrewound]

theorem nextTake_step {x e : Sweep} {c : Chunk} (h : x.nextTake = some (c, e)) : e.step = x.step := by
  unfold Sweep.nextTake at h
  split at h
  · obtain ⟨-, rfl⟩ := Prod.mk.inj (Option.some.inj h)
    rfl
  · obtain ⟨q, hq, heq⟩ := Option.map_eq_some_iff.1 h
    obtain ⟨-, rfl⟩ := Prod.mk.inj heq
    exact takeIndex_step hq

theorem take_step {x : Slot} {c : Chunk} {again : Bool} {e : Sweep} (h : x.take = some (c, again, e)) : e.step = x.sweep.step := by
  cases hc : x.chunkWaiting with
  | some c' =>
    rw [Slot.take, hc] at h
    obtain ⟨-, -, rfl⟩ := Prod.mk.inj (Option.some.inj h) |>.imp_right Prod.mk.inj
    rfl
  | none =>
    rw [take_of_no_chunk hc] at h
    obtain ⟨q, hq, heq⟩ := Option.map_eq_some_iff.1 h
    obtain ⟨-, -, rfl⟩ := Prod.mk.inj heq |>.imp_right Prod.mk.inj
    exact nextTake_step hq

/-- An engine with other chunks in hand, pacing timer and bands. -/
def Sweep.reframed (e : Sweep) (hand : List InHand) (pacing : Option Nat) (bands : Vector Band 16) : Sweep :=
  { e with hand := hand, pacing := pacing, bands := bands }

theorem takeIndex_reframed (e : Sweep) (hand : List InHand) (pacing : Option Nat) (bands : Vector Band 16) :
    (e.reframed hand pacing bands).takeIndex = e.takeIndex.map fun q => (q.1, q.2.reframed hand pacing bands) := by
  have hstepped (y : Sweep) : (y.reframed hand pacing bands).stepped = y.stepped.reframed hand pacing bands := by
    unfold Sweep.stepped
    show (match y.direction with
      | .ascending | .descending => _
      | .fixed => _
      | .butterfly => _) = _
    cases y.direction with
    | ascending | descending | fixed => rfl
    | butterfly =>
      show (if y.lowNext = true then _ else _) = Sweep.reframed (if y.lowNext = true then _ else _) _ _ _
      split <;> rfl
  have hlap (y : Sweep) : (y.reframed hand pacing bands).lapDone = y.lapDone := rfl
  have hnext (y : Sweep) : (y.reframed hand pacing bands).nextIndex = y.nextIndex := rfl
  have hendless : (e.reframed hand pacing bands).endless = e.endless := rfl
  have hrewound : (e.reframed hand pacing bands).rewound = e.rewound.reframed hand pacing bands := rfl
  unfold Sweep.takeIndex
  simp only [hlap, hendless, hrewound]
  split
  · rw [hlap, hstepped, hnext]
    split <;> rfl
  · rw [hlap, hstepped, hnext]
    split <;> rfl

/-- What an engine takes next does not depend on the chunks in hand, the pacing timer or the bands. -/
theorem nextTake_reframed (e : Sweep) (hand : List InHand) (pacing : Option Nat) (bands : Vector Band 16) :
    (e.reframed hand pacing bands).nextTake = e.nextTake.map fun q => (q.1, q.2.reframed hand pacing bands) := by
  unfold Sweep.nextTake
  show (match e.redo with
    | c :: rest => _
    | [] => _) = _
  cases e.redo with
  | nil =>
    simp only [takeIndex_reframed, Option.map_map]
    rfl
  | cons c rest => rfl

/-! ### The drained engine (R54, R91) -/

/-- The record of a slot whose sweep drains (R54, R91, R94, R106). -/
def Slot.drained (x : Slot) : Slot :=
  { x with
    exec := { x.exec with phase := .draining, timer := none }
    op := { x.op with interrupted := none }
    sweep := { x.sweep with
      redo := [], pacing := none, bands := x.sweep.bands.map Band.drained
      hand := x.sweep.hand.filter fun h => decide (h.use = .inFlight) || decide (h.use = .checking) } }

theorem drainEngine_slot (i : Fin 16) (s : State) :
    (drainEngine i s).slot i = (s.slot i).drained ∧ i ∉ (drainEngine i s).pool.waiting := by
  have hkeeps (h : InHand) : (!(decide (h.use = .filling) || decide (h.use = .prepared))) =
      (decide (h.use = .inFlight) || decide (h.use = .checking)) := by
    cases h.use <;> rfl
  unfold drainEngine
  simp only
  refine (dropChunks_slot i _ _ (leaveBufferList_waiting _ _)).imp_left fun h => h.trans ?_
  simp only [hkeeps]
  simp [leaveBufferList, State.modSweep, State.modOp, State.modExec, Slot.drained]

theorem stepTimerEnds_drains {i : Fin 16} {s : State} (ht : (s.slot i).exec.timer.isSome = true) (hm : s.mayWork i = true) :
    stepTimerEnds (s.stepEntry i) s = endIfEnded i (drainEngine i s) := by
  have hslot : (s.stepEntry i).slot = i := rfl
  rw [stepTimerEnds]
  simp only [hslot, ht, hm, decide_true, Bool.and_self, if_true]

/-! ### The pacing tick (R93) -/

/-- The record of a slot at a tick: the pacing timer is reloaded. -/
def Slot.ticked (x : Slot) : Slot := { x with sweep := { x.sweep with pacing := some x.sweep.pace.2 } }

section
variable {i : Fin 16} {s : State} (hp : (s.slot i).sweep.pacing.isSome = true) (hm : s.mayWork i = true)
include hp hm

theorem pacingEnds_missed (h : (s.slot i).op.outstanding.isSome = true ∨ (s.slot i).op.interrupted.isSome = true) :
    pacingEnds (s.stepEntry i) s = missTick i (s.modSlot i Slot.ticked) := by
  have hslot : (s.stepEntry i).slot = i := rfl
  have hbusy : ((s.slot i).op.outstanding.isSome || (s.slot i).op.interrupted.isSome) = true := Bool.or_eq_true_iff.2 h
  rw [pacingEnds]
  simp only [hslot, hp, hm, decide_true, Bool.and_self, if_true, State.modSweep, slot_modSlot_same, hbusy]
  rfl

variable (ho : (s.slot i).op.outstanding = none) (hi : (s.slot i).op.interrupted = none)
include ho hi

theorem pacingEnds_free : pacingEnds (s.stepEntry i) s =
    if (s.slot i).ticked.sweep.ready then engineGo i (issueNext i (s.modSlot i Slot.ticked))
    else if (s.slot i).ticked.inPreparation then missTick i (s.modSlot i Slot.ticked) else s.modSlot i Slot.ticked := by
  have hslot : (s.stepEntry i).slot = i := rfl
  rw [pacingEnds]
  simp only [hslot, hp, hm, decide_true, Bool.and_self, if_true, State.modSweep, slot_modSlot_same, ho, hi, Option.isSome_none,
    Bool.or_self, Bool.false_eq_true, if_false]
  rfl

end

/-! ### An engine with an operation outstanding (R97, R98) -/

section
variable {s : State} {i : Fin 16} {x : Slot} {p : Pool} {w : List Work} (ho : x.op.outstanding.isSome = true)
include ho

theorem engineGo_content (h : x.asks (p.waiting.contains i) = false) : engineGo i (s.engage i x p w) = s.engage i x p w := by
  rw [engineGo_rests (by rw [tryIssue_outstanding ho, wantsBuffer_engage, h, Bool.and_false]), tryIssue_outstanding ho]

variable (hx : x.works = true) (hz : s.zoneHold i = false) (h : x.asks (p.waiting.contains i) = true)
include hx hz h

theorem engineGo_waits (hp : p.free = 0) :
    engineGo i (s.engage i x p w) = s.engage i x { p with waiting := p.waiting ++ [i] } w := by
  rw [engineGo, engineRounds_waits (by rw [tryIssue_outstanding ho, wantsBuffer_engage, hx, hz, h]; rfl) (by exact hp),
    tryIssue_outstanding ho, engage_withPool]
  rfl

/-- A slot with one buffer that asks is lent its second, and asks for no more (R97, R98). -/
theorem engineGo_lends {c : Chunk} {again : Bool} {e : Sweep} (hp : 0 < p.free) (hh : x.sweep.hand.length = 1)
    (ht : x.take = some (c, again, e)) : engineGo i (s.engage i x p w) =
      s.engage i { x with sweep := { e with hand := e.hand ++ [lentChunk p.lendings x.sweep.isWrite again c] } }
        { p with free := p.free - 1, lendings := p.lendings + 1 }
        (w ++ if x.sweep.isWrite then [{ slot := i, lending := p.lendings, check := false }] else []) := by
  have hkind : x.sweep.movesChunks = true := by
    unfold Slot.asks at h
    simp only [Bool.and_eq_true] at h
    exact h.1.1.1
  have hfull : ({ x with sweep := { e with hand := e.hand ++ [lentChunk p.lendings x.sweep.isWrite again c] } } : Slot).asks
      (p.waiting.contains i) = false := by
    have hlen : (e.hand ++ [lentChunk p.lendings x.sweep.isWrite again c]).length = 2 := by
      rw [List.length_append, (take_hand ht), hh]
      rfl
    simp [Slot.asks, hlen]
  have hwrite : e.isWrite = x.sweep.isWrite := by rw [Sweep.isWrite, Sweep.isWrite, Sweep.kindCode, Sweep.kindCode, take_step ht]
  rw [engineGo, engineRounds_lends (by rw [tryIssue_outstanding ho, wantsBuffer_engage, hx, hz, h]; rfl) (by exact hp),
    tryIssue_outstanding ho, engage_withPool, lend_engage hkind (by omega) ht hwrite]
  rw [engineRounds_rests (by rw [tryIssue_outstanding (by exact ho), wantsBuffer_engage]; exact (congrArg _ hfull).trans (Bool.and_false _)),
    tryIssue_outstanding (by exact ho)]
  rfl

end

theorem mayWork_held {s : State} {i : Fin 16} (h : (s.slot i).held = true) : s.mayWork i = false := by
  simp [State.mayWork, State.paused, h]

/-- What a command leaves that ends in a record of one slot, a pool and a list of work. -/
theorem left_engage {c : Instr} {s u : State} {i : Fin 16} {x : Slot} {p : Pool} {w : List Work}
    (h : exec c s = completed (u.engage i x p w)) : ∃ t, exec c s = .next t ∧ SameOutsideSlots { u with pool := p, work := w } t ∧
      (∀ j : Fin 16, j ≠ i → t.slot j = u.slot j) ∧ t.slot i = x ∧ t.pool = p ∧ t.work = w :=
  ⟨_, h, ⟨rfl, rfl, rfl, rfl, rfl, rfl, rfl, rfl, rfl, rfl, rfl, rfl⟩, fun _ hj => engage_slot_ne u x p w hj, engage_slot_same u i x p w, rfl, rfl⟩

theorem isSeek_of_verifies {e : Sweep} (h : e.verifies = true) : e.isSeek = false ∧ e.movesChunks = true ∧ e.isWrite = false := by
  unfold Sweep.verifies at h
  split at h
  · rename_i f v hstep
    simp [Sweep.isSeek, Sweep.movesChunks, Sweep.isWrite, Sweep.kindCode, hstep]
  · cases h

theorem isSeek_of_writeSweep {e : Sweep} {f : SweepFields} (h : e.step = some (.writeSweep f)) :
    e.isSeek = false ∧ e.movesChunks = true ∧ e.isWrite = true := by
  simp [Sweep.isSeek, Sweep.movesChunks, Sweep.isWrite, Sweep.kindCode, h]

theorem isSeek_of_readSweep {e : Sweep} {f : SweepFields} {v : Bool} (h : e.step = some (.readSweep f v)) :
    e.isSeek = false ∧ e.movesChunks = true ∧ e.isWrite = false := by
  simp [Sweep.isSeek, Sweep.movesChunks, Sweep.isWrite, Sweep.kindCode, h]

/-! ### The pattern unit (R100, R101) -/

theorem countClass_eq (c : SectorClass) (l : List SectorClass) : countClass c l = l.count c := by
  rw [countClass, List.count, List.countP_eq_length_filter]
  congr 1

/-- The work of one lending of a slot ends, where only one kind of it is at work (R99). -/
theorem filter_work_one {i : Fin 16} {n : Nat} {check : Bool} {w : List Work}
    (h : ({ slot := i, lending := n, check := !check } : Work) ∉ w) :
    (w.filter fun v => !(decide (v.slot = i) && [n].contains v.lending)) =
      w.filter fun v => decide (v ≠ { slot := i, lending := n, check := check }) := by
  refine List.filter_congr fun v hv => ?_
  rw [Bool.eq_iff_iff]
  simp only [Bool.not_eq_true', Bool.and_eq_false_iff, decide_eq_false_iff_not, List.contains_cons, List.contains_nil, Bool.or_false,
    beq_eq_false_iff_ne, decide_eq_true_eq]
  constructor
  · rintro h rfl
    exact h.elim (fun h => h rfl) fun h => h rfl
  · intro hne
    by_contra hno
    rw [not_or, not_not, not_not] at hno
    obtain ⟨slot, lending, kind⟩ := v
    obtain ⟨rfl, rfl⟩ := hno
    have hkind : kind ≠ check := fun e => hne (by rw [e])
    exact h (by rwa [← Bool.eq_not.2 hkind])

/-- The chunks of a slot with one of them filled (R100). -/
def Slot.filled (tray : Nat) (i : Fin 16) (n : Nat) (x : Slot) : Slot :=
  { x with sweep := { x.sweep with hand := x.sweep.hand.map fun h =>
      if h.lending = n then
        { h with use := .prepared
                 data := fillBytes x.sweep.pattern tray i x.exec.pass ((x.identity.map Identity.sectorSize).getD 0) h.chunk.first
                   h.chunk.count }
      else h } }

/-- A fill of a held slot prepares its chunk, and the engine waits (R58, R100). -/
theorem fillEnds_held {i : Fin 16} {n : Nat} {s : State} (hh : (s.slot i).held = true)
    (hwork : ({ slot := i, lending := n, check := false } : Work) ∈ s.work)
    (hcheck : ({ slot := i, lending := n, check := true } : Work) ∉ s.work) : fillEnds i n s =
      s.engage i ((s.slot i).filled s.line.address i n) s.pool
        (s.work.filter fun v => decide (v ≠ { slot := i, lending := n, check := false })) := by
  have hat : s.atWork i n false = true := by rw [State.atWork]; simpa using hwork
  rw [fillEnds, if_pos hat]
  simp only
  rw [engineGo_idle (mayWork_held (by rw [State.modSweep, slot_modSlot_same]; exact hh)), ← filter_work_one (check := false) hcheck]
  rfl

theorem fillEnds_idle {i : Fin 16} {n : Nat} {s : State} (h : ({ slot := i, lending := n, check := false } : Work) ∉ s.work) :
    fillEnds i n s = s := by
  refine if_neg fun hat => h ?_
  rw [State.atWork] at hat
  simpa using hat

theorem checkEnds_idle {i : Fin 16} {n : Nat} {s : State} (h : ({ slot := i, lending := n, check := true } : Work) ∉ s.work) :
    checkEnds i n s = s := by
  refine if_neg fun hat => h ?_
  rw [State.atWork] at hat
  simpa using hat

/-- The record of a slot whose check has ended, its sectors counted and its buffer gone (R101). -/
def Slot.checked (tray : Nat) (i : Fin 16) (h : InHand) (x : Slot) : Slot :=
  { x with
    acc := x.acc.checked h.chunk.count (classifyAll x.sweep.pattern tray i x.exec.pass ((x.identity.map Identity.sectorSize).getD 0)
      h.chunk.first h.chunk.count h.data)
    sweep := { x.sweep with hand := x.sweep.hand.filter fun y => !decide (y.lending = h.lending) } }

/-- The one chunk in hand of a lending. -/
theorem filter_lending {l : List InHand} {n : Nat} {h : InHand} (hall : ∀ y ∈ l, y.lending = n → y = h)
    (hone : l.countP (fun y => decide (y.lending = n)) = 1) :
    (l.filter fun y => decide (y.lending = n)) = [h] ∧ h.lending = n := by
  rw [List.countP_eq_length_filter] at hone
  obtain ⟨y, hy⟩ := List.length_eq_one_iff.1 hone
  obtain ⟨hmem, hn⟩ := List.mem_filter.1 (hy ▸ List.mem_singleton_self y : y ∈ l.filter fun y => decide (y.lending = n))
  have hn := of_decide_eq_true hn
  obtain rfl := hall y hmem hn
  exact ⟨hy, hn⟩

section
variable {i : Fin 16} {s : State} {h : InHand} (hwork : ({ slot := i, lending := h.lending, check := true } : Work) ∈ s.work)
  (hfill : ({ slot := i, lending := h.lending, check := false } : Work) ∉ s.work)
  (hone : ((s.slot i).sweep.hand.filter fun y => decide (y.lending = h.lending)) = [h])
include hwork hfill hone

/-- A check of a slot ends: what it counted, and its buffer's return, before the engine goes on (R99, R101). -/
theorem checkEnds_returns : checkEnds i h.lending s = sweepOn i (returnBuffer (s.engage i ((s.slot i).checked s.line.address i h) s.pool
    (s.work.filter fun v => decide (v ≠ { slot := i, lending := h.lending, check := true })))) := by
  have hat : s.atWork i h.lending true = true := by rw [State.atWork]; simpa using hwork
  have hfind : ((s.slot i).sweep.hand.find? fun y => decide (y.lending = h.lending)) = some h := by
    rw [← List.head?_filter, hone]
    rfl
  rw [checkEnds, if_pos hat, hfind]
  simp only [dropChunks, State.modAcc, State.modSweep, slot_modSlot_same, hone]
  rw [← filter_work_one (check := true) hfill]
  congr 1
  show returnBuffers 1 _ = _
  rw [returnBuffers, returnBuffers, endWork]
  congr 1
  simp [State.engage, State.modSlot, State.withWork, checkClasses, Slot.checked]

/-- While the slot is held and its sweep has more to do, nothing else follows (R58, R91). -/
theorem checkEnds_held (hh : (s.slot i).held = true) (hk : (s.slot i).sweep.isSeek = false)
    (hw : (s.slot i).exec.phase = .working) (hr : (s.slot i).sweep.redo ≠ []) {t : State}
    (ht : returnBuffer (s.engage i ((s.slot i).checked s.line.address i h) s.pool
      (s.work.filter fun v => decide (v ≠ { slot := i, lending := h.lending, check := true }))) = t)
    (hslot : t.slot i = (s.slot i).checked s.line.address i h) : checkEnds i h.lending s = t := by
  rw [checkEnds_returns hwork hfill hone, ht, sweepOn, engineGo_idle (mayWork_held (by rw [hslot]; exact hh))]
  exact endIfEnded_goes_on (by rw [hslot]; exact sweepOver_of_redo (x := (s.slot i).checked s.line.address i h) hw hk hr)

end

/-- A buffer that returns goes to the head of the wait list, held (R98, R99). -/
theorem returnBuffer_lent {s : State} {j : Fin 16} {more : List (Fin 16)} {c : Chunk} {again : Bool} {e : Sweep}
    (hw : s.pool.waiting = j :: more) (hh : (s.slot j).held = true) (hlen : (s.slot j).sweep.hand.length < 2)
    (hk : (s.slot j).sweep.movesChunks = true) (ht : (s.slot j).take = some (c, again, e)) : returnBuffer s =
      s.engage j { s.slot j with sweep := { e with
          hand := (s.slot j).sweep.hand ++ [lentChunk s.pool.lendings (s.slot j).sweep.isWrite again c] } }
        { s.pool with waiting := more, lendings := s.pool.lendings + 1 }
        (s.work ++ if (s.slot j).sweep.isWrite then [{ slot := j, lending := s.pool.lendings, check := false }] else []) := by
  have hwrite : e.isWrite = (s.slot j).sweep.isWrite := by rw [Sweep.isWrite, Sweep.isWrite, Sweep.kindCode, Sweep.kindCode, take_step ht]
  have hlend := lend_engage (s := s) (i := j) (p := { s.pool with waiting := more }) (w := s.work) hk hlen ht hwrite
  have hself : s.withPool { s.pool with waiting := more } = s.engage j (s.slot j) { s.pool with waiting := more } s.work := by
    conv_lhs => rw [← engage_self s j]
    rfl
  rw [returnBuffer, hw]
  simp only
  rw [hself, hlend, engineGo_idle (mayWork_held (by rw [engage_slot_same]; exact hh)), take_hand ht]

/-! ### What each direction takes (R89) -/

theorem direction_of_fields {e : Sweep} {f : SweepFields} (h : e.step = some (.writeSweep f) ∨ ∃ v, e.step = some (.readSweep f v)) :
    e.fields = some f ∧ e.isSeek = false ∧ e.movesChunks = true ∧ e.pace = (f.pacing, f.interval) := by
  rcases h with h | ⟨v, h⟩ <;> simp [Sweep.fields, Sweep.isSeek, Sweep.movesChunks, Sweep.kindCode, Sweep.pace, h]

/-- A take from a lap that is not done (R89). -/
theorem takeIndex_next {e : Sweep} (h : e.lapDone = false) : e.takeIndex = some (e.nextIndex, e.stepped) := by
  simp [Sweep.takeIndex, h]

/-- A lap that is done leaves nothing to take in a sweep that is not continuous (R89). -/
theorem takeIndex_none {e : Sweep} (h : e.lapDone = true) (he : e.endless = false) : e.takeIndex = none := by
  simp [Sweep.takeIndex, h, he]

/-- A lap that is done begins again in a continuous sweep (R89). -/
theorem takeIndex_rewound {e : Sweep} (h : e.lapDone = true) (he : e.endless = true) (hr : e.rewound.lapDone = false) :
    e.takeIndex = e.rewound.takeIndex := by
  rw [takeIndex_next hr]
  simp [Sweep.takeIndex, h, he, hr]

section
variable {e : Sweep} (hg : 0 < e.grid)
include hg

theorem lapDone_upward (hd : e.direction = .ascending ∨ e.direction = .descending) : e.lapDone = decide (e.grid ≤ e.lo) := by
  have hgrid : e.grid ≠ 0 := hg.ne'
  rcases hd with hd | hd <;> simp [Sweep.lapDone, hd, hgrid]

theorem lapDone_butterfly (hd : e.direction = .butterfly) : e.lapDone = decide (e.hi < e.lo) := by
  have hgrid : e.grid ≠ 0 := hg.ne'
  simp [Sweep.lapDone, hd, hgrid]

theorem takeIndex_fixed (hd : e.direction = .fixed) : e.takeIndex = some (0, e) := by
  have hgrid : e.grid ≠ 0 := hg.ne'
  rw [takeIndex_next (by simp [Sweep.lapDone, hd, hgrid])]
  simp [Sweep.nextIndex, Sweep.stepped, hd]

variable (hs : e.isSeek = false)
include hs

theorem takeIndex_upward (hd : e.direction = .ascending ∨ e.direction = .descending) (h : e.lo < e.grid) :
    e.takeIndex = some (e.lo, { e with lo := e.lo + 1, remaining := e.remaining - 1 }) := by
  rw [takeIndex_next (by rw [lapDone_upward hg hd, decide_eq_false_iff_not]; omega)]
  rcases hd with hd | hd <;> simp [Sweep.nextIndex, Sweep.stepped, hd, hs]

theorem takeIndex_low (hd : e.direction = .butterfly) (h : e.lo ≤ e.hi) (hl : e.lowNext = true) :
    e.takeIndex = some (e.lo, { e with lo := e.lo + 1, lowNext := false, remaining := e.remaining - 1 }) := by
  rw [takeIndex_next (by rw [lapDone_butterfly hg hd, decide_eq_false_iff_not]; omega)]
  simp [Sweep.nextIndex, Sweep.stepped, hd, hl, hs]

theorem takeIndex_high (hd : e.direction = .butterfly) (h : e.lo ≤ e.hi) (hl : e.lowNext = false) :
    e.takeIndex = some (e.hi, { e with hi := e.hi - 1, lowNext := true, remaining := e.remaining - 1 }) := by
  rw [takeIndex_next (by rw [lapDone_butterfly hg hd, decide_eq_false_iff_not]; omega)]
  simp [Sweep.nextIndex, Sweep.stepped, hd, hl, hs]

end

/-! ### What an engine issues behind a tick or a completion (R92, R93) -/

theorem chunkOp_of_kind {e : Sweep} {f : SweepFields} (hk : e.step = some (.writeSweep f) ∨ ∃ v, e.step = some (.readSweep f v))
    (plan : Plan) (c : Chunk) : e.chunkOp c = (if e.step = some (.writeSweep f) then .write c else .read c) ∧
      opTimeout plan (e.chunkOp c) = (if e.step = some (.writeSweep f) then plan.writeTimeout else plan.readTimeout) ∧
      e.isWrite = decide (e.step = some (.writeSweep f)) := by
  rcases hk with hk | ⟨v, hk⟩ <;> simp [Sweep.chunkOp, Sweep.isWrite, Sweep.kindCode, hk, opTimeout]

/-- A slot that is to take nothing interrupted asks where it has room, does not wait, and finds something to take (R97). -/
theorem asks_iff {x : Slot} {waits : Bool} (hi : x.op.interrupted = none) (hk : x.sweep.movesChunks = true)
    (hn : x.sweep.hand.length < 2 → ∀ h ∈ x.sweep.hand, h.use ≠ .prepared) :
    x.asks waits = true ↔ x.sweep.hand.length < 2 ∧ waits = false ∧ x.sweep.nextTake.isSome = true := by
  have hwait := chunkWaiting_none hi
  have htake : x.canTake = x.sweep.nextTake.isSome := by rw [Slot.canTake, take_of_no_chunk hwait, Option.isSome_map]
  have hnone (h : x.sweep.hand.length < 2) : (x.sweep.hand.any fun h => decide (h.use = .prepared)) = false := by
    simpa using hn h
  rw [Slot.asks, hk, hwait, htake]
  constructor
  · intro h
    simp only [Bool.true_and, Option.isSome_none, Bool.false_or, Bool.and_eq_true, decide_eq_true_eq, Bool.not_eq_true'] at h
    exact ⟨h.1.1, h.1.2, h.2.2⟩
  · rintro ⟨hlen, rfl, hsome⟩
    simp [hlen, hnone hlen, hsome]

section
variable {s : State} {i : Fin 16} {x : Slot} {p : Pool} {w : List Work} {plan : Plan} (hplan : x.plan.bind s.planAt = some plan)
include hplan

theorem issueNext_chunk {h : InHand} (hk : x.sweep.isSeek = false) (hn : x.sweep.prepared = some h) :
    issueNext i (s.engage i x p w) = s.engage i (x.chunkSent plan s.now h) p w := by
  simp only [issueNext, engage_slot_same, hk, hn, issueChunk_engage hplan]
  rfl

theorem issueNext_seek {k : Nat} {e : Sweep} (hk : x.sweep.isSeek = true) (ht : x.sweep.takeIndex = some (k, e)) :
    issueNext i (s.engage i x p w) = s.engage i { x with
      sweep := e, op := x.op.sending (.seek (x.sweep.seekLba k)) s.now plan.seekTimeout } p w := by
  simp only [issueNext, issueSeek, engage_slot_same, hk, ht, if_true, engage_modSweep]
  exact issue_engage (x := { x with sweep := e }) hplan _ _

end

theorem chunkSent_sweep (plan : Plan) (now : Nat) (h : InHand) (x : Slot) : (x.chunkSent plan now h).sweep = x.sweep.reframed
    (x.sweep.sentOff h.lending).hand x.sweep.pacing (x.chunkSent plan now h).sweep.bands := rfl

/-- An interrupted chunk of a slot back in ACTIVE is taken first (R90). -/
theorem take_interrupted {x : Slot} {c : Chunk} (ha : x.state = .active) (hagain : ∀ h ∈ x.sweep.hand, h.again = false)
    (hi : x.op.interrupted = some (.write c) ∨ x.op.interrupted = some (.read c)) : x.take = some (c, true, x.sweep) := by
  have hany : (x.sweep.hand.any fun h => h.again) = false := by simpa using hagain
  have hwait : x.chunkWaiting = some c := by
    rcases hi with hi | hi <;> simp [Slot.chunkWaiting, ha, hany, OpUnit.interruptedChunk, hi]
  rw [Slot.take, hwait]

theorem chunkWaiting_of_none {x : Slot} (h : x.state ≠ .active ∨ x.op.interrupted = none ∨ ∃ h ∈ x.sweep.hand, h.again = true) :
    x.chunkWaiting = none := by
  rcases h with h | h | ⟨h, hmem, hagain⟩
  · simp [Slot.chunkWaiting, h]
  · exact chunkWaiting_none h
  · have hany : (x.sweep.hand.any fun h => h.again) = true := List.any_eq_true.2 ⟨h, hmem, hagain⟩
    simp [Slot.chunkWaiting, hany]

/-- The next seek of a seek sweep, from the end whose turn it is (R89, R95). -/
theorem takeIndex_seeks {e : Sweep} {f : SeekFields} (hk : e.step = some (.seekSweep f)) (hle : e.lo ≤ e.hi) (hg : 0 < e.grid) :
    e.takeIndex = some (if e.lowNext then e.lo else e.hi, { e with
      lowNext := !e.lowNext, lo := if e.lowNext then e.lo + 1 else e.lo, hi := if e.lowNext then e.hi else e.hi - 1 }) := by
  have hd : e.direction = .butterfly := by simp [Sweep.direction, Sweep.fields, hk]
  have hs : e.isSeek = true := by simp [Sweep.isSeek, Sweep.kindCode, hk]
  have hn : e.lapDone = false := by simp [Sweep.lapDone, hd]; omega
  rw [takeIndex_next hn]
  cases hl : e.lowNext <;> simp [Sweep.nextIndex, Sweep.stepped, hd, hl, hs]

end Sys2Proof.Machine
end

section
/-! The statements about the sweep engine's timers and the pattern unit (O57, O58, O59). -/

namespace Sys2Proof.Proofs

open Sys2Proof Sys2Proof.Machine

/-- Settles O59: a fill or check of a held slot changes its record, and the buffer that returns goes to the slot that waits. -/
theorem patternUnitCompletes : Obligations.PatternUnitCompletes := by
  intro i n s hh x size idle
  refine ⟨fun h => congrArg completed (fillEnds_idle h), fun h => congrArg completed (checkEnds_idle h), fun hwork hcheck => ?_,
    fun h hwork hfill hall hcount hverify hactive hphase hredo hi => ?_⟩
  · obtain ⟨t, ht, hsame, hother, hslot, -⟩ := left_engage (c := .fillCompletion i n) (congrArg completed (fillEnds_held hh hwork hcheck))
    exact ⟨t, ht, hother, hsame, hslot⟩
  · intro found checked
    obtain ⟨hone, rfl⟩ := filter_lending hall hcount
    obtain ⟨hkind, -⟩ := isSeek_of_verifies hverify
    have hchecked : x.checked s.line.address i h = checked := by
      simp [Slot.checked, Accum.checked, checked, countClass_eq, sat32, sat64, Config.top32, Config.top64, found, size, x]
    have hends := @checkEnds_held i s h hwork hfill hone hh hkind hphase hredo
    rw [hchecked] at hends
    constructor
    · intro hnone
      have hends : checkEnds i h.lending s = s.engage i checked { s.pool with free := s.pool.free + 1 } (idle true) :=
        hends (returnBuffers_free (s := s.engage i checked s.pool (idle true)) hnone 1) (engage_slot_same ..)
      obtain ⟨t, ht, hsame, hother, hslot, -⟩ := left_engage (c := .checkCompletion i h.lending) (congrArg completed hends)
      exact ⟨t, ht, hother, hsame, hslot⟩
    · intro j more c again e hwait hj hheld hlen hk ht lent
      have hslotj : (s.engage i checked s.pool (idle true)).slot j = s.slot j := engage_slot_ne _ _ _ _ hj
      have hmoves : (s.slot j).sweep.movesChunks = true := by
        rcases hk with ⟨f, hf⟩ | ⟨f, v, hf⟩
        · exact (isSeek_of_writeSweep hf).2.1
        · exact (isSeek_of_readSweep hf).2.1
      have hlent := returnBuffer_lent (s := s.engage i checked s.pool (idle true)) (c := c) (again := again) (e := e) hwait
        (by rw [hslotj]; exact hheld) (by rw [hslotj]; exact hlen) (by rw [hslotj]; exact hmoves) (by rw [hslotj]; exact ht)
      rw [hslotj] at hlent
      have hkept := engage_slot_ne (s.engage i checked s.pool (idle true)) (i := j) (j := i) { s.slot j with sweep := { e with
          hand := (s.slot j).sweep.hand ++ [lentChunk s.pool.lendings (s.slot j).sweep.isWrite again c] } }
        { s.pool with waiting := more, lendings := s.pool.lendings + 1 }
        (idle true ++ if (s.slot j).sweep.isWrite then [{ slot := j, lending := s.pool.lendings, check := false }] else []) hj.symm
      rw [engage_slot_same] at hkept
      obtain ⟨t, ht, hsame, hother, hslot, hpool, hworkt⟩ := left_engage (c := .checkCompletion i h.lending)
        (congrArg completed (hends hlent hkept))
      refine ⟨t, ht, fun k hki hkj => (hother k hkj).trans (engage_slot_ne _ _ _ _ hki), (hother i hj.symm).trans (engage_slot_same ..),
        hpool, ?_, ?_, ?_⟩
      · exact { hsame with pool := rfl, work := rfl }
      · rintro ⟨f, v, hf⟩
        have hw := (isSeek_of_readSweep hf).2.2
        rw [hw] at hslot hworkt
        exact ⟨hslot, hworkt.trans (List.append_nil _)⟩
      · rintro ⟨f, hf⟩
        have hw := (isSeek_of_writeSweep hf).2.2
        rw [hw] at hslot hworkt
        exact ⟨hslot, hworkt⟩

/-- Settles O57: the engine drains, and the step ends within the same event where nothing is left in flight. -/
theorem stepTimerDrains : Obligations.StepTimerDrains := by
  intro i s
  have huntouched : Untouched s (refreshLamps (stepTimerEnds (s.stepEntry i) s)) :=
    untouched_refreshLamps (moves_untouched (moves_stepTimerEnds (strict := true) _ s))
  have hquiet := quiet_drainEngine i s
  obtain ⟨hslot, hwait⟩ := drainEngine_slot i s
  have hline := quiet_line hquiet
  have hlots := quiet_lots hquiet
  have hdrains (ht : (s.slot i).exec.timer.isSome = true) (hm : s.mayWork i = true) := stepTimerEnds_drains ht hm
  generalize drainEngine i s = u at hquiet hslot hwait hline hlots hdrains
  refine ⟨fun ht ha hw hh hz hbusy => ?_, fun plan ht ha hw hh hz ho hhand hk hplan hspun hnext => ?_, fun hstill => ?_,
    fun e he hne => ?_⟩
  · have hends := hdrains ht (mayWork_of ha hw (paused_eq_false hh hz))
    have hgoes : (u.slot i).sweepOver = false := by
      rw [hslot]
      rcases hbusy with ho | ⟨h, hmem, huse⟩
      · exact sweepOver_of_outstanding ho
      · refine sweepOver_of_hand (List.ne_nil_of_mem (List.mem_filter.2 ⟨hmem, ?_⟩))
        simpa using huse
    have hstays := hends.trans (endIfEnded_goes_on hgoes)
    rw [hstays] at huntouched
    exact ⟨_, congrArg completed hstays, huntouched, hline, hlots, hwait, hslot⟩
  · have hends := hdrains ht (mayWork_of ha hw (paused_eq_false hh hz))
    have hempty : (s.slot i).drained.sweep.hand = [] := by
      refine List.filter_eq_nil_iff.2 fun h hmem => ?_
      rcases hhand h hmem with huse | huse <;> simp [huse]
    have hrunning : (s.slot i).drained.sweep.running = true := by
      rcases hk with ⟨f, hf⟩ | ⟨f, v, hf⟩ <;> simp [Slot.drained, Sweep.running, Sweep.kindCode, hf]
    have hover : (u.slot i).sweepOver = true := by
      rw [hslot, Slot.sweepOver, hempty, hrunning]
      simp [Slot.drained, ha, ho]
    have hsame : u = u.engage i (s.slot i).drained u.pool u.work := by
      rw [← hslot, engage_self]
    have hplans : u.plans = s.plans := by rw [hquiet.rest]
    have hzones : u.zones = s.zones := by rw [hquiet.rest]
    have hnow : u.now = s.now := by rw [hquiet.rest]
    have hplan' : (s.slot i).drained.plan.bind u.planAt = some plan := by
      have hat : u.planAt = s.planAt := funext fun p => by rw [State.planAt, hplans]; rfl
      rw [hat]
      exact hplan
    have hzone : u.zoneHold i = false := zoneHold_eq_false (by rw [State.zone, hzones]; exact hz)
    have hstep := nextStep_health (s := u) (i := i) (x := (s.slot i).drained) (p := u.pool)
      (w := u.work) hplan' hh hzone hspun hnext
    rw [← hsame, hnow] at hstep
    have hleft := (hends.trans (endIfEnded_over hover hwait)).trans hstep
    rw [hleft] at huntouched
    refine ⟨_, congrArg completed hleft, huntouched, hline, hlots, hwait, ?_⟩
    rw [refreshLamps_slot, engage_slot_same]
    simp [Slot.healthBegun, Slot.stepOver, Sweep.retired, OpUnit.sending, hempty, Band.void]
    simp [Slot.drained, hw]
  · refine congrArg completed (if_neg fun hcounts => ?_)
    have hslot : (s.stepEntry i).slot = i := rfl
    simp only [hslot, Bool.and_eq_true, State.mayWork, State.paused, State.zoneHold, decide_eq_true_eq, Bool.not_eq_true',
      Bool.or_eq_false_iff, decide_eq_false_iff_not] at hcounts
    obtain ⟨⟨htimer, -⟩, ⟨hactive, hworking⟩, hheld, hzone⟩ := hcounts
    rcases hstill with h | h | h | h | h
    · rw [h] at htimer; cases htimer
    · exact h hactive
    · exact h hworking
    · rw [h] at hheld; cases hheld
    · exact hzone h
  · refine congrArg completed (if_neg fun hcounts => ?_)
    simp only [Bool.and_eq_true, decide_eq_true_eq] at hcounts
    obtain ⟨⟨-, hentry⟩, -⟩ := hcounts
    subst he
    rcases hne with h | h | h
    · exact h (congrArg StepEntry.index hentry).symm
    · exact h (congrArg StepEntry.counters hentry).symm
    · exact h (congrArg StepEntry.retests hentry).symm

/-- Settles O58: a tick is missed, or issues a seek or chunk behind which the engine may ask for a buffer. -/
theorem pacingTickIssuesOrMisses : Obligations.PacingTickIssuesOrMisses := by
  refine ⟨fun e s hne => ?_, fun i s hp ha hw hh hz => ?_, fun x => ⟨fun c => take_interrupted, fun hno => ?_⟩, fun e f hk hg => ?_⟩
  · refine congrArg completed (if_neg fun hcounts => ?_)
    simp only [Bool.and_eq_true, decide_eq_true_eq] at hcounts
    obtain ⟨⟨-, hentry⟩, -⟩ := hcounts
    rcases hne with h | h | h
    · exact h (congrArg StepEntry.index hentry).symm
    · exact h (congrArg StepEntry.counters hentry).symm
    · exact h (congrArg StepEntry.retests hentry).symm
  · intro x
    have hm := mayWork_of ha hw (paused_eq_false hh hz)
    have hworks : x.ticked.works = true := (works_iff _).2 ⟨ha, hw, hh⟩
    have hzone := zoneHold_eq_false hz
    have hticked : s.modSlot i Slot.ticked = s.engage i x.ticked s.pool s.work := rfl
    refine ⟨fun hbusy => ?_, fun f plan h ho hi hplan hk hpace hlen hfind => ?_, fun f ho hi hk hno => ?_,
      fun f plan ho hi hplan hk hle hg => ?_⟩
    · have hmissed := pacingEnds_missed hp hm hbusy
      rw [hticked, missTick, engage_modAcc] at hmissed
      obtain ⟨t, ht, hsame, hother, hslot, -⟩ := left_engage (c := .pacingTick (s.stepEntry i)) (congrArg completed hmissed)
      exact ⟨t, ht, hsame, hother, hslot⟩
    · intro write sent asks
      obtain ⟨-, hseek, hmoves, hpaced⟩ := direction_of_fields hk
      obtain ⟨hop, htimeout, hwrite⟩ := chunkOp_of_kind hk plan h.chunk
      have hready : x.ticked.sweep.ready = true := by
        have hprepared : x.ticked.sweep.prepared = some h := hfind
        have hseek : x.ticked.sweep.isSeek = false := hseek
        rw [Sweep.ready, hseek, hprepared]
        rfl
      have hends := pacingEnds_free hp hm ho hi
      rw [if_pos hready, hticked, issueNext_chunk (x := x.ticked) hplan hseek hfind] at hends
      let y := x.ticked.chunkSent plan s.now h
      have hy : y.sweep = x.sweep.reframed sent (some f.interval) y.sweep.bands := by
        have hpace : x.ticked.sweep.pacing = some f.interval := by
          show some x.sweep.pace.2 = _
          rw [hpaced]
        rw [chunkSent_sweep, hpace]
        rfl
      have hmem : h ∈ x.sweep.hand := List.mem_of_find?_eq_some hfind
      have hsent : sent.length < 2 → ∀ b ∈ sent, b.use ≠ .prepared := by
        intro hlt b hb
        obtain ⟨a, ha⟩ : ∃ a, x.sweep.hand = [a] := by
          refine List.length_eq_one_iff.1 ?_
          have := List.length_pos_of_mem hmem
          have : x.sweep.hand.length < 2 := by simpa [sent] using hlt
          omega
        rw [ha, List.mem_singleton] at hmem
        subst hmem
        simp only [sent, ha, List.map_cons, List.map_nil, if_true, List.mem_singleton] at hb
        subst hb
        exact fun huse => by cases huse
      have htake : x.take = x.sweep.nextTake.map fun q => (q.1, false, q.2) := take_of_no_chunk (chunkWaiting_none hi)
      have hyi : y.op.interrupted = none := by
        show (if h.again then none else x.op.interrupted) = none
        rw [hi, ite_self]
      have hytake : y.take = x.sweep.nextTake.map fun q => (q.1, false, q.2.reframed sent (some f.interval) y.sweep.bands) := by
        rw [take_of_no_chunk (chunkWaiting_none hyi), hy, nextTake_reframed, Option.map_map]
        rfl
      have hasks : y.asks (s.pool.waiting.contains i) = true ↔ asks := by
        rw [asks_iff hyi (by rw [hy]; exact hmoves) (by rw [hy]; exact hsent), hy, nextTake_reframed]
        simp [asks, htake, Sweep.reframed, sent]
      have hyo : y.op.outstanding.isSome = true := rfl
      have hyworks : y.works = true := hworks
      have hyop : y.op = { x.op.sending (if write then .write h.chunk else .read h.chunk) s.now
          (if write then plan.writeTimeout else plan.readTimeout) with sentData := h.data } := by
        have hop' : x.ticked.sweep.chunkOp h.chunk = x.sweep.chunkOp h.chunk := rfl
        simp only [y, Slot.chunkSent, hop', hop]
        rw [hop] at htimeout
        rw [htimeout]
        simp [Slot.ticked, OpUnit.sending, hi, write]
      have hslot (e : Sweep) : ({ y with sweep := e } : Slot) = { x with
          sweep := e
          op := { x.op.sending (if write then .write h.chunk else .read h.chunk) s.now
              (if write then plan.writeTimeout else plan.readTimeout) with sentData := h.data } } := by
        rw [← hyop]
        rfl
      change pacingEnds _ s = engineGo i (s.engage i y s.pool s.work) at hends
      by_cases ha : asks
      · by_cases hfree : s.pool.free = 0
        · rw [engineGo_waits hyo hyworks hzone (hasks.2 ha) hfree] at hends
          obtain ⟨t, ht, hsame, hother, hti, hpool, hwork⟩ := left_engage (c := .pacingTick (s.stepEntry i)) (congrArg completed hends)
          refine ⟨t, y.sweep, ht, hother, by rw [hpool, hwork]; exact hsame, hti.trans (hslot y.sweep), fun hn => absurd ha hn,
            fun _ _ => ⟨hpool, hwork, hy⟩, fun _ _ _ _ hpos => absurd hfree hpos.ne'⟩
        · obtain ⟨q, hq⟩ := Option.isSome_iff_exists.1 (by simpa [htake] using ha.2.2)
          rw [hq] at hytake htake
          have hlen : y.sweep.hand.length = 1 := by
            have hroom := ha.1
            have hpos := List.length_pos_of_mem hmem
            rw [hy]
            simp only [Sweep.reframed, sent, List.length_map]
            omega
          have hlends := engineGo_lends (p := s.pool) (w := s.work) hyo hyworks hzone (hasks.2 ha) (Nat.pos_of_ne_zero hfree) hlen hytake
          rw [hlends] at hends
          have hwrite' : y.sweep.isWrite = decide write := hwrite
          rw [hwrite'] at hends
          obtain ⟨t, ht, hsame, hother, hti, hpool, hwork⟩ := left_engage (c := .pacingTick (s.stepEntry i)) (congrArg completed hends)
          refine ⟨t, _, ht, hother, by rw [hpool, hwork]; exact hsame, hti.trans (hslot _), fun hn => absurd ha hn,
            fun _ hzero => absurd hzero hfree, fun c again e' _ _ hx => ?_⟩
          obtain ⟨rfl, rfl, rfl⟩ : q.1 = c ∧ false = again ∧ q.2 = e' := by simpa [htake] using hx
          refine ⟨hpool, hwork.trans ?_, ?_⟩
          · simp [write]
          · simp [Sweep.reframed, lentChunk, write]
      · have hno : y.asks (s.pool.waiting.contains i) = false := by simpa using mt hasks.1 ha
        rw [engineGo_content hyo hno] at hends
        obtain ⟨t, ht, hsame, hother, hti, hpool, hwork⟩ := left_engage (c := .pacingTick (s.stepEntry i)) (congrArg completed hends)
        exact ⟨t, y.sweep, ht, hother, by rw [hpool, hwork]; exact hsame, hti.trans (hslot y.sweep), fun _ => ⟨hpool, hwork, hy⟩,
          fun hn => absurd hn ha, fun _ _ _ hn => absurd hn ha⟩
    · obtain ⟨-, hseek, -, hpaced⟩ := direction_of_fields hk
      have hunready : x.ticked.sweep.ready = false := by
        have hprepared : x.ticked.sweep.prepared = none := List.find?_eq_none.2 fun h hmem => by simpa using hno h hmem
        have hseek : x.ticked.sweep.isSeek = false := hseek
        rw [Sweep.ready, hseek, hprepared]
        rfl
      have hpace : x.ticked = { x with sweep := { x.sweep with pacing := some f.interval } } := by rw [Slot.ticked, hpaced]
      have hprep : x.ticked.inPreparation = true ↔ (x.take.isSome = true ∨ ∃ h ∈ x.sweep.hand, h.use = .filling) := by
        have htake : x.ticked.canTake = x.take.isSome := by
          rw [Slot.canTake, take_of_no_chunk (chunkWaiting_none (x := x.ticked) hi), take_of_no_chunk (chunkWaiting_none hi)]
          show Option.isSome (Option.map _ (x.sweep.reframed x.sweep.hand (some x.sweep.pace.2) x.sweep.bands).nextTake) = _
          rw [nextTake_reframed]
          simp
        rw [Slot.inPreparation, htake]
        simp [Slot.ticked]
      have hends := pacingEnds_free hp hm ho hi
      rw [if_neg (by rw [hunready]; nofun), hticked] at hends
      by_cases hmiss : x.ticked.inPreparation = true
      · rw [if_pos hmiss, missTick, engage_modAcc] at hends
        obtain ⟨t, ht, hsame, hother, hti, -⟩ := left_engage (c := .pacingTick (s.stepEntry i)) (congrArg completed hends)
        exact ⟨t, ht, hsame, hother, fun _ => hti.trans (by rw [hpace]; rfl), fun hn => absurd (hprep.1 hmiss) hn⟩
      · rw [if_neg hmiss] at hends
        obtain ⟨t, ht, hsame, hother, hti, -⟩ := left_engage (c := .pacingTick (s.stepEntry i)) (congrArg completed hends)
        exact ⟨t, ht, hsame, hother, fun hn => absurd (hprep.2 hn) hmiss, fun _ => hti.trans hpace⟩
    · have hends := pacingEnds_free hp hm ho hi
      have hseek : x.ticked.sweep.isSeek = true := by simp [Slot.ticked, Sweep.isSeek, Sweep.kindCode, x, hk]
      have hindex := takeIndex_seeks (e := x.ticked.sweep) hk hle hg
      have hready : x.ticked.sweep.ready = true := by rw [Sweep.ready, if_pos hseek, hindex]; rfl
      have hmoves : x.sweep.movesChunks = false := by simp [Sweep.movesChunks, Sweep.kindCode, hk]
      rw [if_pos hready, hticked, issueNext_seek (x := x.ticked) hplan hseek hindex, engineGo_content rfl] at hends
      · obtain ⟨t, ht, hsame, hother, hti, -⟩ := left_engage (c := .pacingTick (s.stepEntry i)) (congrArg completed hends)
        have hpace : x.sweep.pace.2 = f.interval := by simp [Sweep.pace, hk]
        refine ⟨t, _, _, ht, hsame, hother, rfl, rfl, hti.trans ?_⟩
        simp [Slot.ticked, OpUnit.sending, Sweep.seekLba, Sweep.range, hpace, hi]
      · simp [Slot.asks, Slot.ticked, Sweep.movesChunks, Sweep.kindCode, x, hk]
  · have hwait := chunkWaiting_of_none hno
    rw [take_of_no_chunk hwait]
    refine ⟨fun c rest hr => ?_, fun hr k e' ht => ?_, fun hr ht => ?_⟩
    · simp [Sweep.nextTake, hr]
    · simp [Sweep.nextTake, hr, ht]
    · simp [Sweep.nextTake, hr, ht]
  · obtain ⟨hfields, hseek, -, -⟩ := direction_of_fields hk
    have hdirection : e.direction = f.direction := by simp [Sweep.direction, hfields]
    have hendless : e.endless = (f.continuous || decide (f.direction = .fixed)) := by
      simp [Sweep.endless, hfields, SweepFields.endless]
    rw [← hdirection] at hendless ⊢
    refine ⟨fun hd => ⟨takeIndex_upward hg hseek hd, fun hlo hc => takeIndex_none ?_ ?_, fun hlo hc => ?_⟩, takeIndex_fixed hg,
      fun hd => ⟨takeIndex_low hg hseek hd, takeIndex_high hg hseek hd, fun hlt hc => takeIndex_none ?_ ?_, fun hlt hc => ?_⟩⟩
    · rw [lapDone_upward hg hd, decide_eq_true hlo]
    · rcases hd with hd | hd <;> simp [hendless, hd, hc]
    · have hnew : e.rewound.lapDone = false := by
        rw [lapDone_upward (e := e.rewound) hg hd]
        exact decide_eq_false (Nat.not_le.2 hg)
      rw [takeIndex_rewound (by rw [lapDone_upward hg hd, decide_eq_true hlo]) (by rw [hendless, hc]; rfl) hnew]
      exact takeIndex_upward (e := e.rewound) hg hseek hd hg
    · rw [lapDone_butterfly hg hd, decide_eq_true hlt]
    · simp [hendless, hd, hc]
    · have hnew : e.rewound.lapDone = false := by
        rw [lapDone_butterfly (e := e.rewound) hg hd]
        exact decide_eq_false (Nat.not_lt.2 (Nat.zero_le _))
      rw [takeIndex_rewound (by rw [lapDone_butterfly hg hd, decide_eq_true hlt]) (by rw [hendless, hc]; rfl) hnew]
      exact takeIndex_low (e := e.rewound) hg hseek hd (Nat.zero_le _) rfl

end Sys2Proof.Proofs
end

section
/-! SUPPORT. The recovery ladder: what each of its stages makes of the record (R79, R81, R83), and the completions that lead back (R80,
R82). -/

namespace Sys2Proof.Machine

/-! ### Buffers that return to others (R98, R99) -/

theorem lend_sweep (i : Fin 16) (s : State) : ∃ e, (lend i s).slot i = { s.slot i with sweep := e } := by
  unfold lend
  simp only
  split
  · split
    · exact ⟨_, rfl⟩
    · split <;> exact ⟨_, slot_setSlot_same ..⟩
  · exact ⟨_, rfl⟩

/-- A buffer that goes to a slot outside ACTIVE changes no more of its record than its engine. -/
theorem returnBuffers_sweep {n : Nat} {s : State} {i : Fin 16} (h : (s.slot i).state ≠ .active) :
    ∃ e, (returnBuffers n s).slot i = { s.slot i with sweep := e } := by
  induction n generalizing s with
  | zero => exact ⟨_, rfl⟩
  | succ n ih =>
    have hone : ∃ e, (returnBuffer s).slot i = { s.slot i with sweep := e } := by
      unfold returnBuffer
      split
      · exact ⟨_, rfl⟩
      · rename_i j rest _
        have hlent : ∃ e, (lend j (s.withPool { s.pool with waiting := rest })).slot i = { s.slot i with sweep := e } := by
          by_cases hj : i = j
          · subst hj
            exact lend_sweep i _
          · exact ⟨_, lend_slot_ne _ _ hj⟩
        by_cases hj : i = j
        · subst hj
          obtain ⟨e, he⟩ := hlent
          rw [engineGo_idle (by simp [State.mayWork, he, h])]
          exact ⟨e, he⟩
        · rw [engineGo_slot_ne _ _ hj]
          exact hlent
    obtain ⟨e, he⟩ := hone
    obtain ⟨e', he'⟩ := ih (s := returnBuffer s) (by rw [he]; exact h)
    exact ⟨e', by rw [returnBuffers, he', he]⟩

theorem dropChunks_sweep {s : State} {i : Fin 16} (h : (s.slot i).state ≠ .active) (gone : InHand → Bool) :
    ∃ e, (dropChunks i gone s).slot i = { s.slot i with sweep := e } := by
  obtain ⟨e, he⟩ := returnBuffers_sweep (n := ((s.slot i).sweep.hand.filter gone).length) (i := i)
    (s := endWork i (((s.slot i).sweep.hand.filter gone).map InHand.lending)
      (s.modSweep i fun e => { e with hand := e.hand.filter fun h => !gone h }))
    (by simpa [endWork, State.modSweep] using h)
  exact ⟨e, he.trans (by simp [endWork, State.modSweep])⟩

theorem quiet_planOf {s t : State} (h : Quiet s t) {i : Fin 16} (hp : (t.slot i).plan = (s.slot i).plan) : t.planOf i = s.planOf i := by
  have hplans : t.plans = s.plans := by rw [h.rest]
  have hat : t.planAt = s.planAt := funext fun p => by rw [State.planAt, hplans]; rfl
  rw [State.planOf, hp, hat]
  rfl

/-! ### Expiries (R76 to R84) -/

/-- The record of a slot whose operation has expired, before the ladder acts (R76, R106). -/
def Slot.expired (x : Slot) : Slot :=
  { x with
    op := x.op.closed, acc := { x.acc with e := sat32 x.acc.e 1 }, sweep := { x.sweep with bands := x.sweep.bands.map Band.stopped } }

section
variable {i : Fin 16} {op : Op} {cause : Cause} {s : State} (hh : (s.slot i).state.holdsOp = true)

theorem expire_closed : expire i op cause (s.modOp i OpUnit.closed) = expire i op cause s := by
  have htwice : (s.modOp i OpUnit.closed).modOp i OpUnit.closed = s.modOp i OpUnit.closed := by
    simp [State.modOp, State.modSlot, OpUnit.closed]
  rw [expire, htwice, expire]

include hh

/-- The ladder acts by the stage (R76). -/
theorem expire_eq : expire i op cause s =
    if (s.slot i).op.stage = 0 then enterStage1 i op cause (s.modSlot i Slot.expired)
    else if (s.slot i).op.stage = 1 then enterStage2 i op cause (s.modSlot i Slot.expired)
    else rejectRun i .unresponsive (raiseEscalation i .last op cause (s.modSlot i Slot.expired)) := by
  have hexpired : voidRunning i ((s.modOp i OpUnit.closed).modAcc i fun a => { a with e := sat32 a.e 1 }) = s.modSlot i Slot.expired := by
    simp [voidRunning, State.modOp, State.modAcc, State.modSweep, State.modSlot, Slot.expired]
  have hheld : ((s.modOp i OpUnit.closed).slot i).state.holdsOp = true := by
    rw [State.modOp, slot_modSlot_same]
    exact hh
  rw [expire, if_pos hheld, hexpired]
  simp only [slot_modSlot_same]
  rfl

/-- The first expiry in a step: RECOVERING, with DRIVE RESET issued (R79). -/
theorem expire_stage1 {plan : Plan} (hplan : s.planOf i = some plan) (hstage : (s.slot i).op.stage = 0) :
    ∃ e, (expire i op cause s).slot i = { s.slot i with
        state := .recovering, acc := { (s.slot i).acc with e := sat32 (s.slot i).acc.e 1 }, sweep := e
        op := { (s.slot i).op.sending .driveReset s.now plan.readTimeout with
          stage := 1, interrupted := (s.slot i).op.interrupting op
          returnTo := some (if (s.slot i).state = .spinning then .spinning else .active) } } ∧
      (expire i op cause s).line =
        s.line.raised i.val (.escalation .one op cause (s.slot i).exec.index (sat32 (s.slot i).acc.e 1)) ∧
      (expire i op cause s).lots = s.lots := by
  rw [expire_eq hh, if_pos hstage, enterStage1]
  set u := (s.modSlot i Slot.expired).modSlot i (Slot.stage1 op) with hu
  have hui : u.slot i = (s.slot i).expired.stage1 op := by rw [hu, slot_modSlot_same, slot_modSlot_same]
  obtain ⟨e, he⟩ := dropChunks_sweep (s := u) (i := i) (by rw [hui]; simp [Slot.stage1]) fun h => decide (h.use = .inFlight)
  have hquiet := quiet_dropChunks i (fun h => decide (h.use = .inFlight)) u
  generalize dropChunks i (fun h => decide (h.use = .inFlight)) u = v at he hquiet
  have hvplan : v.planOf i = some plan := by
    rw [quiet_planOf hquiet (by rw [he])]
    simp only [State.planOf, hui]
    exact hplan
  have hnow : v.now = s.now := by rw [hquiet.rest]; rfl
  refine ⟨e, ?_, ?_, ?_⟩
  · simp only [raiseEscalation, raise, withLine_slot, issue_planned hvplan, State.modOp, slot_modSlot_same, he, hui, hnow]
    rfl
  · simp only [raiseEscalation, raise, withLine_line, issue_planned hvplan, State.modOp, slot_modSlot_same, he, hui, modSlot_line,
      quiet_line hquiet]
    rfl
  · simp only [raiseEscalation, raise, withLine_lots, issue_planned hvplan, State.modOp, modSlot_lots, quiet_lots hquiet]
    rfl

/-- The second expiry: CYCLING, with the power and every buffer gone (R81). -/
theorem expire_stage2 {plan : Plan} (hplan : s.planOf i = some plan) (hstage : (s.slot i).op.stage = 1) :
    (∃ e, (expire i op cause s).slot i = { s.slot i with
        state := .cycling, powered := false, spun := false, acc := { (s.slot i).acc with e := sat32 (s.slot i).acc.e 1 }, sweep := e
        op := { (s.slot i).op.closed with
          stage := 2, interrupted := (s.slot i).op.interrupting op, returnTo := none, offTimer := some (plan.offTime * 1000) } } ∧
      e.hand = []) ∧ i ∉ (expire i op cause s).pool.waiting ∧
      (expire i op cause s).line =
        s.line.raised i.val (.escalation .two op cause (s.slot i).exec.index (sat32 (s.slot i).acc.e 1)) ∧
      (expire i op cause s).lots = s.lots ∧ Settled (expire i op cause s) := by
  have hone : ¬ (s.slot i).op.stage = 0 := by rw [hstage]; decide
  rw [expire_eq hh, if_neg hone, if_pos hstage, enterStage2]
  have htime : (((s.modSlot i Slot.expired).planOf i).map Plan.offTime).getD 0 = plan.offTime := by
    have : (s.modSlot i Slot.expired).planOf i = some plan := by
      simp only [State.planOf, slot_modSlot_same]
      exact hplan
    rw [this]
    rfl
  rw [htime]
  set u := (s.modSlot i Slot.expired).modSlot i (Slot.stage2 op plan.offTime) with hu
  have hui : u.slot i = (s.slot i).expired.stage2 op plan.offTime := by rw [hu, slot_modSlot_same, slot_modSlot_same]
  obtain ⟨hslot, hwait⟩ := dropChunks_slot i (fun _ => true) (leaveBufferList i u) (leaveBufferList_waiting i u)
  have hquiet := Quiet.trans (quiet_leaveBufferList i u) (quiet_dropChunks i (fun _ => true) (leaveBufferList i u))
  generalize dropChunks i (fun _ => true) (leaveBufferList i u) = v at hslot hwait hquiet
  have hleft : (leaveBufferList i u).slot i = u.slot i := rfl
  rw [hleft, hui] at hslot
  have hadm : (admission v).slot i = v.slot i := admission_slot v i (by rw [hslot]; simp [Slot.stage2])
  refine ⟨⟨(v.slot i).sweep, ?_, ?_⟩, ?_, ?_, ?_, settled_raise (settled_admission v) _ _⟩
  · simp only [raiseEscalation, raise, withLine_slot, hadm, hslot]
    rfl
  · rw [hslot]
    simp
  · simpa only [raiseEscalation, raise, withLine_pool, admission_pool] using hwait
  · simp only [raiseEscalation, raise, withLine_line, hadm, hslot, admission_line, quiet_line hquiet]
    rfl
  · simp only [raiseEscalation, raise, withLine_lots, admission_lots, quiet_lots hquiet]
    rfl

/-- The third expiry ends the run in REJECT (R83). -/
theorem expire_last (hstage : 2 ≤ (s.slot i).op.stage) :
    (∃ e, (expire i op cause s).slot i = { s.slot i with
        state := .done, outcome := some .reject, reason := .unresponsive, grade := none, powered := false, spun := false
        acc := { (s.slot i).acc with e := sat32 (s.slot i).acc.e 1 }, sweep := e
        exec := { (s.slot i).exec with phase := .idle, timer := none }
        op := { (s.slot i).op.closed with returnTo := none, interrupted := none, offTimer := none } } ∧ e.hand = []) ∧
      i ∉ (expire i op cause s).pool.waiting ∧
      (expire i op cause s).line =
        (s.line.raised i.val (.escalation .last op cause (s.slot i).exec.index (sat32 (s.slot i).acc.e 1))).raised i.val
          (.slotGraded (.ended .reject) .unresponsive none (s.slot i).retests none) ∧
      (expire i op cause s).lots = s.lots ∧ Settled (expire i op cause s) := by
  rw [expire_eq hh, if_neg (by omega), if_neg (by omega)]
  set u := raiseEscalation i .last op cause (s.modSlot i Slot.expired) with hu
  have hui : u.slot i = (s.slot i).expired := by
    rw [hu, raiseEscalation, raise, withLine_slot, slot_modSlot_same]
  obtain ⟨hslot, hwait⟩ := rejectRun_slot i .unresponsive u
  obtain ⟨hline, hlots⟩ := rejectRun_line i .unresponsive u
  rw [hui] at hslot hline
  refine ⟨⟨_, hslot, rfl⟩, hwait, hline.trans ?_, hlots, settled_rejectRun _ _ _⟩
  simp only [hu, raiseEscalation, raise, withLine_line, slot_modSlot_same]
  rfl

end

/-! ### The way back (R80, R82) -/

theorem handle_driveReset {i : Fin 16} {c : Completion} {ms : Nat} {s : State} (hs : c.status = .done) :
    handle i .driveReset c ms s = driveResetDone i (s.modOp i OpUnit.closed) := by
  simp [handle, readCompletion, hs]

theorem handle_spin {i : Fin 16} {c : Completion} {ms : Nat} {s : State} (hs : c.status = .done) :
    handle i .spin c ms s = spinDone i (s.modOp i OpUnit.closed) := by
  simp [handle, readCompletion, hs]

theorem modOp_eq_engage (s : State) (i : Fin 16) (f : OpUnit → OpUnit) :
    s.modOp i f = s.engage i { s.slot i with op := f (s.slot i).op } s.pool s.work := rfl

theorem resumeWork_idle {s : State} {i : Fin 16} (h : s.mayWork i = false) : resumeWork i s = s := by
  simp [resumeWork, h]

section
variable {s : State} {i : Fin 16} {x : Slot} {p : Pool} {w : List Work} {plan : Plan}

theorem driveResetDone_spinning (hplan : x.plan.bind s.planAt = some plan) (hx : x.state = .recovering)
    (hr : x.op.returnTo = some .spinning) : driveResetDone i (s.engage i x p w) = s.engage i { x with
      state := .spinning
      op := { x.op with returnTo := none, interrupted := none }.sending .spin s.now (plan.spinTimeout * 1000) } p w := by
  simp only [driveResetDone, engage_slot_same, hx, hr, if_true, engage_modSlot]
  exact issue_engage (x := { x with state := .spinning, op := { x.op with returnTo := none, interrupted := none } }) hplan _ _

theorem driveResetDone_active (hx : x.state = .recovering) (hr : x.op.returnTo = some .active) :
    driveResetDone i (s.engage i x p w) =
      let t := s.engage i { x with state := .active, op := { x.op with returnTo := none } } p w
      if x.exec.phase = .draining then returnDraining i t else resumeWork i t := by
  simp only [driveResetDone, engage_slot_same, hx, hr, if_true, engage_modSlot]

/-- Back to ACTIVE a step that is no sweep issues the interrupted operation again (R80, R82). -/
theorem resumeWork_again {op : Op} (hplan : x.plan.bind s.planAt = some plan) (hx : x.works = true) (hz : s.zoneHold i = false)
    (he : x.sweep.step = none) (ho : x.op.outstanding = none) (hi : x.op.interrupted = some op) :
    resumeWork i (s.engage i x p w) = s.engage i { x with
      op := { x.op with interrupted := none }.sending op s.now (opTimeout plan op) } p w := by
  rw [resumeWork_interrupted (by rw [mayWork_engage, hx, hz]; rfl) (by rw [engage_slot_same]; exact he)
    (by rw [engage_slot_same]; exact ho) (by rw [engage_slot_same]; exact hi), engage_modOp]
  exact issue_engage (x := { x with op := { x.op with interrupted := none } }) hplan _ _

end

end Sys2Proof.Machine
end

section
/-! The statement about the recovery ladder (O55). -/

namespace Sys2Proof.Proofs

open Sys2Proof Sys2Proof.Machine

/-- A command of O55's first part is an expiry of the operation outstanding (R73, R76). -/
theorem exec_expires {i : Fin 16} {op : Op} {command : Instr} {cause : Cause} {s : State} (ho : (s.slot i).op.outstanding = some op)
    (h : (command = .timeoutExpiry ⟨i, (s.slot i).op.tag⟩ ∧ cause = .timeout) ∨
      ∃ c : Completion, command = .completion i (.record c) ∧ c.tag = (s.slot i).op.tag ∧ c.status = .error ∧
        (((c.error = .interface ∨ c.error = .none) ∧ cause = .interface) ∨
          (c.error = .media ∧ cause = .media ∧ op ∈ [Op.spin, .ident, .health, .standby, .driveReset]))) :
    exec command s = completed (expire i op cause s) ∧ Untouched s (expire i op cause s) := by
  refine ⟨?_, moves_untouched (moves_expire (strict := true) i op cause s)⟩
  rcases h with ⟨rfl, rfl⟩ | ⟨c, rfl, htag, hstatus, h⟩
  · refine congrArg completed ?_
    simp only [timeoutEnds, ho, if_true]
  · refine congrArg completed ((completionArrives_matched ho htag).trans ?_)
    rcases h with ⟨herror, rfl⟩ | ⟨herror, rfl, hop⟩
    · have hread : readCompletion (s.slot i) op c = .interface := by
        rcases herror with e | e <;> simp [readCompletion, hstatus, e]
      simp only [handle, hread, expire_closed]
    · simp only [List.mem_cons, List.not_mem_nil, or_false] at hop
      rcases hop with rfl | rfl | rfl | rfl | rfl <;> simp only [handle, readCompletion, hstatus, herror, expire_closed]

/-- Settles O55: each stage of the ladder by its own lemma, and the way back by what the returned slot issues. -/
theorem timeoutClimbsTheLadder : Obligations.TimeoutClimbsTheLadder := by
  refine ⟨fun i op plan command cause s ho hplan hm hcommand => ?_, fun i tag s hidle => ?_, fun i plan c s hplan htag hs => ?_⟩
  · intro x e interrupted escalation
    obtain ⟨hexec, huntouched⟩ := exec_expires ho hcommand
    have hh := holdsOp_of_mem hm
    have hstage : x.op.stage = 0 ∨ x.op.stage = 1 ∨ 2 ≤ x.op.stage := by omega
    rcases hstage with hstage | hstage | hstage
    · obtain ⟨e, hslot, hline, hlots⟩ := expire_stage1 (op := op) (cause := cause) hh hplan hstage
      exact ⟨_, e, hexec, untouched_refreshLamps huntouched, hlots, fun _ => ⟨hslot, hline⟩, fun h => by omega, fun h => by omega⟩
    · obtain ⟨⟨e, hslot, hhand⟩, hwait, hline, hlots, hsettled⟩ := expire_stage2 (op := op) (cause := cause) hh hplan hstage
      exact ⟨_, e, hexec, untouched_refreshLamps huntouched, hlots, fun h => by omega,
        fun _ => ⟨hslot, hhand, hwait, hline, admission_of_settled (settled_refreshLamps hsettled)⟩, fun h => by omega⟩
    · obtain ⟨⟨e, hslot, hhand⟩, hwait, hline, hlots, hsettled⟩ := expire_last (op := op) (cause := cause) hh hstage
      exact ⟨_, e, hexec, untouched_refreshLamps huntouched, hlots, fun h => by omega, fun h => by omega,
        fun _ => ⟨hslot, hhand, hwait, admission_of_settled (settled_refreshLamps hsettled), hline⟩⟩
  · refine congrArg completed ?_
    rcases hidle with h | h
    · simp only [timeoutEnds, h]
    · simp only [timeoutEnds, if_neg h]
      split <;> rfl
  · intro x closed left
    have huntouched := untouched_refreshLamps (moves_untouched (moves_completionArrives (strict := true) i (.record c) s))
    have hends {y : Slot} (h : completionArrives i (.record c) s = s.engage i y s.pool s.work) : ∃ t, left t ∧ t.slot i = y := by
      rw [h] at huntouched
      exact ⟨_, ⟨congrArg completed h, huntouched, rfl, rfl⟩, engage_slot_same s i y s.pool s.work⟩
    refine ⟨fun hx ho => ?_, fun hx ho hphase hstep hi hheld hz => ?_⟩
    · have harrives : completionArrives i (.record c) s = driveResetDone i (s.engage i { x with op := closed } s.pool s.work) :=
        (completionArrives_matched ho htag).trans (handle_driveReset hs)
      refine ⟨fun hr => ?_, fun hr hstep hi hphase => ?_, fun hr hphase hhand => ?_⟩
      · exact hends (harrives.trans (driveResetDone_spinning (x := { x with op := closed }) hplan hx hr))
      · have hresumes := harrives.trans (driveResetDone_active (x := { x with op := closed }) hx hr)
        simp only [hphase] at hresumes
        refine ⟨fun hheld hz => hends (hresumes.trans ?_), fun hpause => hends (hresumes.trans ?_)⟩
        · exact resumeWork_again (x := { x with state := .active, op := { closed with returnTo := none } }) hplan
            ((works_iff _).2 ⟨rfl, hphase, hheld⟩) (zoneHold_eq_false hz) hstep rfl hi
        · have hidle : (x.held || s.zoneHold i) = true := by
            rcases hpause with h | h
            · rw [h]; rfl
            · simp [State.zoneHold, h]
          refine resumeWork_idle ?_
          rw [State.mayWork, paused_engage]
          show (_ && !(x.held || s.zoneHold i)) = false
          rw [hidle]
          exact Bool.and_false _
      · have hreturns := harrives.trans (driveResetDone_active (x := { x with op := closed }) hx hr)
        simp only [hphase, if_true, returnDraining, engage_modOp] at hreturns
        exact hends (hreturns.trans (endIfEnded_goes_on (by rw [engage_slot_same]; exact sweepOver_of_hand hhand)))
    · have harrives : completionArrives i (.record c) s = spinDone i (s.engage i { x with op := closed } s.pool s.work) :=
        (completionArrives_matched ho htag).trans (handle_spin hs)
      set u := s.engage i { x with op := closed, state := .active, spun := true } s.pool s.work with hu
      have hui : u.slot i = { x with op := closed, state := .active, spun := true } := engage_slot_same ..
      have hvi : (admission u).slot i = { x with op := closed, state := .active, spun := true } :=
        (admission_slot u i (by rw [hui]; exact nofun)).trans hui
      have hspins : spinDone i (s.engage i { x with op := closed } s.pool s.work) = resumeWork i (admission u) := by
        simp only [spinDone, engage_slot_same, hx, if_true, engage_modSlot]
        rw [← hu, hvi]
        simp only [hphase]
      have hvplan : (admission u).planOf i = some plan := by
        rw [admission_planOf u i (by rw [hui]; exact nofun), hu, engage_planOf]
        exact hplan
      have hm : (admission u).mayWork i = true := by
        refine mayWork_of (by rw [hvi]) (by rw [hvi]; exact hphase) (paused_eq_false (by rw [hvi]; exact hheld) ?_)
        rw [admission_zone]
        exact hz
      have hnow : (admission u).now = s.now := (moves_untouched (moves_admission (strict := true) u)).now
      have hresumes := resumeWork_interrupted (op := .standby) hm (by rw [hvi]; exact hstep) (by rw [hvi]) (by rw [hvi]; exact hi)
      rw [← hspins, ← harrives, issue_planned (plan := plan) (by rw [State.modOp, State.planOf, slot_modSlot_same]; exact hvplan)] at hresumes
      have hsettled : Settled (completionArrives i (.record c) s) := by
        rw [hresumes]
        exact settled_quiet (quiet_modOp _ _ _ rfl) (settled_quiet (quiet_modOp _ _ _ rfl) (settled_admission u))
      rw [hresumes] at huntouched
      refine ⟨_, ⟨congrArg completed hresumes, huntouched, admission_line u, admission_lots u⟩, ?_, ?_⟩
      · rw [← hresumes]
        exact admission_of_settled (settled_refreshLamps hsettled)
      · simp only [refreshLamps_slot, State.modOp, slot_modSlot_same, hvi, modSlot_now, hnow]
        rfl

end Sys2Proof.Proofs
end

section
/-! SUPPORT. The completions of a sweep: what they make of the record, the pool and the work (R69, R70, R72, R95, R101), the bands (R105
to R107), and what the engine does behind them (R91, R92, R97). -/

namespace Sys2Proof.Machine

/-! ### Bands (R106, R107) -/

/-- The band entries behind the last completion of a chunk of one band (R106). -/
def Sweep.bandsAfter (b : Fin 16) (e : Sweep) : Vector Band 16 :=
  e.bands.set b (match (e.bands.get b).state with
    | .running _ =>
      if (e.bands.get b).left - 1 = 0 then { e.bands.get b with state := .timed, left := 0 }
      else { e.bands.get b with left := (e.bands.get b).left - 1 }
    | _ => { e.bands.get b with left := (e.bands.get b).left - 1 })

/-- The worst band rate behind the last completion of a chunk of one band (R107). -/
def Sweep.rateAfter (b : Fin 16) (now : Nat) (e : Sweep) (worst : Option Nat) : Option Nat :=
  match (e.bands.get b).state with
  | .running start =>
    if (e.bands.get b).left - 1 = 0 then foldRate (bandRate (e.bands.get b).sectors (now - start)) worst else worst
  | _ => worst

/-- The record of a slot whose chunk has counted for its band. -/
def Slot.bandDone (b : Fin 16) (now : Nat) (x : Slot) : Slot :=
  { x with
    acc := { x.acc with worstBand := x.sweep.rateAfter b now x.acc.worstBand }
    sweep := { x.sweep with bands := x.sweep.bandsAfter b } }

/-- The record of a slot whose operation has been completed, its chunk counted and gone. -/
def Slot.landed (acc : Accum) (bands : Vector Band 16) (x : Slot) : Slot :=
  { x with
    op := x.op.closed, acc := acc
    sweep := { x.sweep with bands := bands, hand := x.sweep.hand.filter fun h => decide (h.use ≠ .inFlight) } }

/-- The record of a slot whose chunk has been handed to the pattern unit (R101). -/
def Slot.checking (acc : Accum) (bands : Vector Band 16) (sectors : Nat) (x : Slot) : Slot :=
  { x with
    op := x.op.closed, acc := acc
    sweep := { x.sweep with
      bands := bands
      hand := x.sweep.hand.map fun h =>
        if h.use = .inFlight then { h with use := .checking, chunk := { h.chunk with count := sectors } } else h } }

/-- The record of a slot whose READ has met a failing sector, before its sectors are counted (R72). -/
def Slot.failedRead (k : Chunk) (residual corrected : Nat) (x : Slot) : Slot :=
  { x with
    op := x.op.closed
    acc := { x.acc with u := sat32 x.acc.u 1, c := sat64 x.acc.c (min corrected (k.count - residual)) } }

/-- The chunks of a slot in flight. -/
def Sweep.flying (e : Sweep) : List InHand := e.hand.filter fun h => decide (h.use = .inFlight)

theorem filter_notFlying (l : List InHand) :
    (l.filter fun h => !decide (h.use = .inFlight)) = l.filter fun h => decide (h.use ≠ .inFlight) :=
  List.filter_congr fun h _ => by simp

theorem workLeft_eq (i : Fin 16) (gone : List InHand) (w : List Work) :
    workLeft i gone w = w.filter fun v => decide (¬ (v.slot = i ∧ v.lending ∈ gone.map InHand.lending)) :=
  List.filter_congr fun v _ => by rw [Bool.eq_iff_iff]; simp

section
variable {s : State} {i : Fin 16} {x : Slot} {p : Pool} {w : List Work} {k : Chunk}

theorem bandCompletion_engage (b : Fin 16) : bandCompletion i b (s.engage i x p w) = s.engage i (x.bandDone b s.now) p w := by
  unfold bandCompletion Slot.bandDone Sweep.bandsAfter Sweep.rateAfter
  simp only [engage_slot_same]
  cases hb : (x.sweep.bands.get b).state with
  | running start =>
    simp only
    split <;> simp
  | void | notStarted | timed => simp

theorem readTransferred_returns {n : Nat} (hw : p.waiting = [])
    (h : (x.sweep.verifies && decide (0 < x.exec.pass) && decide (0 < n)) = false) :
    readTransferred i n (s.engage i x p w) = s.engage i { x with
        acc := { x.acc with s := if x.sweep.verifies then x.acc.s else sat64 x.acc.s n }
        sweep := { x.sweep with hand := x.sweep.hand.filter fun h => decide (h.use ≠ .inFlight) } }
      { p with free := p.free + x.sweep.flying.length } (workLeft i x.sweep.flying w) := by
  simp only [readTransferred, engage_slot_same, h, Bool.false_eq_true, if_false]
  cases hv : x.sweep.verifies with
  | true =>
    simp only [if_true]
    rw [dropChunks_free hw, filter_notFlying]
    rfl
  | false =>
    simp only [Bool.false_eq_true, if_false, engage_modAcc]
    rw [dropChunks_free hw, filter_notFlying]
    rfl

theorem readTransferred_checks {n : Nat} (h : (x.sweep.verifies && decide (0 < x.exec.pass) && decide (0 < n)) = true) :
    readTransferred i n (s.engage i x p w) = s.engage i { x with
        sweep := { x.sweep with hand := x.sweep.hand.map fun h =>
          if h.use = .inFlight then { h with use := .checking, chunk := { h.chunk with count := n } } else h } }
      p (w ++ x.sweep.flying.map fun h => { slot := i, lending := h.lending, check := true }) := by
  simp only [readTransferred, engage_slot_same, h, if_true, engage_modSweep, engage_withWork, engage_work, List.map_map]
  rfl

end

/-! ### Completions (R69 to R72) -/

theorem handle_done {i : Fin 16} {op : Op} {c : Completion} {ms : Nat} {s : State} (hread : readCompletion (s.slot i) op c = .done)
    (ha : (s.slot i).state = .active) (hs : op ≠ .spin) (hr : op ≠ .driveReset) :
    handle i op c ms s = workDone i op c ms (s.engage i { s.slot i with op := (s.slot i).op.closed } s.pool s.work) := by
  have hactive : ((s.modOp i OpUnit.closed).slot i).state = .active := by
    rw [State.modOp, slot_modSlot_same]
    exact ha
  simp only [handle, hread, hactive, if_true]
  cases op with
  | spin => exact absurd rfl hs
  | driveReset => exact absurd rfl hr
  | _ => rfl

section
variable {s : State} {i : Fin 16} {c : Completion} {k : Chunk} (ht : c.tag = (s.slot i).op.tag) (ha : (s.slot i).state = .active)
include ht ha

theorem completion_write (hs : c.status = .done) (ho : (s.slot i).op.outstanding = some (.write k)) (hw : s.pool.waiting = []) :
    completionArrives i (.record c) s = sweepOn i (s.engage i ((s.slot i).landed
        { (s.slot i).acc with worstBand := (s.slot i).sweep.rateAfter k.band s.now (s.slot i).acc.worstBand }
        ((s.slot i).sweep.bandsAfter k.band))
      { s.pool with free := s.pool.free + (s.slot i).sweep.flying.length } (workLeft i (s.slot i).sweep.flying s.work)) := by
  rw [completionArrives_matched ho ht, handle_done (op := .write k) (by simp [readCompletion, hs]) ha nofun nofun, workDone, dropChunks_free hw,
    bandCompletion_engage, filter_notFlying]
  rfl

section
variable (ho : (s.slot i).op.outstanding = some (.read k))
include ho

theorem completion_read (hs : c.status = .done) (hcov : (s.slot i).covers k.count = true) :
    completionArrives i (.record c) s = sweepOn i (readTransferred i k.count (s.engage i (({ s.slot i with
        op := (s.slot i).op.closed
        acc := { (s.slot i).acc with c := sat64 (s.slot i).acc.c (min c.corrected k.count) } } : Slot).bandDone k.band s.now)
      s.pool s.work)) := by
  rw [completionArrives_matched ho ht, handle_done (op := .read k) (by simp [readCompletion, hs, hcov]) ha nofun nofun]
  simp only [workDone, engage_modAcc, bandCompletion_engage]

/-- A READ whose sectors are not checked counts them unless it verifies, and its buffer returns (R70). -/
theorem completion_read_returns (hs : c.status = .done) (hcov : (s.slot i).covers k.count = true) (hw : s.pool.waiting = [])
    (h : ((s.slot i).sweep.verifies && decide (0 < (s.slot i).exec.pass) && decide (0 < k.count)) = false) :
    completionArrives i (.record c) s = sweepOn i (s.engage i ((s.slot i).landed
        { (s.slot i).acc with
          c := sat64 (s.slot i).acc.c (min c.corrected k.count)
          s := if (s.slot i).sweep.verifies then (s.slot i).acc.s else sat64 (s.slot i).acc.s k.count
          worstBand := (s.slot i).sweep.rateAfter k.band s.now (s.slot i).acc.worstBand }
        ((s.slot i).sweep.bandsAfter k.band))
      { s.pool with free := s.pool.free + (s.slot i).sweep.flying.length } (workLeft i (s.slot i).sweep.flying s.work)) := by
  rw [completion_read ht ha ho hs hcov, readTransferred_returns hw (by exact h)]
  rfl

/-- A READ whose sectors are checked hands its buffer to the pattern unit (R101). -/
theorem completion_read_checks (hs : c.status = .done) (hcov : (s.slot i).covers k.count = true)
    (h : ((s.slot i).sweep.verifies && decide (0 < (s.slot i).exec.pass) && decide (0 < k.count)) = true) :
    completionArrives i (.record c) s = sweepOn i (s.engage i ((s.slot i).checking
        { (s.slot i).acc with
          c := sat64 (s.slot i).acc.c (min c.corrected k.count)
          worstBand := (s.slot i).sweep.rateAfter k.band s.now (s.slot i).acc.worstBand }
        ((s.slot i).sweep.bandsAfter k.band) k.count)
      s.pool (s.work ++ (s.slot i).sweep.flying.map fun h => { slot := i, lending := h.lending, check := true })) := by
  rw [completion_read ht ha ho hs hcov, readTransferred_checks (by exact h)]
  rfl

/-- Checked or not, a READ's completion counts for its band (R106, R107). -/
theorem completion_read_counts (hs : c.status = .done) (hcov : (s.slot i).covers k.count = true) (hw : s.pool.waiting = []) :
    ∃ y p w, completionArrives i (.record c) s = sweepOn i (s.engage i y p w) ∧ y.sweep.bands = (s.slot i).sweep.bandsAfter k.band ∧
      y.acc.worstBand = (s.slot i).sweep.rateAfter k.band s.now (s.slot i).acc.worstBand ∧ y.exec = (s.slot i).exec ∧
      y.sweep.step = (s.slot i).sweep.step ∧ y.sweep.redo = (s.slot i).sweep.redo := by
  cases h : ((s.slot i).sweep.verifies && decide (0 < (s.slot i).exec.pass) && decide (0 < k.count)) with
  | true => exact ⟨_, _, _, completion_read_checks ht ha ho hs hcov h, rfl, rfl, rfl, rfl, rfl⟩
  | false => exact ⟨_, _, _, completion_read_returns ht ha ho hs hcov hw h, rfl, rfl, rfl, rfl, rfl⟩

end

/-- A seek counts as made, and as late where it took longer than its limit (R95, R96). -/
theorem completion_seek {f : SeekFields} {lba : Nat} (hs : c.status = .done) (ho : (s.slot i).op.outstanding = some (.seek lba))
    (hk : (s.slot i).sweep.step = some (.seekSweep f)) : completionArrives i (.record c) s = sweepOn i (s.engage i { s.slot i with
        op := (s.slot i).op.closed
        acc := { (s.slot i).acc with
          l := sat32 (s.slot i).acc.l (if f.limit < s.now - (s.slot i).op.issuedAt then 1 else 0) }
        sweep := { (s.slot i).sweep with remaining := (s.slot i).sweep.remaining - 1 } } s.pool s.work) := by
  have hlimit : (s.slot i).sweep.seekLimit = f.limit := by rw [Sweep.seekLimit, hk]
  rw [completionArrives_matched ho ht, handle_done (op := .seek lba) (by simp [readCompletion, hs]) ha nofun nofun]
  simp only [workDone, engage_slot_same, hlimit, engage_modAcc, seekMade, engage_modSweep]

/-- An ERROR MEDIA of a seek counts a defect and the seek as made (R72, R95). -/
theorem completion_seek_media {lba : Nat} (hs : c.status = .error) (he : c.error = .media)
    (ho : (s.slot i).op.outstanding = some (.seek lba)) : completionArrives i (.record c) s = sweepOn i (s.engage i { s.slot i with
        op := (s.slot i).op.closed
        acc := { (s.slot i).acc with u := sat32 (s.slot i).acc.u 1, c := sat64 (s.slot i).acc.c 0 }
        sweep := { (s.slot i).sweep with remaining := (s.slot i).sweep.remaining - 1 } } s.pool s.work) := by
  rw [completionArrives_matched ho ht]
  simp only [handle, readCompletion, hs, he, mediaError, modOp_eq_engage, engage_slot_same, ha, if_true, engage_modAcc, seekMade, engage_modSweep]

/-- An ERROR MEDIA of a READ counts a defect and the sectors before it (R72). -/
theorem completion_read_media (hs : c.status = .error) (he : c.error = .media) (ho : (s.slot i).op.outstanding = some (.read k))
    (hlow : 1 ≤ c.residual) (hhigh : c.residual ≤ k.count) (hcov : (s.slot i).covers (k.count - c.residual) = true) :
    completionArrives i (.record c) s = sweepOn i (readTransferred i (k.count - c.residual) (remainder i k (k.count - c.residual)
      (s.engage i ((s.slot i).failedRead k c.residual c.corrected) s.pool s.work))) := by
  have hresidual : (Op.read k).residual c.residual = c.residual := by
    rw [Op.residual]
    omega
  rw [completionArrives_matched ho ht]
  simp only [handle, readCompletion, hs, he, hresidual, hcov, if_true]
  refine (if_pos ?_).trans ?_
  · rw [State.modOp, slot_modSlot_same]
    exact ha
  · rw [mediaError, modOp_eq_engage, engage_modAcc]
    rfl

end

/-! ### The engine behind a completion (R91, R92, R97) -/

/-- What the engine of a slot leaves of its record, and what becomes of the bands (R106). -/
structure EngineStep (now : Nat) (x y : Slot) : Prop where
  acc : y.acc = x.acc
  state : y.state = x.state
  exec : y.exec = x.exec
  step : y.sweep.step = x.sweep.step
  bands : ∀ b : Fin 16, y.sweep.bands.get b = x.sweep.bands.get b ∨
    ((x.sweep.bands.get b).state = .notStarted ∧ y.sweep.bands.get b = { x.sweep.bands.get b with state := .running now })
  busy : x.sweep.hand ≠ [] ∨ x.sweep.redo ≠ [] → y.sweep.hand ≠ [] ∨ y.sweep.redo ≠ []

theorem EngineStep.refl (now : Nat) (x : Slot) : EngineStep now x x := ⟨rfl, rfl, rfl, rfl, fun _ => .inl rfl, id⟩

theorem EngineStep.trans {now : Nat} {x y z : Slot} (h : EngineStep now x y) (k : EngineStep now y z) : EngineStep now x z := by
  refine ⟨k.acc.trans h.acc, k.state.trans h.state, k.exec.trans h.exec, k.step.trans h.step, fun b => ?_, fun hb => k.busy (h.busy hb)⟩
  rcases h.bands b with hb | ⟨hb, hr⟩
  · rw [← hb]
    exact k.bands b
  · rcases k.bands b with kb | ⟨kb, -⟩
    · exact .inr ⟨hb, kb.trans hr⟩
    · rw [hr] at kb
      cases kb

theorem engineStep_issue (i : Fin 16) (op : Op) (data : List Byte) (s : State) (now : Nat) :
    EngineStep now (s.slot i) ((issue i op data s).slot i) := by
  rw [issue, State.modOp, slot_modSlot_same]
  exact ⟨rfl, rfl, rfl, rfl, fun _ => .inl rfl, id⟩

theorem engineStep_modOp (i : Fin 16) (f : OpUnit → OpUnit) (s : State) (now : Nat) :
    EngineStep now (s.slot i) ((s.modOp i f).slot i) := by
  rw [State.modOp, slot_modSlot_same]
  exact ⟨rfl, rfl, rfl, rfl, fun _ => .inl rfl, id⟩

theorem engineStep_issueChunk (i : Fin 16) (h : InHand) (s : State) : EngineStep s.now (s.slot i) ((issueChunk i h s).slot i) := by
  have hsent : EngineStep s.now (s.slot i) { s.slot i with sweep := { (s.slot i).sweep.sentOff h.lending with
      bands := (s.slot i).sweep.bands.set h.chunk.band (((s.slot i).sweep.bands.get h.chunk.band).issued s.now) } } := by
    refine ⟨rfl, rfl, rfl, rfl, fun b => ?_, fun hb => ?_⟩
    · simp only [Vector.get_eq_getElem, Vector.getElem_set]
      split
      · rename_i hb
        obtain rfl : h.chunk.band = b := Fin.ext hb
        unfold Band.issued
        split
        · exact .inr ⟨‹_›, rfl⟩
        · exact .inl rfl
      · exact .inl rfl
    · simpa [Sweep.sentOff] using hb
  unfold issueChunk
  simp only
  refine .trans (y := ((if h.again then s.modOp i fun u => { u with interrupted := none } else s).modSweep i fun e =>
    { e.sentOff h.lending with bands := e.bands.set h.chunk.band ((e.bands.get h.chunk.band).issued s.now) }).slot i) ?_ ?_
  · rw [State.modSweep, slot_modSlot_same]
    split
    · rw [State.modOp, slot_modSlot_same]
      exact ⟨rfl, rfl, rfl, rfl, hsent.bands, hsent.busy⟩
    · exact hsent
  · split <;> exact engineStep_issue _ _ _ _ _

theorem stepped_keeps (e : Sweep) : e.stepped.bands = e.bands ∧ e.stepped.redo = e.redo ∧ e.stepped.pacing = e.pacing := by
  unfold Sweep.stepped
  repeat' split
  all_goals exact ⟨rfl, rfl, rfl⟩

theorem takeIndex_keeps {e e' : Sweep} {k : Nat} (h : e.takeIndex = some (k, e')) :
    e'.bands = e.bands ∧ e'.redo = e.redo ∧ e'.pacing = e.pacing := by
  unfold Sweep.takeIndex at h
  simp only [Option.ite_none_left_eq_some, Option.some.injEq, Prod.mk.injEq] at h
  obtain ⟨-, -, rfl⟩ := h
  split <;> exact stepped_keeps _

theorem nextTake_pacing {e e' : Sweep} {c : Chunk} (h : e.nextTake = some (c, e')) : e'.pacing = e.pacing := by
  unfold Sweep.nextTake at h
  split at h
  · obtain ⟨-, rfl⟩ := Prod.mk.inj (Option.some.inj h)
    rfl
  · obtain ⟨q, hq, heq⟩ := Option.map_eq_some_iff.1 h
    obtain ⟨-, rfl⟩ := Prod.mk.inj heq
    exact (takeIndex_keeps hq).2.2

theorem engineStep_issueNext (i : Fin 16) (s : State) : EngineStep s.now (s.slot i) ((issueNext i s).slot i) := by
  unfold issueNext
  split
  · unfold issueSeek
    split
    · exact .refl _ _
    · rename_i k e he
      refine .trans (y := (s.modSweep i fun _ => e).slot i) ?_ (engineStep_issue _ _ _ _ _)
      obtain ⟨hbands, hredo, -⟩ := takeIndex_keeps he
      rw [State.modSweep, slot_modSlot_same]
      exact ⟨rfl, rfl, rfl, takeIndex_step he, fun b => .inl (by rw [hbands]), by rw [takeIndex_hand he, hredo]; exact id⟩
  · split
    · exact .refl _ _
    · exact engineStep_issueChunk _ _ _

theorem engineStep_tryIssue (i : Fin 16) (s : State) : EngineStep s.now (s.slot i) ((tryIssue i s).slot i) := by
  unfold tryIssue
  simp only
  split
  · split
    · exact .trans (engineStep_modOp _ _ _ _) (engineStep_issue _ _ _ _ _)
    · split
      · exact .refl _ _
      · exact engineStep_issueChunk _ _ _
    · split
      · exact engineStep_issueNext _ _
      · exact .refl _ _
  · exact .refl _ _

theorem take_bands {x : Slot} {c : Chunk} {again : Bool} {e : Sweep} (h : x.take = some (c, again, e)) : e.bands = x.sweep.bands := by
  cases hc : x.chunkWaiting with
  | some c' =>
    rw [Slot.take, hc] at h
    obtain ⟨-, -, rfl⟩ := Prod.mk.inj (Option.some.inj h) |>.imp_right Prod.mk.inj
    rfl
  | none =>
    rw [Slot.take, hc] at h
    simp only at h
    split at h
    · obtain ⟨-, -, rfl⟩ := Prod.mk.inj (Option.some.inj h) |>.imp_right Prod.mk.inj
      rfl
    · obtain ⟨q, hq, heq⟩ := Option.map_eq_some_iff.1 h
      obtain ⟨-, -, rfl⟩ := Prod.mk.inj heq |>.imp_right Prod.mk.inj
      exact (takeIndex_keeps hq).1

theorem engineStep_lend (i : Fin 16) (s : State) (now : Nat) : EngineStep now (s.slot i) ((lend i s).slot i) := by
  unfold lend
  simp only
  split
  · split
    · exact .refl _ _
    · rename_i c again e htake
      have hstep := take_step htake
      have hbands := take_bands htake
      have hlent (hand : List InHand) (hne : hand ≠ []) : EngineStep now (s.slot i) { s.slot i with sweep := { e with hand := hand } } :=
        ⟨rfl, rfl, rfl, hstep, fun b => .inl (by rw [hbands]), fun _ => .inl hne⟩
      split
      · simp only [withWork_slot, withPool_slot, slot_setSlot_same]
        exact hlent _ (by simp)
      · simp only [withPool_slot, slot_setSlot_same]
        exact hlent _ (by simp)
  · exact .refl _ _

theorem engineStep_engineRounds (n : Nat) (i : Fin 16) (s : State) : EngineStep s.now (s.slot i) ((engineRounds n i s).slot i) := by
  induction n generalizing s with
  | zero => exact .refl _ _
  | succ n ih =>
    have hissue := engineStep_tryIssue i s
    have hnow : (tryIssue i s).now = s.now := by rw [(quiet_tryIssue i s).rest]
    unfold engineRounds
    simp only
    split
    · split
      · have hlent := engineStep_lend i ((tryIssue i s).withPool { (tryIssue i s).pool with free := (tryIssue i s).pool.free - 1 }) s.now
        have hlater := ih (lend i ((tryIssue i s).withPool { (tryIssue i s).pool with free := (tryIssue i s).pool.free - 1 }))
        have hstill : (lend i ((tryIssue i s).withPool { (tryIssue i s).pool with free := (tryIssue i s).pool.free - 1 })).now = s.now := by
          rw [(quietBy_lend i _).rest]
          exact hnow
        rw [hstill] at hlater
        exact (hissue.trans hlent).trans hlater
      · exact hissue
    · exact hissue

theorem engineStep_engineGo (i : Fin 16) (s : State) : EngineStep s.now (s.slot i) ((engineGo i s).slot i) := engineStep_engineRounds 4 i s

section
variable {s : State} {i : Fin 16} {x : Slot} {p : Pool} {w : List Work} {k : Chunk} {n : Nat}

/-- With no sector behind the failing one the chunk has completed for its band (R72, R106). -/
theorem remainder_none (h : k.count - (n + 1) = 0) :
    remainder i k n (s.engage i x p w) = s.engage i (x.bandDone k.band s.now) p w := by
  rw [remainder, if_pos h, bandCompletion_engage]

/-- The sectors behind the failing one join the redo list (R72, R90). -/
theorem remainder_some (h : k.count - (n + 1) ≠ 0) (hw : x.exec.phase = .working) :
    remainder i k n (s.engage i x p w) = s.engage i { x with sweep := { x.sweep with
      redo := x.sweep.redo ++ [{ k with first := k.first + (n + 1), count := k.count - (n + 1) }] } } p w := by
  have hdraining : ¬ x.exec.phase = .draining := by rw [hw]; nofun
  rw [remainder, if_neg h, engage_slot_same, if_neg hdraining, engage_modSweep]

end

/-! ### How the bands are laid (R105) -/

theorem le_ceilDiv_mul (n : Nat) {c : Nat} (hc : 1 ≤ c) : n ≤ ceilDiv n c * c := by
  have hsplit := Nat.div_add_mod (n + (c - 1)) c
  have hlt := Nat.mod_lt (n + (c - 1)) hc
  rw [ceilDiv, Nat.mul_comm]
  omega

theorem ceilDiv_mul (n : Nat) {c : Nat} (hc : 1 ≤ c) : ceilDiv (n * c) c = n := by
  rw [ceilDiv, Nat.add_comm, Nat.add_mul_div_right _ _ hc, Nat.div_eq_of_lt (by omega), Nat.zero_add]

theorem bandTable_get (e : Sweep) (b : Fin 16) : e.bandTable.get b = if e.bandTimed then e.bandEntry b.val else Band.void := by
  unfold Sweep.bandTable
  split
  · fin_cases b <;> rfl
  · simp [Vector.get_eq_getElem]

section
variable {e : Sweep} (hd : e.direction = .ascending ∨ e.direction = .descending) (hc : 1 ≤ e.chunk) (hg : e.grid = ceilDiv e.range e.chunk)
include hd

theorem slack_upward : e.slack = 0 ∨ e.slack = e.grid * e.chunk - e.range := by
  rcases hd with hd | hd <;> simp [Sweep.slack, hd]

include hc hg

/-- A range of fewer sectors than bands lies in band 15 (R105). -/
theorem bandEntry_short (hpos : 0 < e.range) (hshort : e.range < 16) (b : Fin 16) :
    e.bandEntry b.val = if b = 15 then { state := .notStarted, sectors := e.range, left := e.grid } else Band.void := by
  have hwidth : e.range / 16 = 0 := Nat.div_eq_of_lt hshort
  have hbelow (x : Nat) : e.chunksBelow (x * (e.range / 16)) = 0 := by rw [hwidth, Nat.mul_zero]; rfl
  have hcover := le_ceilDiv_mul e.range hc
  rw [← hg] at hcover
  have hgrid : 0 < e.grid := by
    by_contra h
    have hzero : e.grid = 0 := by omega
    rw [hzero] at hcover
    omega
  have hlast : e.offsetOf e.grid = e.range := by
    rw [Sweep.offsetOf]
    rcases slack_upward hd with h | h <;> rw [h] <;> omega
  have hfirst : e.offsetOf 0 = 0 := by rw [Sweep.offsetOf]; omega
  by_cases hb : b = 15
  · subst hb
    have hlastBand : ((15 : Fin 16).val = 15) = True := eq_true rfl
    simp only [Sweep.bandEntry, hbelow, hlastBand, if_true]
    rw [if_neg (by omega), hlast, hfirst]
    rfl
  · have hne : b.val ≠ 15 := fun h => hb (Fin.ext h)
    simp only [Sweep.bandEntry, hbelow]
    rw [if_neg hne, if_neg hb]
    rfl

/-- Bands that hold whole chunks are laid alike (R105). -/
theorem bandEntry_even {m : Nat} (hm : 1 ≤ m) (hrange : e.range = 16 * (m * e.chunk)) (b : Fin 16) :
    e.bandEntry b.val = { state := .notStarted, sectors := m * e.chunk, left := m } := by
  have hwidth : e.range / 16 = m * e.chunk := by omega
  have hgrid : e.grid = 16 * m := by rw [hg, hrange, ← Nat.mul_assoc, ceilDiv_mul _ hc]
  have hslack : e.slack = 0 := by
    rcases slack_upward hd with h | h
    · exact h
    · rw [h, hgrid, hrange, ← Nat.mul_assoc, Nat.sub_self]
  have hbelow (n : Nat) (hn : n ≤ 16) : e.chunksBelow (n * (e.range / 16)) = n * m := by
    rw [Sweep.chunksBelow, hwidth, hslack, ← Nat.mul_assoc, Nat.add_zero, ceilDiv_mul _ hc, hgrid]
    split
    · rename_i hzero
      have : n * m = 0 := by
        rcases Nat.mul_eq_zero.1 hzero with h | h
        · exact h
        · omega
      omega
    · exact Nat.min_eq_right (Nat.mul_le_mul_right m hn)
  have hoffset (n : Nat) (hn : n ≤ 16) : e.offsetOf (n * m) = n * (m * e.chunk) := by
    rw [Sweep.offsetOf, hslack, hrange, Nat.sub_zero, Nat.mul_assoc]
    exact Nat.min_eq_right (Nat.mul_le_mul_right _ hn)
  have hend : (if b.val = 15 then e.grid else e.chunksBelow ((b.val + 1) * (e.range / 16))) = (b.val + 1) * m := by
    split
    · rename_i h
      rw [hgrid, h]
    · exact hbelow _ (by omega)
  have hstart := hbelow b.val (by omega)
  have hmore : b.val * m < (b.val + 1) * m := by rw [Nat.add_mul]; omega
  simp only [Sweep.bandEntry, hend, hstart]
  rw [if_neg (by omega), hoffset _ (by omega), hoffset _ (by omega), Nat.add_mul, Nat.add_mul]
  simp

end

/-- A sweep that has a chunk in hand, or one to redo, has not ended (R90, R91). -/
theorem sweepOver_of_busy {x : Slot} (hw : x.exec.phase = .working) (hk : x.sweep.isSeek = false)
    (h : x.sweep.hand ≠ [] ∨ x.sweep.redo ≠ []) : x.sweepOver = false :=
  h.elim sweepOver_of_hand (sweepOver_of_redo hw hk)

/-- A sweep of chunks with nothing in hand, nothing outstanding and nothing left to take has ended (R91). -/
theorem sweepOver_of_spent {x : Slot} (ha : x.state = .active) (hm : x.sweep.movesChunks = true) (ho : x.op.outstanding = none)
    (hi : x.op.interrupted = none) (hh : x.sweep.hand = [])
    (h : x.exec.phase = .draining ∨ (x.exec.phase = .working ∧ x.canTake = false)) : x.sweepOver = true := by
  have hkind : x.sweep.running = true ∧ x.sweep.isSeek = false := by
    unfold Sweep.movesChunks Sweep.running Sweep.isSeek at *
    simp only [Bool.or_eq_true, decide_eq_true_eq] at hm
    rcases hm with hm | hm <;> simp [hm]
  rcases h with h | ⟨h, ht⟩ <;> simp [Slot.sweepOver, ha, hkind, ho, hi, hh, h]
  exact ht

/-- The operation unit of a slot that has issued a chunk with nothing interrupted (R65, R92). -/
theorem chunkSent_op {x : Slot} {plan : Plan} {now : Nat} {h : InHand} (hi : x.op.interrupted = none) : (x.chunkSent plan now h).op =
    { x.op.sending (x.sweep.chunkOp h.chunk) now (opTimeout plan (x.sweep.chunkOp h.chunk)) with sentData := h.data } := by
  simp [Slot.chunkSent, OpUnit.sending, hi]

theorem isSeek_step {e e' : Sweep} (h : e'.step = e.step) : e'.isSeek = e.isSeek := by
  rw [Sweep.isSeek, Sweep.isSeek, Sweep.kindCode, Sweep.kindCode, h]

section
variable {s : State} {i : Fin 16} {x : Slot} {p : Pool} {w : List Work} {plan : Plan}

/-- On a held slot nothing follows a completion of a sweep that goes on (R58). -/
theorem sweepOn_held (hh : x.held = true) (h : x.sweepOver = false) : sweepOn i (s.engage i x p w) = s.engage i x p w := by
  rw [sweepOn, engineGo_idle (mayWork_held (by rw [engage_slot_same]; exact hh))]
  exact endIfEnded_goes_on (by rw [engage_slot_same]; exact h)

/-- A sweep that has more to do goes on as its engine does (R91). -/
theorem sweepOn_busy (hw : x.exec.phase = .working) (hk : x.sweep.isSeek = false) (h : x.sweep.hand ≠ [] ∨ x.sweep.redo ≠ []) :
    sweepOn i (s.engage i x p w) = engineGo i (s.engage i x p w) := by
  have hstep := engineStep_engineGo i (s.engage i x p w)
  rw [engage_slot_same] at hstep
  exact endIfEnded_goes_on (sweepOver_of_busy (by rw [hstep.exec]; exact hw) (by rw [isSeek_step hstep.step]; exact hk) (hstep.busy h))

/-- An engine with nothing prepared and nothing to take does nothing more (R92, R97). -/
theorem engineGo_spent (hk : x.sweep.isSeek = false) (hi : x.op.interrupted = none) (hn : x.sweep.prepared = none)
    (h : x.works = false ∨ x.canTake = false) : engineGo i (s.engage i x p w) = s.engage i x p w := by
  have hrest := tryIssue_unprepared (s := s) (i := i) (p := p) (w := w) hi hk hn
  refine (engineGo_rests ?_).trans hrest
  rw [hrest, wantsBuffer_engage]
  rcases h with h | h
  · rw [h]; rfl
  · simp [Slot.asks, chunkWaiting_none hi, h]

/-- A SEEK SWEEP with no seek left to issue does nothing more (R95). -/
theorem engineGo_seeksDone (hk : x.sweep.isSeek = true) (hi : x.op.interrupted = none) (ht : x.sweep.takeIndex = none) :
    engineGo i (s.engage i x p w) = s.engage i x p w := by
  have hrest : tryIssue i (s.engage i x p w) = s.engage i x p w := by
    simp [tryIssue, hi, issueNext, issueSeek, hk, ht]
  have hmoves : x.sweep.movesChunks = false := by
    unfold Sweep.isSeek at hk
    simp [Sweep.movesChunks, of_decide_eq_true hk]
  refine (engineGo_rests ?_).trans hrest
  rw [hrest, wantsBuffer_engage]
  simp [Slot.asks, hmoves]

/-- An engine that issues its prepared chunk goes on with it outstanding (R92). -/
theorem engineGo_issues {h : InHand} (hplan : x.plan.bind s.planAt = some plan) (hx : x.works = true) (hz : s.zoneHold i = false)
    (hr : x.sweep.movesChunks = true) (ho : x.op.outstanding = none) (hi : x.op.interrupted = none) (hp : x.sweep.pace.1 = .drive)
    (hn : x.sweep.prepared = some h) : engineGo i (s.engage i x p w) = engineGo i (s.engage i (x.chunkSent plan s.now h) p w) := by
  have hfirst := tryIssue_chunk (p := p) (w := w) hplan hx hz hr ho hi hp hn
  have hagain : tryIssue i (s.engage i (x.chunkSent plan s.now h) p w) = s.engage i (x.chunkSent plan s.now h) p w :=
    tryIssue_outstanding rfl
  unfold engineGo
  rw [engineRounds, hfirst]
  conv_rhs => rw [engineRounds, hagain]

/-- The sweep has ended, and a HEALTH step of a spun drive follows (R48, R91). -/
theorem sweepOn_over (hgo : engineGo i (s.engage i x p w) = s.engage i x p w) (hover : x.sweepOver = true) (hwait : i ∉ p.waiting)
    (hplan : x.plan.bind s.planAt = some plan) (hh : x.held = false) (hz : s.zoneHold i = false) (hspun : x.spun = true)
    (hnext : plan.steps[x.exec.index + 1]? = some .health) :
    sweepOn i (s.engage i x p w) = s.engage i (x.stepOver.healthBegun plan s.now) p w := by
  rw [sweepOn, hgo, endIfEnded_over (by rw [engage_slot_same]; exact hover) (by exact hwait)]
  exact nextStep_health hplan hh hz hspun hnext

end

end Sys2Proof.Machine
end

section
/-! The statement about the completions of a sweep (O54). -/

namespace Sys2Proof.Proofs

open Sys2Proof Sys2Proof.Machine

/-- The events of a completion, on a slot, the pool and the work alone. -/
theorem completion_left {i : Fin 16} {c : Completion} {s : State} {x : Slot} {p : Pool} {w : List Work}
    (h : completionArrives i (.record c) s = s.engage i x p w) : ∃ t, exec (.completion i (.record c)) s = .next t ∧
      Untouched s t ∧ SameOutsideSlots { s with pool := p, work := w } t ∧ (∀ j : Fin 16, j ≠ i → t.slot j = s.slot j) ∧ t.slot i = x := by
  have huntouched := untouched_refreshLamps (moves_untouched (moves_completionArrives (strict := true) i (.record c) s))
  obtain ⟨t, ht, hsame, hother, hslot, -⟩ := left_engage (c := .completion i (.record c)) (congrArg completed h)
  have heq : refreshLamps (completionArrives i (.record c) s) = t := by
    have hexec : exec (.completion i (.record c)) s = .next (refreshLamps (completionArrives i (.record c) s)) := rfl
    rw [hexec] at ht
    exact Host.Outcome.next.inj ht
  rw [heq] at huntouched
  exact ⟨t, ht, huntouched, hsame, hother, hslot⟩

/-- Settles O54, part by part: what a completion counts on a held slot, for its band, what follows where the sweep ends or goes on,
and how the bands are laid. -/
theorem sweepCompletionsCount : Obligations.SweepCompletionsCount := by
  refine ⟨fun i c s htag hh ha hw hwait => ?_, fun i c k s htag hs hh ha hw hwait hredo hi => ?_,
    fun i c k f verify start sectors left s htag hs ha hw hwait hredo hi => ?_,
    fun i plan c s hplan htag hs hheld hz ha hwait hi => ?_, fun f verify capacity size hf hsize hfits => ?_⟩
  · intro x
    refine ⟨fun f k hk ho hredo hi => ⟨fun hs hcov => ?_, fun hs he hlow hhigh hcov => ?_⟩, fun f lba hk ho hmore => ?_⟩
    · obtain ⟨hseek, -, -⟩ := isSeek_of_readSweep hk
      have hverifies : x.sweep.verifies = false := by rw [Sweep.verifies, hk]
      have hends := (completion_read_returns htag ha ho hs hcov hwait (by rw [hverifies]; rfl)).trans
        (sweepOn_held hh (sweepOver_of_redo hw hseek hredo))
      obtain ⟨t, ht, hun, hsame, -, hslot⟩ := completion_left hends
      refine ⟨t, ht, hun, hsame.line, hsame.lots, ?_⟩
      rw [hslot, if_neg (by rw [hverifies]; nofun)]
      exact ⟨rfl, rfl, rfl, ha, rfl, rfl⟩
    · obtain ⟨hseek, -, -⟩ := isSeek_of_readSweep hk
      have hverifies : x.sweep.verifies = false := by rw [Sweep.verifies, hk]
      have harrives := completion_read_media htag ha hs he ho hlow hhigh hcov
      have hleft : k.count - (k.count - c.residual + 1) = c.residual - 1 := by omega
      have hplain (y : Slot) (hy : y.sweep.step = x.sweep.step) : (y.sweep.verifies && decide (0 < y.exec.pass) &&
          decide (0 < k.count - c.residual)) = false ∧ y.sweep.verifies = false := by
        have hv : y.sweep.verifies = false := by rw [Sweep.verifies, hy, hk]
        exact ⟨by rw [hv]; rfl, hv⟩
      let y := x.failedRead k c.residual c.corrected
      by_cases hone : c.residual = 1
      · rw [remainder_none (x := y) (by omega), readTransferred_returns (x := y.bandDone k.band s.now) hwait (hplain _ rfl).1,
          (hplain (y.bandDone k.band s.now) rfl).2] at harrives
        obtain ⟨t, ht, hun, hsame, -, hslot⟩ := completion_left (harrives.trans (sweepOn_held hh (sweepOver_of_redo hw hseek hredo)))
        refine ⟨t, ht, hun, hsame.line, hsame.lots, ?_⟩
        rw [hslot, if_pos hone]
        exact ⟨rfl, rfl, rfl, rfl⟩
      · rw [remainder_some (x := y) (by omega) hw, hleft] at harrives
        let z := { y with sweep := { y.sweep with redo := y.sweep.redo ++
          [{ k with first := k.first + (k.count - c.residual + 1), count := c.residual - 1 }] } }
        rw [readTransferred_returns (x := z) hwait (hplain _ rfl).1, (hplain z rfl).2] at harrives
        obtain ⟨t, ht, hun, hsame, -, hslot⟩ := completion_left (harrives.trans (sweepOn_held hh
          (sweepOver_of_redo hw hseek (List.append_ne_nil_of_left_ne_nil hredo _))))
        refine ⟨t, ht, hun, hsame.line, hsame.lots, ?_⟩
        rw [hslot, if_neg hone]
        exact ⟨rfl, rfl, rfl, rfl⟩
    · have hgoes (acc : Accum) : Slot.sweepOver { x with
          op := x.op.closed, acc := acc, sweep := { x.sweep with remaining := x.sweep.remaining - 1 } } = false := by
        have hseek : x.sweep.isSeek = true := by simp [Sweep.isSeek, Sweep.kindCode, hk]
        have hleft : x.sweep.remaining - 1 ≠ 0 := by omega
        have hseek' : Sweep.isSeek { x.sweep with remaining := x.sweep.remaining - 1 } = true := hseek
        simp [Slot.sweepOver, hseek', hleft, x, hw]
      refine ⟨fun hs => ?_, fun hs he => ?_⟩
      · obtain ⟨t, ht, -, hsame, hother, hslot⟩ := completion_left
          ((completion_seek htag ha hs ho hk).trans (sweepOn_held hh (hgoes _)))
        exact ⟨t, ht, hsame, hother, hslot⟩
      · obtain ⟨t, ht, -, hsame, hother, hslot⟩ := completion_left
          ((completion_seek_media htag ha hs he ho).trans (sweepOn_held hh (hgoes _)))
        exact ⟨t, ht, hsame, hother, hslot⟩
  · intro x flying
    refine ⟨fun f hk ho hband => ?_, fun f hk ho hpass hcount hcov => ?_⟩
    · obtain ⟨hseek, -, -⟩ := isSeek_of_writeSweep hk
      have hrate : x.sweep.rateAfter k.band s.now x.acc.worstBand = x.acc.worstBand := by
        unfold Sweep.rateAfter
        split
        · exact absurd ‹_› (hband _)
        · rfl
      obtain ⟨t, ht, -, hsame, hother, hslot⟩ := completion_left
        ((completion_write htag ha hs ho hwait).trans (sweepOn_held hh (sweepOver_of_redo hw hseek hredo)))
      refine ⟨t, ht, hother, hsame.pool, hsame.line, hsame.lots, ?_⟩
      rw [hslot]
      exact ⟨congrArg (fun r => { x.acc with worstBand := r }) hrate, rfl, rfl, ha, rfl, rfl⟩
    · obtain ⟨hseek, -, -⟩ := isSeek_of_readSweep hk
      have hchecks : (x.sweep.verifies && decide (0 < x.exec.pass) && decide (0 < k.count)) = true := by
        simp [Sweep.verifies, hk, Nat.pos_of_ne_zero (Nat.one_le_iff_ne_zero.1 hpass), Nat.pos_of_ne_zero (Nat.one_le_iff_ne_zero.1 hcount)]
      obtain ⟨t, ht, -, hsame, hother, hslot⟩ := completion_left
        ((completion_read_checks htag ha ho hs hcov hchecks).trans (sweepOn_held hh (sweepOver_of_redo hw hseek hredo)))
      refine ⟨t, ht, hother, hsame.pool, hsame.line, hsame.lots, hsame.work, ?_⟩
      rw [hslot]
      exact ⟨rfl, rfl, rfl, ha, rfl, rfl⟩
  · intro x hk ho hcov hband rate
    obtain ⟨y, p, w, harrives, hbands, hworst, hexec, hstep, hsweepredo⟩ := completion_read_counts htag ha ho hs hcov hwait
    have hseek : y.sweep.isSeek = false := by rw [isSeek_step hstep]; exact (isSeek_of_readSweep hk).1
    have hgo := engineStep_engineGo i (s.engage i y p w)
    rw [engage_slot_same, ← sweepOn_busy (by rw [hexec]; exact hw) hseek (.inr (by rw [hsweepredo]; exact hredo)), ← harrives] at hgo
    have hafter : ∀ b : Fin 16, b ≠ k.band → y.sweep.bands.get b = x.sweep.bands.get b := by
      intro b hb
      rw [hbands, Sweep.bandsAfter, Vector.get_eq_getElem, Vector.getElem_set_ne _ _ (fun h => hb (Fin.ext h).symm)]
      rfl
    have hown : y.sweep.bands.get k.band = (if left - 1 = 0 then { state := .timed, sectors := sectors, left := 0 }
        else { state := .running start, sectors := sectors, left := left - 1 } : Band) := by
      rw [hbands, Sweep.bandsAfter, Vector.get_eq_getElem, Vector.getElem_set_self, hband]
    have hkept : ((completionArrives i (.record c) s).slot i).sweep.bands.get k.band = y.sweep.bands.get k.band := by
      rcases hgo.bands k.band with h | ⟨h, -⟩
      · exact h
      · rw [hown] at h
        split at h <;> cases h
    refine ⟨_, rfl, fun b hb => ?_, fun hleft => ?_, fun hleft => ?_⟩
    · rw [refreshLamps_slot, ← hafter b hb]
      exact hgo.bands b
    · rw [refreshLamps_slot, hkept, hown, hgo.acc, hworst, if_pos (by omega), Sweep.rateAfter, hband]
      refine ⟨rfl, (if_pos (by show left - 1 = 0; omega)).trans ?_⟩
      show foldRate _ x.acc.worstBand = _
      cases x.acc.worstBand <;> rfl
    · rw [refreshLamps_slot, hkept, hown, hgo.acc, hworst, if_neg (by omega), Sweep.rateAfter, hband]
      exact ⟨rfl, if_neg (by show ¬ left - 1 = 0; omega)⟩
  · intro x flying others left handed retired
    have hzone := zoneHold_eq_false hz
    refine ⟨fun f k counts corrects hkind => ?_, fun f k a b hk ho hpass hcount hcov hw hpace hhand ha' hb hne => ?_,
      fun f lba hk ho hw hlast hnone hhand hspun hnext => ?_⟩
    · intro acc
      have hstep : x.sweep.step = some (.writeSweep f) ∨ ∃ v, x.sweep.step = some (.readSweep f v) := by
        rcases hkind with ⟨hk, -⟩ | ⟨v, hk, -⟩
        · exact .inl hk
        · exact .inr ⟨v, hk⟩
      obtain ⟨a, bands, hacc, harrives⟩ : ∃ a bands, acc a ∧ completionArrives i (.record c) s = sweepOn i (s.engage i
          (x.landed a bands) { s.pool with free := s.pool.free + flying.length } others) := by
        have hothers : workLeft i x.sweep.flying s.work = others := workLeft_eq ..
        rw [← hothers]
        rcases hkind with ⟨hk, ho, rfl, rfl⟩ | ⟨v, hk, ho, hcov, hv, rfl, rfl⟩
        · exact ⟨_, _, rfl, completion_write htag ha hs ho hwait⟩
        · have hreturns : (x.sweep.verifies && decide (0 < x.exec.pass) && decide (0 < k.count)) = false := by
            cases v with
            | true => simp [hv rfl]
            | false => simp [Sweep.verifies, hk]
          refine ⟨_, _, ?_, completion_read_returns htag ha ho hs hcov hwait hreturns⟩
          have hverifies : x.sweep.verifies = v := by rw [Sweep.verifies, hk]
          rw [hverifies]
          cases v <;> rfl
      obtain ⟨hfields, hseek, hmoves, hpaced⟩ := direction_of_fields hstep
      refine ⟨fun hflying hphase hspun hnext => ?_, fun b hw hpace hne huse hrest => ?_⟩
      · let z := x.landed a bands
        have hempty : z.sweep.hand = [] := List.filter_eq_nil_iff.2 fun h hmem => by simp [hflying h hmem]
        have hspent : z.exec.phase = .draining ∨ (z.exec.phase = .working ∧ z.canTake = false) := by
          refine hphase.imp_right fun ⟨hw, hredo, hindex⟩ => ⟨hw, ?_⟩
          rw [Slot.canTake, take_of_no_chunk (chunkWaiting_none (x := z) hi)]
          show Option.isSome (Option.map _ (x.sweep.reframed _ x.sweep.pacing bands).nextTake) = false
          rw [nextTake_reframed, Sweep.nextTake, hredo]
          simp [hindex]
        have hidle : z.works = false ∨ z.canTake = false :=
          hspent.imp (fun h => by simp [Slot.works, h]) And.right
        have hover : z.sweepOver = true := sweepOver_of_spent ha hmoves rfl hi hempty hspent
        obtain ⟨t, ht, -, hsame, hother, hslot⟩ := completion_left (harrives.trans (sweepOn_over
          (engineGo_spent hseek hi (by rw [Sweep.prepared, hempty]; rfl) hidle) hover (by simp [hwait]) hplan hheld hzone hspun hnext))
        exact ⟨t, a, z.sweep.retired, ⟨ht, hother⟩, hacc, ⟨rfl, rfl, hempty, rfl⟩, hslot, hsame⟩
      · intro write
        obtain ⟨hop, htimeout, hwrite⟩ := chunkOp_of_kind hstep plan b.chunk
        let z := x.landed a bands
        have hzhand : z.sweep.hand = [b] := hrest
        have hzprepared : z.sweep.prepared = some b := by rw [Sweep.prepared, hzhand]; simp [huse]
        have hgoes := harrives.trans (sweepOn_busy hw hseek (.inl (by rw [hzhand]; exact List.cons_ne_nil _ _)))
        rw [engineGo_issues (x := z) hplan ((works_iff _).2 ⟨ha, hw, hheld⟩) hzone hmoves rfl hi (by rw [← hpace]; exact congrArg Prod.fst hpaced)
          hzprepared] at hgoes
        let y := z.chunkSent plan s.now b
        let sent : List InHand := [{ b with use := .inFlight, again := false }]
        have hy : y.sweep = x.sweep.reframed sent x.sweep.pacing y.sweep.bands := by
          have hsent : (z.sweep.sentOff b.lending).hand = sent := by simp [Sweep.sentOff, hzhand, sent]
          rw [chunkSent_sweep, hsent]
          rfl
        have hyi : y.op.interrupted = none := by
          show (if b.again then none else x.op.interrupted) = none
          rw [hi, ite_self]
        have hyslot (e : Sweep) : ({ y with sweep := e } : Slot) = { x with
            acc := a, sweep := e
            op := { x.op.sending (if write then .write b.chunk else .read b.chunk) s.now
                (if write then plan.writeTimeout else plan.readTimeout) with sentData := b.data } } := by
          have hyop : y.op = { x.op.sending (if write then .write b.chunk else .read b.chunk) s.now
              (if write then plan.writeTimeout else plan.readTimeout) with sentData := b.data } := by
            rw [← hop, ← htimeout]
            exact chunkSent_op (x := z) hi
          rw [← hyop]
          rfl
        have htake : x.take = x.sweep.nextTake.map fun q => (q.1, false, q.2) := take_of_no_chunk (chunkWaiting_none hi)
        have hytake : y.take = x.sweep.nextTake.map fun q => (q.1, false, q.2.reframed sent x.sweep.pacing y.sweep.bands) := by
          rw [take_of_no_chunk (chunkWaiting_none hyi), hy, nextTake_reframed, Option.map_map]
          rfl
        have hasks : y.asks (s.pool.waiting.contains i) = true ↔ x.sweep.nextTake.isSome = true := by
          rw [asks_iff hyi (by rw [hy]; exact hmoves) (by rw [hy]; simp [Sweep.reframed, sent]), hy, nextTake_reframed, hwait]
          simp [Sweep.reframed, sent]
        cases hn : x.sweep.nextTake with
        | none =>
          rw [hn] at hasks htake
          rw [engineGo_content (x := y) rfl (by simpa using hasks)] at hgoes
          obtain ⟨t, ht, -, hsame, hother, hslot⟩ := completion_left hgoes
          refine ⟨t, a, y.sweep, ⟨ht, hother⟩, hacc, by rw [hsame.pool, hsame.work]; exact hsame, hslot.trans (hyslot y.sweep),
            fun _ => ⟨hsame.pool, hsame.work, hy⟩, fun k' again e' h => ?_⟩
          rw [htake] at h
          cases h
        | some q =>
          rw [hn] at hasks htake hytake
          have hfree : 0 < s.pool.free + flying.length := by
            have := List.length_pos_of_ne_nil hne
            omega
          rw [engineGo_lends (x := y) (p := { s.pool with free := s.pool.free + flying.length }) rfl ((works_iff _).2 ⟨ha, hw, hheld⟩) hzone
            (hasks.2 rfl) hfree (by rw [hy]; rfl) hytake] at hgoes
          have hywrite : y.sweep.isWrite = decide write := hwrite
          rw [hywrite] at hgoes
          obtain ⟨t, ht, -, hsame, hother, hslot⟩ := completion_left hgoes
          refine ⟨t, a, _, ⟨ht, hother⟩, hacc, by rw [hsame.pool, hsame.work]; exact hsame, hslot.trans (hyslot _),
            fun h => ?_, fun k' again e' h => ?_⟩
          · rw [htake] at h
            cases h
          · obtain ⟨rfl, rfl, rfl⟩ : q.1 = k' ∧ false = again ∧ q.2 = e' := by simpa [htake] using h
            refine ⟨hsame.pool, hsame.work.trans ?_, ?_⟩
            · simp [write]
            · simp [Sweep.reframed, lentChunk, write, sent, nextTake_pacing hn]
    · obtain ⟨hseek, hmoves, hnotWrite⟩ := isSeek_of_readSweep hk
      have hchecks : (x.sweep.verifies && decide (0 < x.exec.pass) && decide (0 < k.count)) = true := by
        simp [Sweep.verifies, hk, Nat.pos_of_ne_zero (Nat.one_le_iff_ne_zero.1 hpass), Nat.pos_of_ne_zero (Nat.one_le_iff_ne_zero.1 hcount)]
      have harrives := completion_read_checks htag ha ho hs hcov hchecks
      have hflying : x.sweep.flying = [a] := by simp [Sweep.flying, hhand, ha', hb]
      rw [show (s.slot i).sweep.flying = [a] from hflying] at harrives
      generalize hacc : ({ (s.slot i).acc with
        c := sat64 (s.slot i).acc.c (min c.corrected k.count)
        worstBand := (s.slot i).sweep.rateAfter k.band s.now (s.slot i).acc.worstBand } : Accum) = acc at harrives
      let z := x.checking acc (x.sweep.bandsAfter k.band) k.count
      have hzhand : z.sweep.hand = [{ a with use := .checking, chunk := { a.chunk with count := k.count } }, b] := by
        simp [z, Slot.checking, hhand, ha', hb]
      have hzprepared : z.sweep.prepared = some b := by rw [Sweep.prepared, hzhand]; simp [hb]
      have hgoes := harrives.trans (sweepOn_busy (x := z) hw hseek (.inl (by rw [hzhand]; exact List.cons_ne_nil _ _)))
      have hpaced : z.sweep.pace.1 = .drive := by
        show x.sweep.pace.1 = _
        rw [Sweep.pace, hk]
        exact hpace
      rw [engineGo_issues (x := z) hplan ((works_iff _).2 ⟨ha, hw, hheld⟩) hzone hmoves rfl hi hpaced hzprepared] at hgoes
      let y := z.chunkSent plan s.now b
      have hyhand : y.sweep.hand = [{ a with use := .checking, chunk := { a.chunk with count := k.count } },
          { b with use := .inFlight, again := false }] := by
        show (z.sweep.sentOff b.lending).hand = _
        simp [Sweep.sentOff, hzhand, hne]
      have hyidle : y.asks (s.pool.waiting.contains i) = false := by simp [Slot.asks, hyhand]
      rw [engineGo_content (x := y) rfl hyidle] at hgoes
      obtain ⟨t, ht, -, hsame, hother, hslot⟩ := completion_left hgoes
      have hyop : y.op = { x.op.sending (.read b.chunk) s.now plan.readTimeout with sentData := b.data } := by
        have hop : z.sweep.chunkOp b.chunk = .read b.chunk := by
          show (if x.sweep.isWrite then Op.write b.chunk else .read b.chunk) = _
          rw [hnotWrite]
          rfl
        have hsent := chunkSent_op (x := z) (plan := plan) (now := s.now) (h := b) hi
        rw [hop] at hsent
        exact hsent
      have hacct : (t.slot i).acc = acc := by rw [hslot]; rfl
      refine ⟨t, y.sweep, ⟨ht, hother⟩, hsame, ?_, ?_, ?_⟩
      · rw [hacct, ← hacc]
        rfl
      · rw [hacct, ← hyop]
        exact hslot
      · rw [← hyhand]
        rfl
    · have hseek : x.sweep.isSeek = true := by simp [Sweep.isSeek, Sweep.kindCode, hk]
      have hrunning : x.sweep.running = true := by simp [Sweep.running, Sweep.kindCode, hk]
      let acc := { x.acc with l := sat32 x.acc.l (if f.limit < s.now - x.op.issuedAt then 1 else 0) }
      let z := { x with op := x.op.closed, acc := acc, sweep := { x.sweep with remaining := x.sweep.remaining - 1 } }
      have hlap : x.sweep.lapDone = true := by
        by_contra hlap
        rw [takeIndex_next (by simpa using hlap)] at hnone
        cases hnone
      have hznone : z.sweep.takeIndex = none :=
        takeIndex_none hlap (by simp [Sweep.endless, Sweep.fields, z, hk])
      have hzero : x.sweep.remaining - 1 = 0 := by omega
      have hover : z.sweepOver = true := by
        have hzseek : z.sweep.isSeek = true := hseek
        have hzrunning : z.sweep.running = true := hrunning
        rw [Slot.sweepOver, hzseek, hzrunning]
        simp [z, ha, x, hw, hzero, hi, hhand, OpUnit.closed]
      obtain ⟨t, ht, -, hsame, hother, hslot⟩ := completion_left ((completion_seek htag ha hs ho hk).trans
        (sweepOn_over (x := z) (engineGo_seeksDone hseek hi hznone) hover (by simp [hwait]) hplan hheld hzone hspun hnext))
      exact ⟨t, z.sweep.retired, ⟨ht, hother⟩, hsame, ⟨rfl, rfl, hhand, rfl⟩, hslot⟩
  · intro e range timed void
    have hchunk : min f.chunk (Config.bufferBytes / size) = f.chunk :=
      Nat.min_eq_left ((Nat.le_div_iff_mul_le hsize).2 hfits)
    let e₀ := Sweep.rewound { Sweep.reset with
      step := some (.readSweep f verify), first := perMille capacity f.start, stop := perMille capacity f.stop, chunk := f.chunk
      grid := ceilDiv range f.chunk, pacing := if f.pacing = .tick then some f.interval else none }
    have hbands (b : Fin 16) : e.bands.get b = if e₀.bandTimed then e₀.bandEntry b.val else Band.void := by
      rw [← bandTable_get]
      simp only [e, Sweep.started, Sweep.started.chunked, hchunk]
      rfl
    have hrange : e₀.range = range := rfl
    have htimed : e₀.bandTimed = true ↔ timed := by
      have hstep : e₀.step = some (.readSweep f verify) := rfl
      simp only [Sweep.bandTimed, hstep, hrange]
      simp [timed, and_assoc]
    refine ⟨fun h b => ?_, fun h hshort => ?_, fun m h hm hr b => ?_⟩
    · rw [hbands, if_neg (mt htimed.1 h)]
      rfl
    · have hd : e₀.direction = .ascending ∨ e₀.direction = .descending := h.2.1
      have hentry (b : Fin 16) := bandEntry_short (e := e₀) hd hf rfl h.2.2.2 hshort b
      refine ⟨fun b hb => ?_, ?_⟩
      · rw [hbands, if_pos (htimed.2 h), hentry, if_neg (by rintro rfl; omega)]
        rfl
      · rw [hbands, if_pos (htimed.2 h), hentry, if_pos rfl]
        rfl
    · rw [hbands, if_pos (htimed.2 h)]
      exact bandEntry_even (e := e₀) h.2.1 hf rfl hm hr b

end Sys2Proof.Proofs
end

section
/-! SUPPORT. The first two takes of a sweep that begins (R89), and the rounds in which its engine is lent buffers (R97, R98). -/

namespace Sys2Proof.Machine

/-! ### The first two takes (R89) -/

/-- An engine whose cursor alone has moved, with a remaining count. -/
def Sweep.CursorMoved (e e' : Sweep) (remaining : Nat) : Prop :=
  e' = { e with lo := e'.lo, hi := e'.hi, lowNext := e'.lowNext, remaining := remaining }

theorem cursorMoved_self {e : Sweep} {n : Nat} (h : e.remaining = n) : e.CursorMoved e n := by
  subst h
  rfl

/-- The grid index of the second take of a sweep (R89). -/
def SweepFields.secondIndex (f : SweepFields) (grid : Nat) : Nat :=
  if f.direction = .fixed ∨ grid = 1 then 0 else if f.direction = .butterfly then grid - 1 else 1

/-- The sweep has a second chunk to take behind its first. -/
abbrev SweepFields.takesAgain (f : SweepFields) (grid : Nat) : Prop := 2 ≤ grid ∨ f.continuous = true ∨ f.direction = .fixed

/-- The remaining count after so many takes from a fresh cursor (R89). -/
def SweepFields.remainingAfter (f : SweepFields) (grid takes : Nat) : Nat := if f.direction = .fixed then grid else grid - takes

section
variable {e : Sweep} {f : SweepFields} (hk : e.step = some (.writeSweep f) ∨ ∃ v, e.step = some (.readSweep f v)) (hg : 0 < e.grid)
include hk

theorem direction_of_step : e.direction = f.direction ∧ e.endless = (f.continuous || decide (f.direction = .fixed)) ∧ e.isSeek = false := by
  obtain ⟨hfields, hseek, -, -⟩ := direction_of_fields hk
  exact ⟨by simp [Sweep.direction, hfields], by simp [Sweep.endless, hfields, SweepFields.endless], hseek⟩

include hg

theorem takes_upward (hd : f.direction = .ascending ∨ f.direction = .descending) (hlo : e.lo = 0) (hrem : e.remaining = e.grid) :
    ∃ e₁, e.takeIndex = some (0, e₁) ∧ e.CursorMoved e₁ (e.grid - 1) ∧
      (¬ f.takesAgain e.grid → e₁.takeIndex = none) ∧
      (f.takesAgain e.grid → ∃ e₂, e₁.takeIndex = some (f.secondIndex e.grid, e₂) ∧ e.CursorMoved e₂ (e.grid - 2)) := by
  obtain ⟨hdir, hendless, hseek⟩ := direction_of_step hk
  rw [← hdir] at hd
  have hnotFixed : f.direction ≠ .fixed := by rw [← hdir]; rcases hd with h | h <;> rw [h] <;> nofun
  have hnotButterfly : f.direction ≠ .butterfly := by rw [← hdir]; rcases hd with h | h <;> rw [h] <;> nofun
  let e₁ : Sweep := { e with lo := 1, remaining := e.grid - 1 }
  have hfirst : e.takeIndex = some (0, e₁) := by
    rw [takeIndex_upward hg hseek hd (by omega), hlo, hrem]
  refine ⟨e₁, hfirst, rfl, fun hno => ?_, fun hagain => ?_⟩
  · obtain ⟨hgrid, hcontinuous, -⟩ : ¬ 2 ≤ e.grid ∧ ¬ f.continuous = true ∧ ¬ f.direction = .fixed := by
      simpa [SweepFields.takesAgain, not_or] using hno
    refine takeIndex_none ?_ ?_
    · rw [lapDone_upward (e := e₁) hg hd]
      exact decide_eq_true (by show e.grid ≤ 1; omega)
    · show e.endless = false
      rw [hendless]
      simp [hcontinuous, hnotFixed]
  · by_cases hgrid : 2 ≤ e.grid
    · refine ⟨{ e with lo := 2, remaining := e.grid - 2 }, (takeIndex_upward (e := e₁) hg hseek hd (by show 1 < e.grid; omega)).trans ?_, ?_⟩
      · rw [SweepFields.secondIndex, if_neg (by rw [not_or]; exact ⟨hnotFixed, by omega⟩), if_neg hnotButterfly]
        rfl
      · rfl
    · have hone : e.grid = 1 := by omega
      have hcontinuous : f.continuous = true := by
        rcases hagain with h | h | h
        · exact absurd h hgrid
        · exact h
        · exact absurd h hnotFixed
      have hnew : e₁.rewound.lapDone = false := by
        rw [lapDone_upward (e := e₁.rewound) hg hd]
        exact decide_eq_false (Nat.not_le.2 hg)
      refine ⟨{ e with lo := 1, hi := e.grid - 1, lowNext := true, remaining := e.grid - 2 }, (takeIndex_rewound (e := e₁) ?_ ?_ hnew).trans ((takeIndex_upward (e := e₁.rewound) hg hseek hd hg).trans ?_), ?_⟩
      · rw [lapDone_upward (e := e₁) hg hd]
        exact decide_eq_true (by show e.grid ≤ 1; omega)
      · show e.endless = true
        rw [hendless, hcontinuous]
        rfl
      · rw [SweepFields.secondIndex, if_pos (.inr hone)]
        simp [Sweep.rewound, e₁, hone]
      · rfl

theorem takes_butterfly (hd : f.direction = .butterfly) (hlo : e.lo = 0) (hhi : e.hi = e.grid - 1) (hlow : e.lowNext = true)
    (hrem : e.remaining = e.grid) :
    ∃ e₁, e.takeIndex = some (0, e₁) ∧ e.CursorMoved e₁ (e.grid - 1) ∧
      (¬ f.takesAgain e.grid → e₁.takeIndex = none) ∧
      (f.takesAgain e.grid → ∃ e₂, e₁.takeIndex = some (f.secondIndex e.grid, e₂) ∧ e.CursorMoved e₂ (e.grid - 2)) := by
  obtain ⟨hdir, hendless, hseek⟩ := direction_of_step hk
  have hnotFixed : f.direction ≠ .fixed := by rw [hd]; nofun
  have hbutterfly := hd
  rw [← hdir] at hd
  let e₁ : Sweep := { e with lo := 1, lowNext := false, remaining := e.grid - 1 }
  have hfirst : e.takeIndex = some (0, e₁) := by
    rw [takeIndex_low hg hseek hd (by omega) hlow, hlo, hrem]
  refine ⟨e₁, hfirst, rfl, fun hno => ?_, fun hagain => ?_⟩
  · obtain ⟨hgrid, hcontinuous, -⟩ : ¬ 2 ≤ e.grid ∧ ¬ f.continuous = true ∧ ¬ f.direction = .fixed := by
      simpa [SweepFields.takesAgain, not_or] using hno
    refine takeIndex_none ?_ ?_
    · rw [lapDone_butterfly (e := e₁) hg hd]
      exact decide_eq_true (by show e.hi < 1; omega)
    · show e.endless = false
      rw [hendless]
      simp [hcontinuous, hnotFixed]
  · by_cases hgrid : 2 ≤ e.grid
    · refine ⟨{ e with lo := 1, hi := e.hi - 1, lowNext := true, remaining := e.grid - 2 }, (takeIndex_high (e := e₁) hg hseek hd (by show 1 ≤ e.hi; omega) rfl).trans ?_, ?_⟩
      · rw [SweepFields.secondIndex, if_neg (by rw [not_or]; exact ⟨hnotFixed, by omega⟩), if_pos hbutterfly, ← hhi]
        rfl
      · rfl
    · have hone : e.grid = 1 := by omega
      have hcontinuous : f.continuous = true := by
        rcases hagain with h | h | h
        · exact absurd h hgrid
        · exact h
        · exact absurd h hnotFixed
      have hnew : e₁.rewound.lapDone = false := by
        rw [lapDone_butterfly (e := e₁.rewound) hg hd]
        exact decide_eq_false (Nat.not_lt.2 (Nat.zero_le _))
      refine ⟨{ e with lo := 1, hi := e.grid - 1, lowNext := false, remaining := e.grid - 2 }, (takeIndex_rewound (e := e₁) ?_ ?_ hnew).trans ((takeIndex_low (e := e₁.rewound) hg hseek hd (Nat.zero_le _) rfl).trans ?_), ?_⟩
      · rw [lapDone_butterfly (e := e₁) hg hd]
        exact decide_eq_true (by show e.hi < 1; omega)
      · show e.endless = true
        rw [hendless, hcontinuous]
        rfl
      · rw [SweepFields.secondIndex, if_pos (.inr hone)]
        simp [Sweep.rewound, e₁, hone]
      · rfl

/-- The first two takes of a sweep from a fresh cursor (R89). -/
theorem takes_fresh (hlo : e.lo = 0) (hhi : e.hi = e.grid - 1) (hlow : e.lowNext = true) (hrem : e.remaining = e.grid) :
    ∃ e₁, e.takeIndex = some (0, e₁) ∧ e.CursorMoved e₁ (f.remainingAfter e.grid 1) ∧
      (¬ f.takesAgain e.grid → e₁.takeIndex = none) ∧
      (f.takesAgain e.grid →
        ∃ e₂, e₁.takeIndex = some (f.secondIndex e.grid, e₂) ∧ e.CursorMoved e₂ (f.remainingAfter e.grid 2)) := by
  unfold SweepFields.remainingAfter
  cases hd : f.direction with
  | ascending => simpa using takes_upward hk hg (.inl hd) hlo hrem
  | descending => simpa using takes_upward hk hg (.inr hd) hlo hrem
  | butterfly => simpa using takes_butterfly hk hg hd hlo hhi hlow hrem
  | fixed =>
    obtain ⟨hdir, -, -⟩ := direction_of_step hk
    have htake := takeIndex_fixed hg (hdir.trans hd)
    have hself := cursorMoved_self hrem
    refine ⟨e, htake, ?_, fun hno => absurd (.inr (.inr hd)) hno, fun _ => ⟨e, ?_, ?_⟩⟩
    · rw [if_pos rfl]
      exact hself
    · rw [SweepFields.secondIndex, if_pos (.inl hd), htake]
    · rw [if_pos rfl]
      exact hself

end

/-! ### Rounds in which the engine is lent a buffer (R97, R98) -/

section
variable {n : Nat} {s t : State} {i : Fin 16} {x : Slot} {p : Pool} {w : List Work}

theorem engineRounds_issues (h : tryIssue i s = t) (ht : tryIssue i t = t) : engineRounds (n + 1) i s = engineRounds (n + 1) i t := by
  rw [engineRounds, h]
  conv_rhs => rw [engineRounds, ht]

variable (ht : tryIssue i (s.engage i x p w) = s.engage i x p w)
include ht

theorem engineRounds_content (h : x.asks (p.waiting.contains i) = false) :
    engineRounds (n + 1) i (s.engage i x p w) = s.engage i x p w := by
  rw [engineRounds_rests (by rw [ht, wantsBuffer_engage, h, Bool.and_false]), ht]

variable (hx : x.works = true) (hz : s.zoneHold i = false) (h : x.asks (p.waiting.contains i) = true)
include hx hz h

theorem engineRounds_queues (hp : p.free = 0) :
    engineRounds (n + 1) i (s.engage i x p w) = s.engage i x { p with waiting := p.waiting ++ [i] } w := by
  rw [engineRounds_waits (by rw [ht, wantsBuffer_engage, hx, hz, h]; rfl) (by exact hp), ht, engage_withPool]
  rfl

theorem engineRounds_takes {c : Chunk} {again : Bool} {e : Sweep} (hp : 0 < p.free) (htake : x.take = some (c, again, e)) :
    engineRounds (n + 1) i (s.engage i x p w) = engineRounds n i
      (s.engage i { x with sweep := { e with hand := e.hand ++ [lentChunk p.lendings x.sweep.isWrite again c] } }
        { p with free := p.free - 1, lendings := p.lendings + 1 }
        (w ++ if x.sweep.isWrite then [{ slot := i, lending := p.lendings, check := false }] else [])) := by
  obtain ⟨hkind, hlen⟩ : x.sweep.movesChunks = true ∧ x.sweep.hand.length < 2 := by
    unfold Slot.asks at h
    simp only [Bool.and_eq_true, decide_eq_true_eq] at h
    exact ⟨h.1.1.1, h.1.1.2⟩
  have hwrite : e.isWrite = x.sweep.isWrite := by rw [Sweep.isWrite, Sweep.isWrite, Sweep.kindCode, Sweep.kindCode, take_step htake]
  rw [engineRounds_lends (by rw [ht, wantsBuffer_engage, hx, hz, h]; rfl) (by exact hp), ht, engage_withPool,
    lend_engage hkind hlen htake hwrite]
  rfl

end

/-! ### A sweep of chunks that begins (R92, R97, R98) -/

theorem nextTake_fresh {e : Sweep} (h : e.redo = []) : e.nextTake = e.takeIndex.map fun q => (e.gridChunk q.1, q.2) := by
  rw [Sweep.nextTake, h]

theorem isWrite_step {e e' : Sweep} (h : e'.step = e.step) : e'.isWrite = e.isWrite := by
  rw [Sweep.isWrite, Sweep.isWrite, Sweep.kindCode, Sweep.kindCode, h]

section
variable {n : Nat} {s : State} {i : Fin 16} {y : Slot} {p : Pool} {w : List Work} {e : Sweep} {f : SweepFields} {first : InHand}
  {bands : Vector Band 16} (hy : y.sweep = e.reframed [first] e.pacing bands) (huse : first.use ≠ .prepared)
  (hk : e.step = some (.writeSweep f) ∨ ∃ v, e.step = some (.readSweep f v)) (hredo : e.redo = []) (hi : y.op.interrupted = none)
  (hx : y.works = true) (hz : s.zoneHold i = false) (hwait : i ∉ p.waiting)
  (hstill : y.op.outstanding.isSome = true ∨ e.isWrite = true)
include hy huse hk hredo hi

theorem asks_second : y.asks false = e.takeIndex.isSome ∧
    y.take = e.takeIndex.map fun q => (e.gridChunk q.1, false, q.2.reframed [first] e.pacing bands) := by
  obtain ⟨-, -, hmoves, -⟩ := direction_of_fields hk
  have hnext : y.sweep.nextTake = e.takeIndex.map fun q => (e.gridChunk q.1, q.2.reframed [first] e.pacing bands) := by
    rw [hy, nextTake_reframed, nextTake_fresh hredo, Option.map_map]
    rfl
  constructor
  · rw [Bool.eq_iff_iff, asks_iff hi (by rw [hy]; exact hmoves) (by rw [hy]; simpa [Sweep.reframed] using huse), hnext, hy]
    simp [Sweep.reframed]
  · rw [take_of_no_chunk (chunkWaiting_none hi), hnext, Option.map_map]
    rfl

include hstill in
omit hredo in
theorem tryIssue_second : tryIssue i (s.engage i y p w) = s.engage i y p w := by
  rcases hstill with h | h
  · exact tryIssue_outstanding h
  · obtain ⟨-, hseek, -, -⟩ := direction_of_fields hk
    refine tryIssue_unprepared hi (by rw [hy]; exact hseek) ?_
    rw [hy]
    simpa [Sweep.prepared, Sweep.reframed] using huse

include hx hz hwait hstill

/-- Behind its first chunk an engine asks for a second while the sweep has one (R97). -/
theorem engineRounds_second :
    (e.takeIndex = none → engineRounds (n + 2) i (s.engage i y p w) = s.engage i y p w) ∧
    ∀ k e₂, e.takeIndex = some (k, e₂) →
      (p.free = 0 → engineRounds (n + 2) i (s.engage i y p w) = s.engage i y { p with waiting := p.waiting ++ [i] } w) ∧
      (0 < p.free → engineRounds (n + 2) i (s.engage i y p w) = s.engage i
        { y with sweep := e₂.reframed [first, lentChunk p.lendings e.isWrite false (e.gridChunk k)] e.pacing bands }
        { p with free := p.free - 1, lendings := p.lendings + 1 }
        (w ++ if e.isWrite then [{ slot := i, lending := p.lendings, check := false }] else [])) := by
  obtain ⟨hasks, htake⟩ := asks_second hy huse hk hredo hi
  have htry := tryIssue_second (s := s) (i := i) (p := p) (w := w) hy huse hk hi hstill
  have hnotWaiting : p.waiting.contains i = false := by simpa using hwait
  have hwrite : y.sweep.isWrite = e.isWrite := by rw [hy]; rfl
  refine ⟨fun hnone => ?_, fun k e₂ hsome => ⟨fun hfree => ?_, fun hfree => ?_⟩⟩
  · exact engineRounds_content htry (by rw [hnotWaiting, hasks, hnone]; rfl)
  · exact engineRounds_queues htry hx hz (by rw [hnotWaiting, hasks, hsome]; rfl) hfree
  · rw [hsome] at hasks htake
    rw [engineRounds_takes htry hx hz (by rw [hnotWaiting, hasks]; rfl) hfree htake, hwrite]
    let z : Slot := { y with
      sweep := e₂.reframed [first, lentChunk p.lendings e.isWrite false (e.gridChunk k)] e.pacing bands }
    have hzkind : e₂.step = e.step := takeIndex_step hsome
    have hzseek : z.sweep.isSeek = false := (isSeek_step (e := e) (e' := z.sweep) hzkind).trans (direction_of_fields hk).2.1
    have hztry (q : Pool) (v : List Work) : tryIssue i (s.engage i z q v) = s.engage i z q v := by
      rcases hstill with h | h
      · exact tryIssue_outstanding h
      · refine tryIssue_unprepared hi hzseek ?_
        simp [z, Sweep.prepared, Sweep.reframed, lentChunk, h, huse]
    exact engineRounds_content (hztry _ _) (by simp [Slot.asks, Sweep.reframed])

end

/-- An engine whose sweep begins: nothing to redo, nothing in hand, the cursor at the start of its lap. -/
structure Sweep.Fresh (e : Sweep) (f : SweepFields) : Prop where
  kind : e.step = some (.writeSweep f) ∨ ∃ v, e.step = some (.readSweep f v)
  grid : 0 < e.grid
  redo : e.redo = []
  hand : e.hand = []
  lo : e.lo = 0
  hi : e.hi = e.grid - 1
  lowNext : e.lowNext = true
  remaining : e.remaining = e.grid

section
variable {s : State} {i : Fin 16} {x : Slot} {p : Pool} {w : List Work} {f : SweepFields} (hf : x.sweep.Fresh f)
  (hi : x.op.interrupted = none) (hx : x.works = true) (hz : s.zoneHold i = false) (hwait : i ∉ p.waiting)
include hf hi

theorem tryIssue_fresh : tryIssue i (s.engage i x p w) = s.engage i x p w :=
  tryIssue_unprepared hi (direction_of_fields hf.kind).2.1 (by rw [Sweep.prepared, hf.hand]; rfl)

theorem asks_fresh {k : Nat} {e₁ : Sweep} (ht : x.sweep.takeIndex = some (k, e₁)) :
    x.asks false = true ∧ x.take = some (x.sweep.gridChunk k, false, e₁) := by
  have hnext : x.sweep.nextTake = some (x.sweep.gridChunk k, e₁) := by rw [nextTake_fresh hf.redo, ht]; rfl
  constructor
  · rw [asks_iff hi (direction_of_fields hf.kind).2.2.1 (by rw [hf.hand]; simp), hnext, hf.hand]
    simp
  · rw [take_of_no_chunk (chunkWaiting_none hi), hnext]
    rfl

include hx hz hwait

/-- With no buffer free the engine queues up for one (R98). -/
theorem engineGo_fresh_queues {k : Nat} {e₁ : Sweep} (ht : x.sweep.takeIndex = some (k, e₁)) (hp : p.free = 0) :
    engineGo i (s.engage i x p w) = s.engage i x { p with waiting := p.waiting ++ [i] } w :=
  engineRounds_queues (tryIssue_fresh hf hi) hx hz (by rw [show p.waiting.contains i = false by simpa using hwait]; exact (asks_fresh hf hi ht).1) hp

/-- With a buffer free the engine is lent one, and takes its first chunk (R97, R98). -/
theorem engineGo_fresh_takes {k : Nat} {e₁ : Sweep} (ht : x.sweep.takeIndex = some (k, e₁)) (hp : 0 < p.free) :
    engineGo i (s.engage i x p w) = engineRounds 3 i (s.engage i
      { x with sweep := e₁.reframed [lentChunk p.lendings x.sweep.isWrite false (x.sweep.gridChunk k)] e₁.pacing e₁.bands }
      { p with free := p.free - 1, lendings := p.lendings + 1 }
      (w ++ if x.sweep.isWrite then [{ slot := i, lending := p.lendings, check := false }] else [])) := by
  obtain ⟨hasks, htake⟩ := asks_fresh hf hi ht
  have hhand : e₁.hand = [] := (takeIndex_hand ht).trans hf.hand
  refine (engineRounds_takes (tryIssue_fresh hf hi) hx hz (by rw [show p.waiting.contains i = false by simpa using hwait]; exact hasks) hp
    htake).trans ?_
  rw [hhand]
  rfl

/-- The prepared chunk of a READ SWEEP under drive pacing is issued as it is lent (R92). -/
theorem engineGo_fresh_issues {plan : Plan} {e₁ : Sweep} {k : Nat} (hplan : x.plan.bind s.planAt = some plan)
    (ht : x.sweep.takeIndex = some (k, e₁)) (hp : 0 < p.free) (hread : x.sweep.isWrite = false) (hpace : f.pacing = .drive)
    (ho : x.op.outstanding = none) : engineGo i (s.engage i x p w) = engineRounds 3 i (s.engage i
      { x with
        sweep := e₁.reframed [{ lentChunk p.lendings false false (x.sweep.gridChunk k) with use := .inFlight }] e₁.pacing
          (e₁.bands.set (x.sweep.gridChunk k).band ((e₁.bands.get (x.sweep.gridChunk k).band).issued s.now))
        op := x.op.sending (.read (x.sweep.gridChunk k)) s.now plan.readTimeout }
      { p with free := p.free - 1, lendings := p.lendings + 1 } w) := by
  let h := lentChunk p.lendings false false (x.sweep.gridChunk k)
  let y : Slot := { x with sweep := e₁.reframed [h] e₁.pacing e₁.bands }
  have hfirst : e₁.step = x.sweep.step := takeIndex_step ht
  have hstep : y.sweep.step = x.sweep.step := hfirst
  have hkind : y.sweep.step = some (.writeSweep f) ∨ ∃ v, y.sweep.step = some (.readSweep f v) := by rw [hstep]; exact hf.kind
  obtain ⟨-, -, hmoves, hpaced⟩ := direction_of_fields hkind
  have hywrite : y.sweep.isWrite = false := (isWrite_step hstep).trans hread
  have hsends : y.chunkSent plan s.now h = { x with
      sweep := e₁.reframed [{ h with use := .inFlight }] e₁.pacing
        (e₁.bands.set (x.sweep.gridChunk k).band ((e₁.bands.get (x.sweep.gridChunk k).band).issued s.now))
      op := x.op.sending (.read (x.sweep.gridChunk k)) s.now plan.readTimeout } := by
    have hop : y.sweep.chunkOp h.chunk = .read h.chunk := by rw [Sweep.chunkOp, hywrite]; rfl
    have hsent := chunkSent_op (x := y) (plan := plan) (now := s.now) (h := h) hi
    rw [hop] at hsent
    have hhand : (y.sweep.sentOff h.lending).hand = [{ h with use := .inFlight }] := by simp [Sweep.sentOff, y, Sweep.reframed, h, lentChunk]
    calc y.chunkSent plan s.now h
        = { y with sweep := (y.chunkSent plan s.now h).sweep, op := (y.chunkSent plan s.now h).op } := rfl
      _ = _ := by
        rw [hsent, chunkSent_sweep, hhand]
        rfl
  have htry (q : Pool) (v : List Work) : tryIssue i (s.engage i y q v) = s.engage i (y.chunkSent plan s.now h) q v :=
    tryIssue_chunk hplan hx hz hmoves ho hi (by rw [← hpace]; exact congrArg Prod.fst hpaced) rfl
  rw [engineGo_fresh_takes hf hi hx hz hwait ht hp, hread, ← hsends]
  exact (engineRounds_issues (htry _ _) (tryIssue_outstanding rfl)).trans (by simp)

/-- Under tick pacing the first chunk stays prepared, and no second is asked for (R93, R97). -/
theorem engineGo_fresh_prepares {e₁ : Sweep} {k : Nat} (ht : x.sweep.takeIndex = some (k, e₁)) (hp : 0 < p.free)
    (hread : x.sweep.isWrite = false) (hpace : f.pacing = .tick) : engineGo i (s.engage i x p w) = s.engage i
      { x with sweep := e₁.reframed [lentChunk p.lendings false false (x.sweep.gridChunk k)] e₁.pacing e₁.bands }
      { p with free := p.free - 1, lendings := p.lendings + 1 } w := by
  let y : Slot := { x with sweep := e₁.reframed [lentChunk p.lendings false false (x.sweep.gridChunk k)] e₁.pacing e₁.bands }
  have hfirst : e₁.step = x.sweep.step := takeIndex_step ht
  have hstep : y.sweep.step = x.sweep.step := hfirst
  have hkind : y.sweep.step = some (.writeSweep f) ∨ ∃ v, y.sweep.step = some (.readSweep f v) := by rw [hstep]; exact hf.kind
  obtain ⟨-, -, -, hpaced⟩ := direction_of_fields hkind
  have htry (q : Pool) (v : List Work) : tryIssue i (s.engage i y q v) = s.engage i y q v :=
    tryIssue_paced hi (by rw [hpaced]; show f.pacing ≠ .drive; rw [hpace]; nofun)
  rw [engineGo_fresh_takes hf hi hx hz hwait ht hp, hread]
  refine (engineRounds_content (htry _ _) ?_).trans (by simp [y])
  rw [Slot.asks, chunkWaiting_none (x := y) hi]
  simp [y, Sweep.reframed, lentChunk]

end

end Sys2Proof.Machine
end

section
/-! SUPPORT. The advance of the executor, round by round (R48, R49), and what each kind of step begins with (R50 to R57), on a slot's
record, the pool and the work. -/

namespace Sys2Proof.Machine

/-! ### Rounds of the advance (R48, R49) -/

theorem walkFuel_two : ∃ n, walkFuel = n + 2 :=
  Nat.exists_eq_add_of_le' (le_trans (by norm_num) (Nat.mul_le_mul (Nat.one_le_two_pow (n := 130)) (Nat.pow_le_pow_right two_pos (show 1 ≤ 130 by norm_num))))

section
variable {n : Nat} {met : Bool} {i : Fin 16} {s t : State} {st : Step}

/-- The round in which a step begins is the last. -/
theorem walk_stays (hs : s.stepAt i = some st) (hr : ∀ target count, st ≠ .repeatTo target count)
    (hb : beginStep met i st s = (t, false)) : walk (n + 1) met i s = t := by
  rw [walk, hs]
  cases st with
  | repeatTo target count => exact absurd rfl (hr target count)
  | _ => simp only [hb]

/-- A step that ends at once is passed. -/
theorem walk_passes (hs : s.stepAt i = some st) (hr : ∀ target count, st ≠ .repeatTo target count)
    (hb : beginStep met i st s = (t, true)) : walk (n + 1) met i s = walk n met i (t.modSlot i Slot.stepOver) := by
  rw [walk, hs]
  cases st with
  | repeatTo target count => exact absurd rfl (hr target count)
  | _ => simp only [hb]

theorem walk_repeats {target count : Nat} (hs : s.stepAt i = some (.repeatTo target count)) : walk (n + 1) met i s =
    walk n met i (s.modExec i (resolveRepeat (repeatPlace (s.stepsOf i) (s.slot i).exec.index) target count)) := by
  rw [walk, hs]

end

theorem nextStep_walk (s : State) (i : Fin 16) (x : Slot) (p : Pool) (w : List Work) :
    nextStep i (s.engage i x p w) = walk walkFuel false i (s.engage i x.stepOver p w) := by
  rw [nextStep, engage_modSlot]
  rfl

/-! ### What a step begins with (R50 to R57) -/

/-- The record of a slot whose step has issued the operation it is for (R51, R52, R57). -/
def Slot.opBegun (op : Op) (timeout now : Nat) (x : Slot) : Slot :=
  { x with
    exec := { x.exec with phase := .working, dwell := 0, timer := none }
    op := { x.op.sending op now timeout with stage := 0 } }

/-- The record of a slot whose DWELL begins (R56). -/
def Slot.dwellBegun (x : Slot) : Slot :=
  { x with exec := { x.exec with phase := .working, dwell := 0, timer := none }, op := { x.op with stage := 0 } }

/-- The record of a slot whose sweep step begins, before its engine does anything (R53, R55). -/
def Slot.sweepBegun (st : Step) (id : Identity) (x : Slot) : Slot :=
  { x with
    exec := { x.exec with
      phase := .working, dwell := 0, timer := st.timer, pass := if st.isWriteSweep then nextPass x.exec.pass else x.exec.pass }
    op := { x.op with stage := 0 }
    sweep := { Sweep.started st id.capacity id.sectorSize with hand := x.sweep.hand } }

section
variable {s : State} {i : Fin 16} {x : Slot} {p : Pool} {w : List Work} {plan : Plan}

theorem stepAt_engage (hplan : x.plan.bind s.planAt = some plan) :
    (s.engage i x p w).stepAt i = plan.steps[x.exec.index]? := by
  rw [stepAt_eq (plan := plan) (by rw [engage_planOf]; exact hplan), engage_slot_same]

theorem begun_sweep {st : Step} {id : Identity} (hst : st.isSweep = true) (hid : x.identity = some id) : x.begun st =
    { x.sweepBegun st id with exec := { (x.sweepBegun st id).exec with phase := x.exec.phase } } := by
  simp [Slot.begun, Slot.engineBegun, hst, hid, Slot.sweepBegun]

variable (hh : x.held = false) (hz : s.zoneHold i = false)
include hh hz

theorem unpaused_engage : (s.engage i x p w).paused i = false := by
  rw [paused_engage, hh, hz]
  rfl

theorem beginStep_op {st : Step} {op : Op} (hplan : x.plan.bind s.planAt = some plan) (hspun : x.spun = true) (hf : st.firstOp = some op) :
    beginStep false i st (s.engage i x p w) = (s.engage i (x.opBegun op (opTimeout plan op) s.now) p w, false) := by
  have hpause (y : Slot) (hy : y.held = false) : (s.engage i y p w).paused i = false := unpaused_engage hy hz
  have hissue (y : Slot) (hy : y.plan = x.plan) := issue_engage (s := s) (i := i) (x := y) (p := p) (w := w) (by rw [hy]; exact hplan) op []
  cases st with
  | ident | health | standby =>
    obtain rfl := Option.some.inj hf
    simp [beginStep, hpause x hh, startWork, setPhase, Slot.begun, hspun, Slot.engineBegun, Step.isSweep, Step.timer, Step.isWriteSweep,
      Step.needsSpun]
    exact (issue_engage (x := { x.dwellBegun with spun := true }) hplan _ _).trans
      (by simp [Slot.opBegun, Slot.dwellBegun, OpUnit.sending, hspun])
  | _ => cases hf

theorem beginStep_dwell (m : Nat) : beginStep false i (.dwell m) (s.engage i x p w) = (s.engage i x.dwellBegun p w, false) := by
  simp [beginStep, unpaused_engage hh hz, startWork, setPhase, Slot.begun, Slot.engineBegun, Step.isSweep, Step.timer, Step.isWriteSweep,
    Step.needsSpun, Slot.dwellBegun]

/-- A sweep step of a spun drive begins, and ends at once where its range is empty (R53, R55, R88). -/
theorem beginStep_sweep {st : Step} {id : Identity} (hst : st.isSweep = true) (hid : x.identity = some id) (hspun : x.spun = true) :
    beginStep false i st (s.engage i x p w) =
      if (x.sweepBegun st id).sweep.range = 0 then (s.engage i (x.sweepBegun st id) p w, true)
      else (engineGo i (s.engage i (x.sweepBegun st id) p w), false) := by
  have hstarts : beginStep false i st (s.engage i x p w) = startSweep i (s.engage i (x.sweepBegun st id) p w) := by
    have hbegun := begun_sweep (x := x) hst hid
    cases st with
    | writeSweep f | readSweep f v | seekSweep f =>
      simp only [beginStep, unpaused_engage hh hz, engage_modSlot, engage_slot_same, hbegun, startWork, setPhase, engage_modExec, hspun]
      simp [Slot.sweepBegun, hspun]
    | _ => cases hst
  rw [hstarts, startSweep, engage_slot_same]

/-- A sweep step of a drive that is not spun opens with a spin phase (R50). -/
theorem beginStep_spins {st : Step} {id : Identity} (hst : st.isSweep = true) (hid : x.identity = some id) (hspun : x.spun = false) :
    beginStep false i st (s.engage i x p w) = (admission (s.engage i { x.sweepBegun st id with
      state := .waitPower, exec := { (x.sweepBegun st id).exec with phase := .spinUp } } p w), false) := by
  have hbegun := begun_sweep (x := x) hst hid
  cases st with
  | writeSweep f | readSweep f v | seekSweep f =>
    simp only [beginStep, unpaused_engage hh hz, engage_modSlot, engage_slot_same, hbegun]
    simp [Slot.sweepBegun, hspun, Step.needsSpun, awaitPower]
  | _ => cases hst

end

theorem ceilDiv_of_zero {n c : Nat} (h : n = 0) : ceilDiv n c = 0 := by
  subst h
  rw [ceilDiv, Nat.zero_add]
  rcases Nat.eq_zero_or_pos c with rfl | hc
  · rfl
  · exact Nat.div_eq_of_lt (by omega)

/-- The engine with its cursor moved, and other chunks in hand. -/
theorem cursorMoved_reframed {e e' : Sweep} {n : Nat} (h : e.CursorMoved e' n) (hand : List InHand) (bands : Vector Band 16) :
    e'.reframed hand e'.pacing bands =
      { e with hand := hand, lo := e'.lo, hi := e'.hi, lowNext := e'.lowNext, bands := bands, remaining := n } :=
  congrArg (fun q => q.reframed hand q.pacing bands) h

theorem cursorMoved_gridChunk {e e' : Sweep} {n : Nat} (h : e.CursorMoved e' n) : e'.gridChunk = e.gridChunk :=
  calc e'.gridChunk
      = Sweep.gridChunk { e with lo := e'.lo, hi := e'.hi, lowNext := e'.lowNext, remaining := n } := congrArg Sweep.gridChunk h
    _ = e.gridChunk := rfl

theorem bands_issued {bands : Vector Band 16} {b k : Fin 16} {now : Nat} : (bands.set k ((bands.get k).issued now)).get b =
    if b = k ∧ (bands.get b).state = .notStarted then { bands.get b with state := .running now } else bands.get b := by
  by_cases hb : b = k
  · subst hb
    simp [Vector.get_eq_getElem, Band.issued]
  · have hne : k.val ≠ b.val := fun h => hb (Fin.ext h).symm
    rw [if_neg fun h => hb h.1]
    simp [Vector.get_eq_getElem, Vector.getElem_set_ne _ _ hne]

/-! ### The duplicate serial check (R159) -/

theorem duplicate_engage (s : State) (i : Fin 16) (x : Slot) (p : Pool) (w : List Work) (serial : List Byte) :
    (s.engage i x p w).duplicate i serial = s.duplicate i serial := by
  unfold State.duplicate
  congr 2
  funext j
  by_cases hj : j = i
  · simp [hj]
  · rw [engage_slot_ne _ _ _ _ hj]

theorem duplicate_iff (s : State) (i : Fin 16) (serial : List Byte) : s.duplicate i serial = true ↔
    (∃ j : Fin 16, j ≠ i ∧ (s.slot j).identity.map Identity.serial = some serial) ∨
      ∃ l ∈ s.lots.manifest ++ s.lots.full ++ s.lots.opens, ∃ m ∈ l.members, m.serial = serial := by
  have hids (j : Fin 16) : j ∈ slotIds := by revert j; decide
  simp only [State.duplicate, Bool.or_eq_true, List.any_eq_true, Bool.and_eq_true, decide_eq_true_eq, Lot.holds]
  exact or_congr ⟨fun ⟨j, _, h⟩ => ⟨j, h⟩, fun ⟨j, h⟩ => ⟨j, hids j, h⟩⟩ Iff.rfl

/-! ### SPIN DONE (R50, R70) -/

/-- The record of a slot whose spin-up is over, nothing interrupted (R50, R70). -/
def Slot.spunUp (x : Slot) : Slot :=
  { x with state := .active, spun := true, op := { x.op.closed with interrupted := none } }

section
variable {s : State} {i : Fin 16} {plan : Plan} (hx : (s.slot i).state = .spinning) (hphase : (s.slot i).exec.phase = .spinUp)
  (hplan : s.planOf i = some plan)
include hx hphase hplan

/-- Behind SPIN DONE the executor goes on in a state that admission has settled (R31, R50). -/
theorem spinDone_goes_on : ∃ v : State, Settled v ∧ v.now = s.now ∧ v.line = s.line ∧ v.lots = s.lots ∧ v.zoneHold i = s.zoneHold i ∧
    (s.slot i).plan.bind v.planAt = some plan ∧ (v.slot i).sweep.hand = (s.slot i).sweep.hand ∧ SlotFixed (v.slot i) (s.slot i).spunUp ∧
    spinDone i (s.modOp i OpUnit.closed) =
      if plan.steps[(s.slot i).exec.index]? = some .spin then nextStep i (v.engage i (s.slot i).spunUp v.pool v.work)
      else resumeWork i (setPhase i .working (v.engage i (s.slot i).spunUp v.pool v.work)) := by
  let act : Slot := { s.slot i with op := (s.slot i).op.closed, state := .active, spun := true }
  let u := s.engage i act s.pool s.work
  have hui : u.slot i = act := engage_slot_same ..
  have hvi : (admission u).slot i = act := (admission_slot u i (by rw [hui]; exact nofun)).trans hui
  have huntouched := moves_untouched (moves_admission (strict := true) u)
  have hplanAt : (admission u).planAt = s.planAt := funext fun p => by rw [State.planAt, huntouched.plans]; rfl
  refine ⟨admission u, settled_admission u, huntouched.now, admission_line u, admission_lots u, ?_, ?_, ?_, ?_, ?_⟩
  · rw [State.zoneHold, admission_zone]
    rfl
  · rw [hplanAt]
    exact hplan
  · rw [hvi]
  · rw [hvi]
    exact ⟨rfl, rfl, rfl, rfl, rfl, .refl _⟩
  · have hspins : spinDone i (s.modOp i OpUnit.closed) =
        match ((admission u).engage i (s.slot i).spunUp (admission u).pool (admission u).work).stepAt i with
        | some .spin => nextStep i ((admission u).engage i (s.slot i).spunUp (admission u).pool (admission u).work)
        | _ => resumeWork i (setPhase i .working ((admission u).engage i (s.slot i).spunUp (admission u).pool (admission u).work)) := by
      have hmod : (admission u).modOp i (fun w => { w with interrupted := none }) =
          (admission u).engage i (s.slot i).spunUp (admission u).pool (admission u).work := by
        rw [modOp_eq_engage, hvi]
        rfl
      rw [modOp_eq_engage]
      simp only [spinDone, engage_slot_same, hx, if_true, engage_modSlot]
      simp only [u, act] at hvi hmod
      simp only [hvi, hphase, hmod, u, act] <;> rfl
    rw [hspins, stepAt_engage (plan := plan) (by rw [hplanAt]; exact hplan)]
    split
    · exact (if_pos ‹_›).symm
    · exact (if_neg ‹_›).symm

end

end Sys2Proof.Machine
end

section
/-! The statement about completions that advance a run (O53). -/

namespace Sys2Proof.Proofs

open Sys2Proof Sys2Proof.Machine

/-- Settles O53, completion by completion: what the step that ends leaves, and what the step behind it begins with. -/
theorem completionsAdvanceTheRun : Obligations.CompletionsAdvanceTheRun := by
  intro i plan c s hplan htag hs hheld hz x exec' op'
  have hzone := zoneHold_eq_false hz
  let stoodBy : Slot := { x with op := x.op.closed, spun := false }
  have hstandby (hx : x.state = .active) (ho : x.op.outstanding = some .standby) :
      completionArrives i (.record c) s = nextStep i (s.engage i stoodBy s.pool s.work) := by
    have hread : readCompletion x .standby c = .done := by simp [readCompletion, hs]
    rw [completionArrives_matched ho htag, handle_done hread hx nofun nofun]
    simp only [workDone, engage_modSlot]
    rfl
  refine ⟨fun hx ho hphase hcur hnext => ?_, fun n hpayload hx ho hspun => ?_, fun m hx ho hnext => ?_, fun st id hx ho hnext hst hid => ?_,
    fun f hx ho hphase hcur hk hpace hl hle hg => ?_, fun serial capacity size realloc hpayload hsize hlow hhigh hrealloc hlen hx ho => ?_⟩
  · obtain ⟨v, hsettled, hnow, hline, hlots, hvzone, hvplan, hhand, hfixed, hspins⟩ := spinDone_goes_on hx hphase hplan
    have hends := (((completionArrives_matched ho htag).trans (handle_spin hs)).trans hspins).trans (if_pos hcur)
    let y : Slot := x.spunUp.stepOver.opBegun .ident plan.identTimeout v.now
    have hleft := hends.trans (nextStep_begins (x := x.spunUp) hvplan hnext nofun
      (beginStep_op (x := x.spunUp.stepOver) hheld (hvzone.trans hzone) hvplan rfl rfl))
    have hquiet : Quiet v (v.engage i y v.pool v.work) :=
      quiet_setSlot v i y (hfixed.trans ⟨rfl, rfl, rfl, rfl, rfl, .refl _⟩) (by rw [hhand]; rfl)
    have huntouched := moves_untouched (moves_completionArrives (strict := true) i (.record c) s)
    rw [hleft] at huntouched
    refine ⟨_, y.sweep, congrArg completed hleft, untouched_refreshLamps huntouched, hline, hlots, ?_, rfl, rfl,
      admission_of_settled (settled_refreshLamps (settled_quiet hquiet hsettled))⟩
    rw [refreshLamps_slot, engage_slot_same, hnow]
    rfl
  · intro left y
    let z : Slot := { x with op := x.op.closed, acc := { x.acc with reallocEnd := some n.toNat } }
    have hread : readCompletion x .health c = .done := by simp [readCompletion, hs, hpayload, healthPayload]
    have harrives : completionArrives i (.record c) s = nextStep i (s.engage i z s.pool s.work) := by
      rw [completionArrives_matched ho htag, handle_done hread hx nofun nofun]
      simp only [workDone, hpayload, healthPayload, engage_modAcc]
      rfl
    have hleft {u : Slot} (h : completionArrives i (.record c) s = s.engage i u s.pool s.work) : ∃ t, left t ∧ t.slot i = u := by
      obtain ⟨t, ht, -, hsame, hother, hslot⟩ := completion_left h
      exact ⟨t, ⟨ht, hsame, hother⟩, hslot⟩
    have hhealth {u : Slot} (hu : u.plan = x.plan) (hheld : u.held = false) (hspun : u.spun = true) :
        beginStep false i .health (s.engage i u s.pool s.work) =
          (s.engage i (u.opBegun .health plan.healthTimeout s.now) s.pool s.work, false) :=
      beginStep_op hheld hzone (by rw [hu]; exact hplan) hspun rfl
    refine ⟨fun hnext => ?_, fun id hid => ?_, fun target count hnext => ?_⟩
    · exact hleft (harrives.trans (nextStep_begins (x := z) hplan hnext nofun
        (beginStep_op (x := z.stepOver) hheld hzone hplan hspun rfl)))
    · intro idle at_ pass
      have hbegins {st : Step} (hst : st.isSweep = true) (hnext : plan.steps[x.exec.index + 1]? = some st)
          (hrange : (z.stepOver.sweepBegun st id).sweep.range ≠ 0) :
          completionArrives i (.record c) s = engineGo i (s.engage i (z.stepOver.sweepBegun st id) s.pool s.work) := by
        have hrepeat (target count : Nat) : st ≠ .repeatTo target count := by
          rintro rfl
          cases hst
        refine harrives.trans (nextStep_begins (x := z) hplan hnext hrepeat ?_)
        rw [beginStep_sweep (x := z.stepOver) hheld hzone hst hid hspun, if_neg hrange]
      refine ⟨fun f hnext hlt hcount => ?_, fun st f hnext hkind hlt hchunk hlow hhigh hhand hwait => ?_,
        fun st start stop hnext hkind hle hafter => ?_⟩
      · let v := z.stepOver.sweepBegun (.seekSweep f) id
        have hgrid : v.sweep.grid = f.count := if_pos hlt
        have hgoes := hbegins (st := .seekSweep f) rfl hnext (Nat.sub_ne_zero_of_lt hlt)
        have hvi : (s.engage i v s.pool s.work).slot i = v := engage_slot_same ..
        intro e
        have he : v.sweep = e := by
          have hpos : perMille id.capacity f.start < perMille id.capacity f.stop := hlt
          simp only [v, Slot.sweepBegun, Sweep.started, Sweep.rewound, hpos, if_true]
          rfl
        have hpaced : f.pacing = .drive ∨ f.pacing = .tick := by cases f.pacing <;> simp
        rcases hpaced with hpace | hpace
        · have hgo : engineGo i (s.engage i v s.pool s.work) = s.engage i { v with
              sweep := { e with lo := 1, lowNext := false }, op := v.op.sending (.seek (at_ f.start)) s.now plan.seekTimeout } s.pool s.work := by
            have hmay : (s.engage i v s.pool s.work).mayWork i = true := by
              rw [mayWork_engage, (works_iff v).2 ⟨hx, rfl, hheld⟩, hzone]
              rfl
            have hvplan : (s.engage i v s.pool s.work).planOf i = some plan := by
              rw [engage_planOf]
              exact hplan
            have hissue := tryIssue_seek (f := f) (plan := plan) hmay hvplan (by rw [hvi]; rfl) hpace (by rw [hvi]; rfl) (by rw [hvi]; rfl)
              (by rw [hvi]; rfl) (by rw [hvi]; exact Nat.zero_le _) (by rw [hvi, hgrid]; exact hcount)
            have hlba : v.sweep.seekLba v.sweep.lo = at_ f.start := by
              show at_ f.start + 0 * _ / _ = _
              simp
            rw [engineGo_seek (f := f) (by rw [hissue, slot_setSlot_same, hvi]; rfl), hissue, hvi, hlba, engage_setSlot, he]
            rfl
          obtain ⟨t, ht, hslot⟩ := hleft (hgoes.trans hgo)
          refine ⟨t, ht, fun _ => hslot.trans rfl, fun h => ?_⟩
          rw [hpace] at h
          cases h
        · have hrest : tryIssue i (s.engage i v s.pool s.work) = s.engage i v s.pool s.work :=
            tryIssue_paced rfl (by show f.pacing ≠ .drive; rw [hpace]; nofun)
          have hgo : engineGo i (s.engage i v s.pool s.work) = s.engage i v s.pool s.work :=
            (engineGo_seek (f := f) (by rw [hrest, hvi]; rfl)).trans hrest
          obtain ⟨t, ht, hslot⟩ := hleft (hgoes.trans hgo)
          refine ⟨t, ht, fun h => ?_, fun _ => hslot.trans ?_⟩
          · rw [hpace] at h
            cases h
          · rw [← he]
            rfl
      · intro first stop chunk grid e from_ k second free reads again hand
        let v := z.stepOver.sweepBegun st id
        have hst : st.isSweep = true := by rcases hkind with rfl | ⟨verify, rfl⟩ <;> rfl
        have he : e = { Sweep.reset with
            step := some st, first := first, stop := stop, chunk := chunk, grid := grid, lo := 0, hi := grid - 1
            lowNext := true, remaining := grid, bands := e.bands
            pacing := if f.pacing = .tick then some f.interval else none } := by
          rcases hkind with rfl | ⟨verify, rfl⟩ <;> rfl
        have hv : v.sweep = e := by
          show { e with hand := x.sweep.hand } = e
          rw [hhand, he]
          rfl
        have hchunkPos : 1 ≤ chunk := by
          have := Nat.div_pos hhigh hlow
          show 1 ≤ min f.chunk (65536 / id.sectorSize)
          omega
        have hgap : 0 < stop - first := Nat.sub_pos_of_lt hlt
        have hgridPos : 0 < grid := by
          have hcover := le_ceilDiv_mul (stop - first) hchunkPos
          by_contra hno
          have hzero : ceilDiv (stop - first) chunk = 0 := Nat.eq_zero_of_not_pos hno
          rw [hzero] at hcover
          omega
        have hfresh : v.sweep.Fresh f := by
          rw [hv, he]
          exact ⟨hkind.imp (congrArg some) fun ⟨verify, h⟩ => ⟨verify, congrArg some h⟩, hgridPos, rfl, rfl, rfl, rfl, rfl, rfl⟩
        have hrange : v.sweep.range ≠ 0 := by
          rw [hv, he]
          exact hgap.ne'
        have hgoes := hbegins hst hnext hrange
        have hk : e.gridChunk 0 = k := by
          have hdir : e.direction = f.direction := by
            rw [← hv]
            exact (direction_of_step hfresh.kind).1
          obtain ⟨hef, hes, hec⟩ : e.first = first ∧ e.stop = stop ∧ e.chunk = chunk := by
            rw [he]
            exact ⟨rfl, rfl, rfl⟩
          have hspan : e.gridSpan 0 = (from_, if f.direction = .descending then stop else min (first + chunk) stop) := by
            rw [Sweep.gridSpan, hdir, hef, hes, hec]
            cases hd : f.direction <;> simp [from_, hd]
          rw [Sweep.gridChunk, hspan, Sweep.range, hef, hes]
          simp only [k]
          cases hd : f.direction <;> simp [from_, hd]
        obtain ⟨e₁, hfirst, hmoved, hspent, hmore⟩ := takes_fresh hfresh.kind hfresh.grid hfresh.lo hfresh.hi hfresh.lowNext hfresh.remaining
        have hslots (o : OpUnit) (u : Sweep) : ({ v with op := o, sweep := u } : Slot) = { y with
            exec := { exec' with pass := pass st, timer := if 0 < f.timeLimit then some (f.timeLimit * 1000) else none }
            op := o, sweep := u } := by
          rcases hkind with rfl | ⟨verify, rfl⟩ <;> rfl
        have hworks : v.works = true := (works_iff v).2 ⟨hx, rfl, hheld⟩
        refine ⟨he, ?_⟩
        rcases Nat.eq_zero_or_pos free with hzero | hpos
        · have hfree : s.pool.free = 0 := hzero
          have hgo := engineGo_fresh_queues (s := s) (w := s.work) hfresh rfl hworks hzone hwait hfirst hzero
          obtain ⟨t, ht, -, hsame, hother, hslot⟩ := completion_left (hgoes.trans hgo)
          have hnone : hand = [] := if_pos hzero
          refine ⟨t, v.sweep, ht, hother, ?_, hslot.trans ((hslots v.op v.sweep).trans ?_), ?_, fun b => ?_⟩
          · simpa [hnone, free, hfree] using hsame
          · rw [if_neg (show ¬ (reads ∧ 0 < free) from fun h => absurd hzero h.2.ne')]
            rfl
          · rw [hnone, hv, he]
            simp [Sweep.reset]
          · rw [hv, if_neg (show ¬ (reads ∧ 0 < free ∧ _) from fun h => absurd hzero h.2.1.ne')]
        · have hwrite : v.sweep.isWrite = decide (st = .writeSweep f) := by
            rw [(chunkOp_of_kind hfresh.kind plan k).2.2, hv, he]
            simp
          have hgrid₀ : v.sweep.gridChunk 0 = k := by rw [hv, hk]
          have hredo₁ : e₁.redo = [] := (takeIndex_keeps hfirst).2.1.trans hfresh.redo
          have hstep₁ : e₁.step = v.sweep.step := takeIndex_step hfirst
          have hwrite₁ : e₁.isWrite = decide (st = .writeSweep f) := (isWrite_step hstep₁).trans hwrite
          have hbands₁ : e₁.bands = e.bands := by rw [(takeIndex_keeps hfirst).1, hv]
          have hgridv : v.sweep.grid = grid := by
            rw [hv, he]
          rw [hgridv, hv] at hmoved
          by_cases hissues : st = .writeSweep f ∨ f.pacing = .drive
          · obtain ⟨o, one, bands, hgo, hone, ho', hbands, hstill⟩ : ∃ o one bands,
                engineGo i (s.engage i v s.pool s.work) = engineRounds 3 i (s.engage i
                  { v with op := o, sweep := e₁.reframed [one] e₁.pacing bands }
                  { s.pool with free := s.pool.free - 1, lendings := s.pool.lendings + 1 }
                  (s.work ++ if st = .writeSweep f then [{ slot := i, lending := s.pool.lendings, check := false }] else [])) ∧
                one = { lending := s.pool.lendings, chunk := k, again := false, data := []
                        use := if st = .writeSweep f then .filling else if f.pacing = .drive then .inFlight else .prepared } ∧
                o = (if reads ∧ 0 < free then op' (.read k) plan.readTimeout else idle) ∧
                (∀ b : Fin 16, bands.get b =
                  if reads ∧ 0 < free ∧ b = k.band ∧ (e.bands.get b).state = .notStarted then
                    { e.bands.get b with state := .running s.now }
                  else e.bands.get b) ∧ (o.outstanding.isSome = true ∨ e₁.isWrite = true) := by
              by_cases hw : st = .writeSweep f
              · rw [decide_eq_true hw] at hwrite
                have hgo := engineGo_fresh_takes (s := s) (w := s.work) hfresh rfl hworks hzone hwait hfirst hpos
                rw [hwrite, hgrid₀] at hgo
                refine ⟨v.op, lentChunk s.pool.lendings true false k, e₁.bands, hgo.trans ?_, ?_, ?_, fun b => ?_, .inr ((isWrite_step hstep₁).trans hwrite)⟩
                · rw [if_pos hw]
                  rfl
                · simp [lentChunk, hw]
                · rw [if_neg (show ¬ (reads ∧ 0 < free) from fun h => h.1.1 hw)]
                  rfl
                · rw [if_neg (show ¬ (reads ∧ 0 < free ∧ _) from fun h => h.1.1 hw), hbands₁]
              · have hpace := hissues.resolve_left hw
                have hreads : reads ∧ 0 < free := ⟨⟨hw, hpace⟩, hpos⟩
                rw [decide_eq_false hw] at hwrite
                have hgo := engineGo_fresh_issues (s := s) (w := s.work) hfresh rfl hworks hzone hwait (plan := plan) hplan hfirst hpos hwrite hpace rfl
                simp only [hgrid₀, hbands₁] at hgo
                refine ⟨v.op.sending (.read k) s.now plan.readTimeout, { lentChunk s.pool.lendings false false k with use := .inFlight },
                  e.bands.set k.band ((e.bands.get k.band).issued s.now), hgo.trans ?_, ?_, ?_, fun b => ?_, .inl rfl⟩
                · rw [if_neg hw, List.append_nil]
                · simp [lentChunk, hw, hpace]
                · rw [if_pos hreads]
                  rfl
                · rw [bands_issued]
                  simp [hreads]
            have huse : one.use ≠ .prepared := by
              rw [hone]
              by_cases hw : st = .writeSweep f
              · simp [hw]
              · simp [hw, hissues.resolve_left hw]
            have hi : o.interrupted = none := by
              rw [ho']
              split <;> rfl
            obtain ⟨hrest, htwo⟩ := engineRounds_second (n := 1) (s := s) (i := i)
              (p := { s.pool with free := s.pool.free - 1, lendings := s.pool.lendings + 1 })
              (w := s.work ++ if st = .writeSweep f then [{ slot := i, lending := s.pool.lendings, check := false }] else [])
              (y := { v with op := o, sweep := e₁.reframed [one] e₁.pacing bands }) rfl huse (by rw [hstep₁]; exact hfresh.kind) hredo₁ hi
              hworks hzone hwait hstill
            have hlending : one.lending = s.pool.lendings := by rw [hone]
            have hnonzero : s.pool.free ≠ 0 := hpos.ne'
            by_cases htakes : f.takesAgain grid
            · have hagain : again := ⟨htakes, hissues⟩
              obtain ⟨e₂, hnext₂, hmoved₂⟩ := hmore (by rw [hgridv]; exact htakes)
              rw [hgridv, hv] at hmoved₂
              rw [hgridv] at hnext₂
              obtain ⟨hqueues, hlends⟩ := htwo _ _ hnext₂
              by_cases hlast : free = 1
              · have hfree : s.pool.free = 1 := hlast
                have hhand : hand = [one] := by
                  rw [hone]
                  simp [hand, hlast]
                obtain ⟨t, ht, -, hsame, hother, hslot⟩ := completion_left (hgoes.trans (hgo.trans (hqueues (by simp [hfree]))))
                refine ⟨t, _, ht, hother, ?_, hslot.trans ((hslots o _).trans (by rw [ho'])), ?_, hbands⟩
                · by_cases hw : st = .writeSweep f <;> simpa [hhand, hlending, hw, hagain, free, hfree] using hsame
                · rw [cursorMoved_reframed hmoved, hhand]
                  rfl
              · have hmany : 2 ≤ free := by omega
                have hhand : hand = [one, lentChunk (s.pool.lendings + 1) e₁.isWrite false (e₁.gridChunk (f.secondIndex grid))] := by
                  rw [hone, hwrite₁, cursorMoved_gridChunk hmoved]
                  simp [hand, hpos.ne', hagain, hmany, lentChunk]
                  rfl
                obtain ⟨t, ht, -, hsame, hother, hslot⟩ := completion_left (hgoes.trans (hgo.trans (hlends (by show 0 < free - 1; omega))))
                refine ⟨t, _, ht, hother, ?_, hslot.trans ((hslots o _).trans (by rw [ho'])), ?_, hbands⟩
                · rw [hwrite₁] at hsame
                  rw [hwrite₁] at hhand
                  have hmany' : 2 ≤ s.pool.free := hmany
                  by_cases hw : st = .writeSweep f <;>
                    simpa [hhand, hlending, lentChunk, hw, free, hnonzero, hlast, Nat.sub_sub, Nat.add_assoc] using hsame
                · have hpacing : e₂.pacing = e₁.pacing := (takeIndex_keeps hnext₂).2.2
                  rw [← hpacing, cursorMoved_reframed hmoved₂, hhand]
                  rfl
            · have hhand : hand = [one] := by
                rw [hone]
                have hno : ¬ again := fun h => htakes h.1
                simp [hand, hpos.ne', hno]
              obtain ⟨t, ht, -, hsame, hother, hslot⟩ := completion_left (hgoes.trans (hgo.trans (hrest (hspent (by rw [hgridv]; exact htakes)))))
              refine ⟨t, _, ht, hother, ?_, hslot.trans ((hslots o _).trans (by rw [ho'])), ?_, hbands⟩
              · have hno : ¬ again := fun h => htakes h.1
                by_cases hw : st = .writeSweep f <;> simpa [hhand, hlending, hw, hno, free, hnonzero] using hsame
              · rw [cursorMoved_reframed hmoved, hhand]
                rfl
          · obtain ⟨hread, hnotDrive⟩ := not_or.1 hissues
            have hpace : f.pacing = .tick := by
              cases hp : f.pacing
              · exact absurd hp hnotDrive
              · rfl
            have hno : ¬ again := fun h => hissues h.2
            have hnonzero : s.pool.free ≠ 0 := hpos.ne'
            have hgo := engineGo_fresh_prepares (s := s) (w := s.work) hfresh rfl hworks hzone hwait hfirst hpos
              (hwrite.trans (decide_eq_false hread)) hpace
            rw [hgrid₀] at hgo
            have hhand : hand = [lentChunk s.pool.lendings false false k] := by
              simp [hand, hpos.ne', hno, hread, hnotDrive, lentChunk]
            obtain ⟨t, ht, -, hsame, hother, hslot⟩ := completion_left (hgoes.trans hgo)
            refine ⟨t, e₁.reframed [lentChunk s.pool.lendings false false k] e₁.pacing e₁.bands, ht, hother, ?_,
              hslot.trans ((hslots v.op _).trans ?_), ?_, fun b => ?_⟩
            · simpa [hhand, hread, hno, free, hnonzero] using hsame
            · rw [if_neg (show ¬ (reads ∧ 0 < free) from fun h => hnotDrive h.1.2)]
              rfl
            · rw [cursorMoved_reframed hmoved, hhand]
              rfl
            · rw [if_neg (show ¬ (reads ∧ 0 < free ∧ _) from fun h => hnotDrive h.1.2), ← hbands₁]
              rfl
      · let v := z.stepOver.sweepBegun st id
        have hst : st.isSweep = true := by
          rcases hkind with ⟨f, rfl | ⟨verify, rfl⟩, -⟩ | ⟨f, rfl, -⟩ <;> rfl
        have hrepeat (target count : Nat) : st ≠ .repeatTo target count := by
          rintro rfl
          cases hst
        have hempty : v.sweep.range = 0 ∧ v.sweep.remaining = 0 := by
          have hgap : at_ stop - at_ start = 0 := Nat.sub_eq_zero_of_le hle
          rcases hkind with ⟨f, rfl | ⟨verify, rfl⟩, rfl, rfl⟩ | ⟨f, rfl, rfl, rfl⟩
          · exact ⟨hgap, ceilDiv_of_zero hgap⟩
          · exact ⟨hgap, ceilDiv_of_zero hgap⟩
          · exact ⟨hgap, if_neg (Nat.not_lt.2 hle)⟩
        obtain ⟨m, hm⟩ := walkFuel_two
        have hwalks := harrives.trans (nextStep_walk s i z s.pool s.work)
        rw [hm, walk_passes ((stepAt_engage (x := z.stepOver) hplan).trans hnext) hrepeat
          ((beginStep_sweep (x := z.stepOver) hheld hzone hst hid hspun).trans (if_pos hempty.1)), engage_modSlot] at hwalks
        obtain ⟨t, ht, hslot⟩ := hleft (hwalks.trans (walk_stays ((stepAt_engage (x := v.stepOver) hplan).trans hafter) nofun
          (hhealth (u := v.stepOver) rfl hheld hspun)))
        exact ⟨t, v.sweep.retired, ht, rfl, rfl, rfl, rfl, hempty.2, hslot⟩
    · intro place k hk
      obtain ⟨m, hm⟩ := walkFuel_two
      have hsteps : (s.engage i z.stepOver s.pool s.work).stepsOf i = plan.steps := by
        rw [State.stepsOf, engage_planOf, show z.stepOver.plan.bind s.planAt = some plan from hplan]
      have hcounter : z.stepOver.exec.counters.getD place 0 = k := by
        show x.exec.counters.getD place 0 = k
        rw [List.getD_eq_getElem?_getD, hk]
        rfl
      have hwalks := harrives.trans (nextStep_walk s i z s.pool s.work)
      rw [hm, walk_repeats ((stepAt_engage (x := z.stepOver) hplan).trans hnext), engage_modExec, hsteps, engage_slot_same] at hwalks
      change _ = walk (m + 1) false i (s.engage i { z.stepOver with exec := resolveRepeat place target count z.stepOver.exec } s.pool s.work)
        at hwalks
      have hresolved : resolveRepeat place target count z.stepOver.exec =
          if k < count then { z.stepOver.exec with counters := x.exec.counters.set place (k + 1), index := target }
          else { z.stepOver.exec with counters := x.exec.counters.set place 0, index := x.exec.index + 2 } := by
        rw [resolveRepeat, hcounter]
        rfl
      rw [hresolved] at hwalks
      refine ⟨fun hlt htarget => ?_, fun hle hafter => ?_⟩
      · rw [if_pos hlt] at hwalks
        exact hleft (hwalks.trans (walk_stays ((stepAt_engage (x := { z.stepOver with exec := _ }) hplan).trans htarget) nofun
          (hhealth (u := { z.stepOver with exec := _ }) rfl hheld hspun)))
      · rw [if_neg (by omega)] at hwalks
        exact hleft (hwalks.trans (walk_stays ((stepAt_engage (x := { z.stepOver with exec := _ }) hplan).trans hafter) nofun
          (hhealth (u := { z.stepOver with exec := _ }) rfl hheld hspun)))
  · obtain ⟨t, ht, -, hsame, hother, hslot⟩ := completion_left ((hstandby hx ho).trans (nextStep_begins (x := stoodBy) hplan hnext nofun
      (beginStep_dwell (x := stoodBy.stepOver) hheld hzone m)))
    exact ⟨t, ht, hsame, hother, hslot⟩
  · have hrepeat (target count : Nat) : st ≠ .repeatTo target count := by
      rintro rfl
      cases hst
    exact congrArg completed ((hstandby hx ho).trans (nextStep_begins (x := stoodBy) hplan hnext hrepeat
      (beginStep_spins (x := stoodBy.stepOver) hheld hzone hst hid rfl)))
  · obtain ⟨v, hsettled, hnow, hline, hlots, hvzone, hvplan, hhand, hfixed, hspins⟩ := spinDone_goes_on hx hphase hplan
    have hends := (((completionArrives_matched ho htag).trans (handle_spin hs)).trans hspins).trans (if_neg (by rw [hcur]; nofun))
    let z : Slot := { x.spunUp with exec := { x.exec with phase := .working } }
    have hworking : setPhase i .working (v.engage i x.spunUp v.pool v.work) = v.engage i z v.pool v.work := engage_modExec ..
    have hzi : (v.engage i z v.pool v.work).slot i = z := engage_slot_same ..
    have hmay : (v.engage i z v.pool v.work).mayWork i = true := by
      rw [mayWork_engage, (works_iff z).2 ⟨rfl, rfl, hheld⟩, hvzone, hzone]
      rfl
    have hvplan' : (v.engage i z v.pool v.work).planOf i = some plan := by
      rw [engage_planOf]
      exact hvplan
    rw [hworking, resumeWork_seek (f := f) (plan := plan) hmay hvplan' (by rw [hzi]; exact hk) hpace (by rw [hzi]; rfl) (by rw [hzi]; rfl)
      (by rw [hzi]; exact hl) (by rw [hzi]; exact hle) (by rw [hzi]; exact hg), tryIssue_seek (f := f) (plan := plan) hmay hvplan'
      (by rw [hzi]; exact hk) hpace (by rw [hzi]; rfl) (by rw [hzi]; rfl) (by rw [hzi]; exact hl) (by rw [hzi]; exact hle)
      (by rw [hzi]; exact hg), hzi, engage_setSlot] at hends
    have huntouched := moves_untouched (moves_completionArrives (strict := true) i (.record c) s)
    rw [hends] at huntouched
    refine ⟨_, congrArg completed hends, untouched_refreshLamps huntouched, hline, hlots, ?_⟩
    rw [refreshLamps_slot, engage_slot_same, engage_now, hnow]
    rfl
  · intro held
    let z : Slot := { x with op := x.op.closed }
    have hsound : identPayload c.payload = some (serial, capacity, size, realloc) := by
      simp [identPayload, hpayload, hsize, hlow, hhigh, hrealloc, hlen, Config.capacityTop, Config.top32]
    have hread : readCompletion x .ident c = .done := by simp [readCompletion, hs, hsound]
    have harrives : completionArrives i (.record c) s = identDone i serial capacity size realloc (s.engage i z s.pool s.work) := by
      rw [completionArrives_matched ho htag, handle_done hread hx nofun nofun]
      simp only [workDone, hsound]
      rfl
    have hdup : (s.engage i z s.pool s.work).duplicate i serial = true ↔ held := by
      rw [duplicate_engage, duplicate_iff]
    have huntouched := untouched_refreshLamps (moves_untouched (moves_completionArrives (strict := true) i (.record c) s))
    refine ⟨fun hfree hspun hnext => ?_, fun htaken => ?_⟩
    · rw [identDone, if_neg (mt hdup.1 hfree)] at harrives
      simp only [engage_slot_same, engage_modSlot] at harrives
      let id : Identity :=
        { serial := serial, capacity := capacity, sectorSize := size
          reallocStart := (x.identity.map Identity.reallocStart).getD realloc }
      let u : Slot := { z with identity := some id }
      obtain ⟨t, ht, hun, hsame, hother, hslot⟩ := completion_left (harrives.trans (nextStep_begins (x := u) hplan hnext nofun
        (beginStep_op (x := u.stepOver) hheld hzone hplan hspun rfl)))
      exact ⟨t, u.stepOver.sweep, ht, hun, hsame.line, hsame.lots, hslot, rfl, rfl⟩
    · rw [identDone, if_pos (hdup.2 htaken)] at harrives
      obtain ⟨hslot, -⟩ := faultSlot_slot i .duplicate (some serial) (s.engage i z s.pool s.work)
      obtain ⟨hline, hlots⟩ := faultSlot_line i .duplicate (some serial) (s.engage i z s.pool s.work)
      rw [← harrives, engage_slot_same] at hslot
      rw [← harrives] at hline hlots
      refine ⟨_, rfl, huntouched, hlots, hline, ?_⟩
      rw [refreshLamps_slot, hslot]
      exact ⟨rfl, rfl, rfl, by simp, rfl, rfl, rfl, rfl, rfl⟩

end Sys2Proof.Proofs
end

section
/-! SUPPORT. What the grader finds (R133 to R142), and the round of the advance that passes the plan (R60). -/

namespace Sys2Proof.Machine

/-! ### Bin selection (R142) -/

theorem Bin.forall_iff {P : Bin → Prop} : (∀ b, P b) ↔ P .A ∧ P .B ∧ P .C ∧ P .D :=
  ⟨fun h => ⟨h _, h _, h _, h _⟩, fun ⟨ha, hb, hc, hd⟩ b => by cases b <;> assumption⟩

/-- The first bin of which a test holds, in the order A to D. -/
theorem firstBin_eq_some (q : Bin → Bool) (b : Bin) : [Bin.A, .B, .C, .D].find? q = some b ↔
    q b = true ∧ ∀ c : Bin, c.code.toNat < b.code.toNat → ¬ q c = true := by
  rw [Bin.forall_iff]
  cases hA : q .A <;> cases hB : q .B <;> cases hC : q .C <;> cases hD : q .D <;> cases b <;>
    simp [List.find?, hA, hB, hC, hD, Bin.code]

theorem firstBin_eq_none (q : Bin → Bool) : [Bin.A, .B, .C, .D].find? q = none ↔ ∀ b, ¬ q b = true := by
  rw [Bin.forall_iff, List.find?_eq_none]
  simp

/-- A bin is present and its three limits hold. -/
theorem admits_iff (f : Profile) (d : Nat) (a : Accum) (b : Bin) : ((f.entry b).any fun e => e.admits d a) = true ↔
    ∃ e, f.entry b = some e ∧ d ≤ e.dmax ∧ min a.u 4095 ≤ e.umax ∧ min a.m 4095 + min a.w 4095 ≤ e.wmax := by
  show _ ↔ ∃ e, f.entry b = some e ∧ d ≤ e.dmax ∧ cut a.u ≤ e.umax ∧ cut a.m + cut a.w ≤ e.wmax
  simp only [Option.any_eq_true, BinEntry.admits, and_assoc, Bool.and_eq_true, decide_eq_true_eq]

/-! ### The gates (R134) -/

theorem verifies_iff (p : Plan) : p.steps.any Step.verifies = true ↔ ∃ g, .readSweep g true ∈ p.steps := by
  rw [List.any_eq_true]
  constructor
  · rintro ⟨st, hmem, hst⟩
    cases st with
    | readSweep g v =>
      obtain rfl : v = true := hst
      exact ⟨g, hmem⟩
    | _ => cases hst
  · rintro ⟨g, hmem⟩
    exact ⟨_, hmem, rfl⟩

section
variable {p : Plan} {f : Profile} {x : Slot} {id : Identity} (hid : x.identity = some id)
include hid

theorem judge_of_gate {g : Gate} (h : gateMissed p x.acc = some g) :
    judge p f x = if x.retests < f.retestLimit then .retest g else .incomplete := by
  rw [judge, hid]
  simp only [h]

theorem judge_of_no_gate (h : gateMissed p x.acc = none) : judge p f x =
    .selected (demerit f.weights f.nominalRate (some id.reallocStart) x.acc)
      (f.select (demerit f.weights f.nominalRate (some id.reallocStart) x.acc) x.acc) := by
  rw [judge, hid]
  simp only [h]

end

/-! ### Plan end (R60, R132) -/

theorem walkFuel_four : ∃ n, walkFuel = n + 4 :=
  Nat.exists_eq_add_of_le' (le_trans (by norm_num) (Nat.mul_le_mul (Nat.pow_le_pow_right two_pos (show 1 ≤ 130 by norm_num)) (Nat.pow_le_pow_right two_pos (show 1 ≤ 130 by norm_num))))

/-- The record that is handed to grading: the executor idle at the last step (R60). -/
def Slot.planOver (x : Slot) : Slot := { x with exec := { x.exec with phase := .idle, index := x.exec.index - 1 } }

/-- A round in which a step begins or the run ends is the last. -/
theorem walk_grades {n : Nat} {met : Bool} {i : Fin 16} {s : State} (hs : s.stepAt i = none) :
    walk (n + 1) met i s =
      if (gradeSlot i (s.modSlot i Slot.planOver)).2 then
        walk n (met || (gradeSlot i (s.modSlot i Slot.planOver)).1.pauseMeets i) i (gradeSlot i (s.modSlot i Slot.planOver)).1
      else (gradeSlot i (s.modSlot i Slot.planOver)).1 := by
  rw [walk, hs]
  show (match gradeSlot i (s.modSlot i Slot.planOver) with
    | (s, true) => walk n (met || s.pauseMeets i) i s
    | (s, false) => s) = _
  obtain ⟨t, again⟩ := gradeSlot i (s.modSlot i Slot.planOver)
  cases again <;> rfl

/-- What an ended grading leaves (R143). -/
theorem finishGrading_leaves {i : Fin 16} {v : Verdict} {reason : Reason} {grade : Option Grade} {s : State} :
    Settled (finishGrading i v reason grade s) ∧ (finishGrading i v reason grade s).lots = s.lots ∧
      (finishGrading i v reason grade s).line =
        s.line.raised i.val (.slotGraded (.ended v) reason (grade.map Grade.demerit) (s.slot i).retests none) ∧
      (finishGrading i v reason grade s).slot i =
        { (s.slot i).released with
          state := .done, outcome := some v, reason := reason, grade := grade
          sweep := { (s.slot i).sweep.retired with hand := [] } } := by
  unfold finishGrading
  refine ⟨settled_endRun _ _ _, ?_, ?_, ?_⟩
  · rw [(endRun_line _ _ _).2]
    rfl
  · rw [(endRun_line _ _ _).1, slot_modSlot_same]
    rfl
  · rw [(endRun_slot _ _ _ (by nofun)).1, raise_slot, slot_modSlot_same]
    rfl

/-! ### The last step ends (R60, R132) -/

/-- The record that a HEALTH completion of the last step hands to grading. -/
def Slot.runOver (last : Nat) (x : Slot) : Slot :=
  { x with
    acc := { x.acc with reallocEnd := some last }
    exec := { x.exec with phase := .idle, timer := none }
    op := { x.op.closed with interrupted := none }
    sweep := x.sweep.retired }

section
variable {s : State} {i : Fin 16} {plan : Plan} {p : Fin 4} {f : Profile} {c : Completion} {n : BitVec 32}
  (hplan : s.planOf i = some plan)

theorem untouched_runOver (last : Nat) : Untouched s (s.engage i ((s.slot i).runOver last) s.pool s.work) :=
  moves_untouched (Moves.of (strict := true) (quiet_setSlot s i ((s.slot i).runOver last) ⟨rfl, rfl, rfl, rfl, rfl, .refl _⟩ rfl))

/-- A grading that ends the run (R143). -/
theorem finishGrading_runOver (hx : (s.slot i).state = .active) (last : Nat) (verdict : Verdict) (reason : Reason)
    (grade : Option Grade) : ∃ v, finishGrading i verdict reason grade (s.engage i ((s.slot i).runOver last) s.pool s.work) = v ∧
      Untouched s v ∧ Settled v ∧ v.lots = s.lots ∧
      v.line = s.line.raised i.val (.slotGraded (.ended verdict) reason (grade.map Grade.demerit) (s.slot i).retests none) ∧
      v.slot i = { ((s.slot i).runOver last).released with
        state := .done, outcome := some verdict, reason := reason, grade := grade
        sweep := { ((s.slot i).runOver last).sweep.retired with hand := [] } } := by
  have hui := engage_slot_same s i ((s.slot i).runOver last) s.pool s.work
  obtain ⟨hsettled, hlots, hline, hslot⟩ := finishGrading_leaves (i := i) (v := verdict) (reason := reason) (grade := grade)
    (s := s.engage i ((s.slot i).runOver last) s.pool s.work)
  rw [hui] at hline hslot
  exact ⟨_, rfl, (untouched_runOver last).trans (moves_untouched (moves_finishGrading (strict := true) i _ _ _ _ (by rw [hui]; exact hx))),
    hsettled, hlots, hline, hslot⟩

include hplan

theorem gradeSlot_runOver (hprofile : (s.slot i).profile = some p) (hf : s.profileAt p = some f) (last : Nat) : gradeSlot i (s.engage i ((s.slot i).runOver last) s.pool s.work) =
    let u := s.engage i ((s.slot i).runOver last) s.pool s.work
    match judge plan f ((s.slot i).runOver last) with
    | .retest g =>
      (raise i.val (.slotGraded .retest .none none ((s.slot i).retests + 1) (some g))
        (s.engage i ((s.slot i).runOver last).retested s.pool s.work), true)
    | .incomplete => (finishGrading i .reject .incomplete none u, false)
    | .selected d none => (finishGrading i .reject .demerit (some { demerit := d, time := s.line.time }) u, false)
    | .selected d (some b) =>
      (giveGrade i p b (finishGrading i (.bin b) .none (some { demerit := d, time := s.line.time }) u), false) := by
  have hplanOf : (s.engage i ((s.slot i).runOver last) s.pool s.work).planOf i = some plan := (engage_planOf ..).trans hplan
  have hprofileOf : (s.engage i ((s.slot i).runOver last) s.pool s.work).profileOf i = some f := by
    rw [State.profileOf, engage_slot_same]
    exact (congrArg (·.bind s.profileAt) hprofile).trans hf
  unfold gradeSlot
  rw [hplanOf, hprofileOf, engage_slot_same, engage_modSlot]
  simp only [Option.getD_some]
  cases hj : judge plan f ((s.slot i).runOver last) with
  | selected d bin =>
    cases bin with
    | none => rfl
    | some b =>
      show (giveGrade i ((s.slot i).profile.getD 0) b _, false) = _
      rw [hprofile]
      rfl
  | retest g =>
    show (raise _ (.slotGraded _ _ _ ((s.engage i ((s.slot i).runOver last).retested s.pool s.work).slot i).retests _) _, true) = _
    rw [engage_slot_same]
    rfl
  | incomplete => rfl

variable (hx : (s.slot i).state = .active) (ho : (s.slot i).op.outstanding = some .health) (htag : c.tag = (s.slot i).op.tag)
  (hs : c.status = .done) (hpayload : c.payload = .health n) (hlast : plan.steps.length = (s.slot i).exec.index + 1)
include hx ho htag hs hpayload hlast

/-- The HEALTH completion that ends the last step hands the slot to grading (R60, R132). -/
theorem lastHealth_grades : ∃ m, completionArrives i (.record c) s =
    let graded := gradeSlot i (s.engage i ((s.slot i).runOver n.toNat) s.pool s.work)
    if graded.2 then walk (m + 3) (graded.1.pauseMeets i) i graded.1 else graded.1 := by
  obtain ⟨m, hm⟩ := walkFuel_four
  let z : Slot := { s.slot i with op := (s.slot i).op.closed, acc := { (s.slot i).acc with reallocEnd := some n.toNat } }
  have hread : readCompletion (s.slot i) .health c = .done := by simp [readCompletion, hs, hpayload, healthPayload]
  have harrives : completionArrives i (.record c) s = nextStep i (s.engage i z s.pool s.work) := by
    rw [completionArrives_matched ho htag, handle_done hread hx nofun nofun]
    simp only [workDone, hpayload, healthPayload, engage_modAcc]
    rfl
  have hpast : (s.engage i z.stepOver s.pool s.work).stepAt i = none := by
    rw [stepAt_engage (x := z.stepOver) (plan := plan) hplan]
    exact List.getElem?_eq_none hlast.le
  have hover : (s.engage i z.stepOver s.pool s.work).modSlot i Slot.planOver = s.engage i ((s.slot i).runOver n.toNat) s.pool s.work := by
    rw [engage_modSlot]
    rfl
  refine ⟨m, ?_⟩
  rw [harrives, nextStep_walk, hm, walk_grades hpast, hover]
  rfl

end

/-! ### A retest (R135, R144) -/

theorem raised_deaf (l : Line) (n : Nat) (d : Detail) : (l.raised n d).deaf = l.deaf := by
  unfold Line.raised
  split
  · rfl
  · split <;> rfl

theorem raise_pauseMeets (n : Nat) (d : Detail) (s : State) (i : Fin 16) : (raise n d s).pauseMeets i = s.pauseMeets i := by
  have hdeaf : (raise n d s).line.deaf = s.line.deaf := raised_deaf s.line n d
  simp only [State.pauseMeets, hdeaf]
  rfl

/-- The record of a slot whose retest has passed the SPIN step of its spun drive. -/
def Slot.retestSpun (last : Nat) (x : Slot) : Slot := (((x.runOver last).retested).begun .spin).stepOver

theorem retestSpun_eq (last : Nat) (x : Slot) : x.retestSpun last =
    { x with
      retests := x.retests + 1, acc := Accum.zero
      exec := { phase := .idle, index := 1, counters := x.exec.counters.map fun _ => 0, pass := 0, timer := none, dwell := 0 }
      op := { x.op with outstanding := none, timer := none, stage := 0, interrupted := none }
      sweep := x.sweep.retired } := rfl

/-- The walk of a retest of a spun drive passes SPIN and ends at IDENT, which begins or waits (R48, R144). -/
theorem walk_retest {s : State} {i : Fin 16} {plan : Plan} {x : Slot} {last m : Nat} {met : Bool}
    (hplan : x.plan.bind s.planAt = some plan) (hspun : x.spun = true) (hheld : x.held = false) (hz : s.zoneHold i = false)
    (hspin : plan.steps[0]? = some .spin) (hident : plan.steps[1]? = some .ident) (p : Pool) (w : List Work) :
    walk (m + 3) met i (s.engage i (x.runOver last).retested p w) =
      s.engage i (if met then { x.retestSpun last with exec := { (x.retestSpun last).exec with phase := .waiting } }
        else (x.retestSpun last).opBegun .ident plan.identTimeout s.now) p w := by
  have hfirst : (s.engage i (x.runOver last).retested p w).stepAt i = some .spin :=
    (stepAt_engage (x := (x.runOver last).retested) hplan).trans hspin
  have hbegun : beginStep met i .spin (s.engage i (x.runOver last).retested p w) =
      (s.engage i ((x.runOver last).retested.begun .spin) p w, true) := by
    have hspun' : ((x.runOver last).retested.begun .spin).spun = true := hspun
    simp only [beginStep, if_true, engage_modSlot, engage_slot_same, hspun']
  have hsecond : (s.engage i (x.retestSpun last) p w).stepAt i = some .ident :=
    (stepAt_engage (x := x.retestSpun last) hplan).trans hident
  rw [walk_passes hfirst nofun hbegun, engage_modSlot]
  change walk _ met i (s.engage i (x.retestSpun last) p w) = _
  cases met with
  | true =>
    refine (walk_stays hsecond nofun (beginStep_met nofun)).trans ?_
    rw [setPhase, engage_modExec]
    rfl
  | false => exact walk_stays hsecond nofun (beginStep_op (x := x.retestSpun last) hheld hz hplan hspun rfl)

end Sys2Proof.Machine
end

section
/-! The statement about the grader (O50). -/

namespace Sys2Proof.Proofs

open Sys2Proof Sys2Proof.Machine

/-- Settles O50: the gates and the selection of the grader, then what each of its findings makes of a run whose last step a HEALTH
completion ends. -/
theorem graderFinds : Obligations.GraderFinds := by
  constructor
  · intro p f x a short unread
    refine ⟨fun hid => ?_, fun id hid => ⟨fun hshort => ?_, fun hlong hunread => ?_, fun hlong hread => ?_⟩⟩
    · rw [judge, hid]
    · exact judge_of_gate hid (if_pos hshort)
    · refine judge_of_gate hid ((if_neg hlong).trans (if_pos ?_))
      rw [(verifies_iff p).2 hunread.1, Bool.true_and, decide_eq_true_eq]
      exact hunread.2
    · have hpasses : gateMissed p x.acc = none := by
        refine (if_neg hlong).trans (if_neg fun h => hread ?_)
        rw [Bool.and_eq_true, decide_eq_true_eq] at h
        exact ⟨(verifies_iff p).1 h.1, h.2⟩
      refine ⟨_, _, judge_of_no_gate hid hpasses, ?_, ?_⟩
      · cases hr : a.reallocEnd <;> cases hw : a.worstBand <;>
          simp only [demerit, growth, perMillion, cut, shortfall, speedMargin, a, hr, hw] at hr hw ⊢
      · intro fits
        have hfits b := admits_iff f (demerit f.weights f.nominalRate (some id.reallocStart) x.acc) x.acc b
        refine ⟨(firstBin_eq_none _).trans (forall_congr' fun b => not_congr (hfits b)), fun b => ?_⟩
        exact (firstBin_eq_some _ b).trans (and_congr (hfits b) (forall_congr' fun c => imp_congr_right fun _ => not_congr (hfits c)))
  · intro i plan p f c n s hplan hprofile hf hx ho htag hs hpayload hlast x ended graded stopped
    obtain ⟨m, hgrades⟩ := lastHealth_grades hplan hx ho htag hs hpayload hlast
    have hgrade := gradeSlot_runOver (i := i) hplan hprofile hf n.toNat
    have hjudge : judge plan f ((s.slot i).runOver n.toNat) = judge plan f x := rfl
    refine ⟨fun h => ?_, fun d h => ?_, fun d b h => ?_, fun gate h hspun hheld hz hspin hident => ?_⟩
    · rw [hgrade, hjudge, h] at hgrades
      obtain ⟨v, hv, huntouched, hsettled, hlots, hline, hslot⟩ := finishGrading_runOver hx n.toNat .reject .incomplete none
      exact ⟨_, _, congrArg completed (hgrades.trans hv), untouched_refreshLamps huntouched, ⟨rfl, rfl, rfl, rfl⟩, hlots,
        admission_of_settled (settled_refreshLamps hsettled), hline, hslot⟩
    · rw [hgrade, hjudge, h] at hgrades
      obtain ⟨v, hv, huntouched, hsettled, hlots, hline, hslot⟩ := finishGrading_runOver hx n.toNat .reject .demerit
        (some { demerit := d, time := s.line.time })
      exact ⟨_, _, congrArg completed (hgrades.trans hv), untouched_refreshLamps huntouched, ⟨rfl, rfl, rfl, rfl⟩, hlots,
        admission_of_settled (settled_refreshLamps hsettled), hline, hslot⟩
    · rw [hgrade, hjudge, h] at hgrades
      obtain ⟨v, hv, huntouched, hsettled, hlots, hline, hslot⟩ := finishGrading_runOver hx n.toNat (.bin b) .none
        (some { demerit := d, time := s.line.time })
      exact ⟨_, _, congrArg completed (hgrades.trans (congrArg (giveGrade i p b) hv)), huntouched, ⟨rfl, rfl, rfl, rfl⟩, hlots,
        admission_of_settled hsettled, hline, hslot⟩
    · rw [hgrade, hjudge, h] at hgrades
      let v := raise i.val (.slotGraded .retest .none none ((s.slot i).retests + 1) (some gate)) s
      have hmet : (v.engage i ((s.slot i).runOver n.toNat).retested s.pool s.work).pauseMeets i = s.pauseMeets i :=
        (rfl : _ = v.pauseMeets i).trans (raise_pauseMeets ..)
      have hwalk : completionArrives i (.record c) s = v.engage i (if s.pauseMeets i
            then { x.retestSpun n.toNat with exec := { (x.retestSpun n.toNat).exec with phase := .waiting } }
            else (x.retestSpun n.toNat).opBegun .ident plan.identTimeout s.now) s.pool s.work :=
        calc completionArrives i (.record c) s
            = walk (m + 3) (s.pauseMeets i) i (v.engage i ((s.slot i).runOver n.toNat).retested s.pool s.work) := by
              rw [← hmet]
              exact hgrades
          _ = _ := walk_retest (s := v) (x := s.slot i) hplan hspun hheld (zoneHold_eq_false hz) hspin hident s.pool s.work
      refine ⟨_, congrArg completed hwalk, ⟨rfl, rfl, rfl, rfl, rfl, rfl, rfl, rfl, rfl, rfl, rfl, rfl⟩,
        fun _ hj => engage_slot_ne v _ s.pool s.work hj, rfl, ?_⟩
      rw [refreshLamps_slot, engage_slot_same, retestSpun_eq]
      exact if_congr Iff.rfl rfl rfl

end Sys2Proof.Proofs
end

section
/-! SUPPORT. What the engine, admission and the ends of runs leave of the timers and of what the lots see, said once: no timer is loaded
with 0, the lots and stores stay, and of a slot what its lot and the duplicate serial check go by. -/

namespace Sys2Proof.Machine

/-! ### The relations -/

/-- Every loaded plan is in its ranges (R41, R44). -/
def PlansSound (s : State) : Prop := ∀ p x, s.planAt p = some x → x.HeaderSound ∧ ∀ st ∈ x.steps, st.Sound

/-- A timer that stands at 0 stood there before. -/
structure TimersKept (x y : Slot) : Prop where
  window : y.window = some 0 → x.window = some 0
  silence : y.silence = some 0 → x.silence = some 0
  operation : y.op.timer = some 0 → x.op.timer = some 0
  off : y.op.offTimer = some 0 → x.op.offTimer = some 0
  step : y.exec.timer = some 0 → x.exec.timer = some 0
  pacing : y.sweep.pacing = some 0 → x.sweep.pacing = some 0

theorem not_due_of_none {p : Prop} (h : (none : Option Nat) = some 0) : p := nomatch h

theorem TimersKept.refl (x : Slot) : TimersKept x x := ⟨id, id, id, id, id, id⟩

theorem TimersKept.trans {x y z : Slot} (h : TimersKept x y) (k : TimersKept y z) : TimersKept x z :=
  ⟨h.window ∘ k.window, h.silence ∘ k.silence, h.operation ∘ k.operation, h.off ∘ k.off, h.step ∘ k.step, h.pacing ∘ k.pacing⟩

/-- With the plans in range no timer of any slot is loaded with 0, and the plans stay. -/
structure Ticking (s t : State) : Prop where
  plans : t.plans = s.plans
  timers : PlansSound s → ∀ j, TimersKept (s.slot j) (t.slot j)

theorem Ticking.refl (s : State) : Ticking s s := ⟨rfl, fun _ _ => .refl _⟩

theorem plansSound_of_plans {s t : State} (h : t.plans = s.plans) (k : PlansSound s) : PlansSound t := fun p x hx =>
  k p x (by rwa [State.planAt, ← h])

theorem Ticking.trans {s t u : State} (h : Ticking s t) (k : Ticking t u) : Ticking s u :=
  ⟨k.plans.trans h.plans, fun hp j => (h.timers hp j).trans (k.timers (plansSound_of_plans h.plans hp) j)⟩

/-- What the lot builder and the duplicate serial check see of a slot stays: its seat, whether it is EMPTY or waits for a lot, and the
identity, profile and outcome of one that waits; its identity stays or becomes absent, and where it stays a slot in DONE stays in DONE
with its lot number. -/
structure Bound (x y : Slot) : Prop where
  seated : y.seated = x.seated
  empty : x.state = .empty → y.state = .empty
  waits : y.state = .lotWait ↔ x.state = .lotWait
  waiting : x.state = .lotWait → y.identity = x.identity ∧ y.profile = x.profile ∧ y.outcome = x.outcome
  serial : y.identity = none ∨ y.identity = x.identity ∧ (x.state = .done → y.state = .done ∧ y.lotNumber = x.lotNumber)

theorem Bound.trans {x y z : Slot} (h : Bound x y) (k : Bound y z) : Bound x z where
  seated := k.seated.trans h.seated
  empty := k.empty ∘ h.empty
  waits := k.waits.trans h.waits
  waiting hx := by
    obtain ⟨hid, hprofile, houtcome⟩ := h.waiting hx
    obtain ⟨kid, kprofile, koutcome⟩ := k.waiting (h.waits.2 hx)
    exact ⟨kid.trans hid, kprofile.trans hprofile, koutcome.trans houtcome⟩
  serial := by
    rcases k.serial with hz | ⟨hz, kdone⟩
    · exact .inl hz
    · rcases h.serial with hy | ⟨hy, hdone⟩
      · exact .inl (hz.trans hy)
      · exact .inr ⟨hz.trans hy, fun hx => ⟨(kdone (hdone hx).1).1, (kdone (hdone hx).1).2.trans (hdone hx).2⟩⟩

/-- A slot whose seat, state, identity, profile, outcome and lot number stay. -/
theorem Bound.of_same {x y : Slot} (hseat : y.seated = x.seated) (hs : y.state = x.state) (hid : y.identity = x.identity)
    (hp : y.profile = x.profile) (ho : y.outcome = x.outcome) (hl : y.lotNumber = x.lotNumber) : Bound x y where
  seated := hseat
  empty hx := hs.trans hx
  waits := by rw [hs]
  waiting _ := ⟨hid, hp, ho⟩
  serial := .inr ⟨hid, fun hx => ⟨hs.trans hx, hl⟩⟩

theorem Bound.refl (x : Slot) : Bound x x := .of_same rfl rfl rfl rfl rfl rfl

/-- A slot in neither of the states that lots hold goes to another state than LOT_WAIT and EMPTY. -/
theorem Bound.of_running {x y : Slot} (hseat : y.seated = x.seated) (hid : y.identity = x.identity ∨ y.identity = none)
    (hempty : x.state ≠ .empty) (hwait : x.state ≠ .lotWait) (hdone : x.state ≠ .done) (hy : y.state ≠ .lotWait) : Bound x y where
  seated := hseat
  empty hx := absurd hx hempty
  waits := iff_of_false hy hwait
  waiting hx := absurd hx hwait
  serial := by
    rcases hid with hid | hid
    · exact .inr ⟨hid, fun hx => absurd hx hdone⟩
    · exact .inl hid

/-- Nothing the lots see changes, and, with `timed`, no timer is loaded with 0. -/
structure Calm (timed : Prop) (s t : State) : Prop where
  ticking : timed → Ticking s t
  lots : t.lots = s.lots
  profiles : t.profiles = s.profiles
  slots : ∀ j, Bound (s.slot j) (t.slot j)

variable {timed : Prop}

theorem Calm.refl (s : State) : Calm timed s s := ⟨fun _ => .refl s, rfl, rfl, fun _ => .refl _⟩

theorem Calm.trans {s t u : State} (h : Calm timed s t) (k : Calm timed t u) : Calm timed s u :=
  ⟨fun ht => (h.ticking ht).trans (k.ticking ht), k.lots.trans h.lots, k.profiles.trans h.profiles,
    fun j => (h.slots j).trans (k.slots j)⟩

/-! ### Changes of a state -/

/-- Slots, lots and stores stay. -/
theorem calm_rest {s t : State} (hs : t.slots = s.slots) (hl : t.lots = s.lots) (hp : t.plans = s.plans)
    (hf : t.profiles = s.profiles) : Calm timed s t := by
  have hslot (j : Fin 16) : t.slot j = s.slot j := by rw [State.slot, hs]; rfl
  exact ⟨fun _ => ⟨hp, fun _ j => by rw [hslot]; exact .refl _⟩, hl, hf, fun j => by rw [hslot]; exact .refl _⟩

theorem calm_withPool (s : State) (p : Pool) : Calm timed s (s.withPool p) := calm_rest rfl rfl rfl rfl

theorem calm_withWork (s : State) (w : List Work) : Calm timed s (s.withWork w) := calm_rest rfl rfl rfl rfl

theorem calm_raise (n : Nat) (d : Detail) (s : State) : Calm timed s (raise n d s) := calm_rest rfl rfl rfl rfl

theorem calm_setReservation (s : State) (r : Nat) : Calm timed s (s.setReservation r) := calm_rest rfl rfl rfl rfl

theorem ticking_modSlot (s : State) (i : Fin 16) (f : Slot → Slot) (h : PlansSound s → TimersKept (s.slot i) (f (s.slot i))) :
    Ticking s (s.modSlot i f) := by
  refine ⟨rfl, fun hp j => ?_⟩
  by_cases hj : j = i
  · subst hj
    rw [slot_modSlot_same]
    exact h hp
  · rw [slot_modSlot_ne _ _ hj]
    exact .refl _

theorem calm_modSlot (s : State) (i : Fin 16) (f : Slot → Slot) (hb : Bound (s.slot i) (f (s.slot i)))
    (h : timed → PlansSound s → TimersKept (s.slot i) (f (s.slot i))) : Calm timed s (s.modSlot i f) := by
  refine ⟨fun ht => ticking_modSlot s i f (h ht), rfl, rfl, fun j => ?_⟩
  by_cases hj : j = i
  · subst hj
    rw [slot_modSlot_same]
    exact hb
  · rw [slot_modSlot_ne _ _ hj]
    exact .refl _

theorem calm_modAcc (s : State) (i : Fin 16) (f : Accum → Accum) : Calm timed s (s.modAcc i f) :=
  calm_modSlot s i _ (.of_same rfl rfl rfl rfl rfl rfl) fun _ _ => ⟨id, id, id, id, id, id⟩

theorem calm_modExec (s : State) (i : Fin 16) (f : Executor → Executor)
    (h : (f (s.slot i).exec).timer = some 0 → (s.slot i).exec.timer = some 0) : Calm timed s (s.modExec i f) :=
  calm_modSlot s i _ (.of_same rfl rfl rfl rfl rfl rfl) fun _ _ => ⟨id, id, id, id, h, id⟩

theorem calm_modOp (s : State) (i : Fin 16) (f : OpUnit → OpUnit)
    (h : timed → PlansSound s → (f (s.slot i).op).timer = some 0 → (s.slot i).op.timer = some 0)
    (ho : (f (s.slot i).op).offTimer = some 0 → (s.slot i).op.offTimer = some 0) : Calm timed s (s.modOp i f) :=
  calm_modSlot s i _ (.of_same rfl rfl rfl rfl rfl rfl) fun ht hp => ⟨id, id, h ht hp, ho, id, id⟩

theorem calm_modSweep (s : State) (i : Fin 16) (f : Sweep → Sweep)
    (h : timed → (f (s.slot i).sweep).pacing = some 0 → (s.slot i).sweep.pacing = some 0) : Calm timed s (s.modSweep i f) :=
  calm_modSlot s i _ (.of_same rfl rfl rfl rfl rfl rfl) fun ht _ => ⟨id, id, id, id, id, h ht⟩

/-! ### Operations -/

theorem opTimeout_pos {p : Plan} (h : p.HeaderSound) (op : Op) : 0 < opTimeout p op := by
  obtain ⟨-, -, -, -, -, hspin, hident, hhealth, hwrite, hread, hseek, hstandby⟩ := h
  cases op <;> simp only [opTimeout] <;> omega

theorem planOf_sound {s : State} {i : Fin 16} {p : Plan} (hp : PlansSound s) (h : s.planOf i = some p) :
    p.HeaderSound ∧ ∀ st ∈ p.steps, st.Sound := by
  obtain ⟨k, -, hk⟩ := Option.bind_eq_some_iff.1 h
  exact hp k p hk

theorem calm_issue (i : Fin 16) (op : Op) (data : List Byte) (s : State) : Calm timed s (issue i op data s) := by
  refine calm_modOp s i _ (fun _ hp h => ?_) id
  obtain ⟨p, hplan, hzero⟩ := Option.map_eq_some_iff.1 h
  exact absurd hzero (opTimeout_pos (planOf_sound hp hplan).1 op).ne'

theorem calm_freeBuffer (s : State) : Calm timed s (freeBuffer s) := calm_withPool s _

theorem stepped_paced (e : Sweep) : e.stepped.pacing = e.pacing := by
  unfold Sweep.stepped
  cases e.direction with
  | butterfly => simp only; split <;> rfl
  | _ => rfl

theorem takeIndex_paced {x e : Sweep} {k : Nat} (h : x.takeIndex = some (k, e)) : e.pacing = x.pacing := by
  unfold Sweep.takeIndex at h
  simp only [Option.ite_none_left_eq_some, Option.some.injEq, Prod.mk.injEq] at h
  obtain ⟨-, -, rfl⟩ := h
  rw [stepped_paced]
  split <;> rfl

theorem take_paced {x : Slot} {c : Chunk} {again : Bool} {e : Sweep} (h : x.take = some (c, again, e)) :
    e.pacing = x.sweep.pacing := by
  unfold Slot.take at h
  split at h
  · simp only [Option.some.injEq, Prod.mk.injEq] at h
    obtain ⟨-, -, rfl⟩ := h
    rfl
  · split at h
    · simp only [Option.some.injEq, Prod.mk.injEq] at h
      obtain ⟨-, -, rfl⟩ := h
      rfl
    · simp only [Option.map_eq_some_iff, Prod.mk.injEq] at h
      obtain ⟨⟨k, e'⟩, h, -, -, rfl⟩ := h
      exact takeIndex_paced h

theorem calm_lend (i : Fin 16) (s : State) : Calm timed s (lend i s) := by
  unfold lend
  simp only
  split
  · split
    · exact calm_freeBuffer s
    · rename_i c again e ht
      have hlent (y : List InHand) : Calm timed s (s.modSlot i fun x => { x with sweep := { e with hand := y } }) :=
        calm_modSlot s i _ (.of_same rfl rfl rfl rfl rfl rfl) fun _ _ =>
          ⟨id, id, id, id, id, fun h => by rw [← take_paced ht]; exact h⟩
      split
      · exact ((hlent _).trans (calm_withPool _ _)).trans (calm_withWork _ _)
      · exact (hlent _).trans (calm_withPool _ _)
  · exact calm_freeBuffer s

theorem calm_issueChunk (i : Fin 16) (h : InHand) (s : State) : Calm timed s (issueChunk i h s) := by
  unfold issueChunk
  simp only
  refine Calm.trans ?_ (Calm.trans (calm_modSweep _ i _ fun _ => id) (calm_issue i _ _ _))
  split
  · exact calm_modOp s i _ (fun _ _ => id) id
  · exact .refl s

theorem calm_issueSeek (i : Fin 16) (s : State) : Calm timed s (issueSeek i s) := by
  unfold issueSeek
  split
  · exact .refl s
  · rename_i k e h
    exact Calm.trans (calm_modSweep s i _ fun _ hk => by rw [← takeIndex_paced h]; exact hk) (calm_issue i _ _ _)

theorem calm_issueNext (i : Fin 16) (s : State) : Calm timed s (issueNext i s) := by
  unfold issueNext
  split
  · exact calm_issueSeek i s
  · split
    · exact .refl s
    · exact calm_issueChunk i _ s

theorem calm_tryIssue (i : Fin 16) (s : State) : Calm timed s (tryIssue i s) := by
  unfold tryIssue
  simp only
  split
  · split
    · exact Calm.trans (calm_modOp s i _ (fun _ _ => id) id) (calm_issue i _ _ _)
    · split
      · exact .refl s
      · exact calm_issueChunk i _ s
    · split
      · exact calm_issueNext i s
      · exact .refl s
  · exact .refl s

theorem calm_engineRounds (n : Nat) (i : Fin 16) (s : State) : Calm timed s (engineRounds n i s) := by
  induction n generalizing s with
  | zero => exact .refl s
  | succ n ih =>
    unfold engineRounds
    simp only
    refine Calm.trans (calm_tryIssue i s) ?_
    split
    · split
      · exact Calm.trans (Calm.trans (calm_withPool _ _) (calm_lend i _)) (ih _)
      · exact calm_withPool _ _
    · exact .refl _

theorem calm_engineGo (i : Fin 16) (s : State) : Calm timed s (engineGo i s) := calm_engineRounds 4 i s

theorem calm_returnBuffer (s : State) : Calm timed s (returnBuffer s) := by
  unfold returnBuffer
  split
  · exact calm_freeBuffer s
  · exact (calm_withPool s _).trans ((calm_lend _ _).trans (calm_engineGo _ _))

theorem calm_returnBuffers (n : Nat) (s : State) : Calm timed s (returnBuffers n s) := by
  induction n generalizing s with
  | zero => exact .refl s
  | succ n ih => exact (calm_returnBuffer s).trans (ih _)

theorem calm_endWork (i : Fin 16) (l : List Nat) (s : State) : Calm timed s (endWork i l s) := calm_withWork s _

theorem calm_dropChunks (i : Fin 16) (p : InHand → Bool) (s : State) : Calm timed s (dropChunks i p s) :=
  ((calm_modSweep s i _ fun _ => id).trans (calm_endWork i _ _)).trans (calm_returnBuffers _ _)

theorem calm_leaveBufferList (i : Fin 16) (s : State) : Calm timed s (leaveBufferList i s) := calm_withPool s _

theorem calm_voidRunning (i : Fin 16) (s : State) : Calm timed s (voidRunning i s) := calm_modSweep s i _ fun _ => id

theorem calm_bandCompletion (i : Fin 16) (b : Fin 16) (s : State) : Calm timed s (bandCompletion i b s) := by
  unfold bandCompletion
  simp only
  split
  · split
    · exact Calm.trans (calm_modSweep s i _ fun _ => id) (calm_modAcc _ i _)
    · exact calm_modSweep s i _ fun _ => id
  · exact calm_modSweep s i _ fun _ => id

theorem calm_stopEngine (i : Fin 16) (s : State) : Calm timed s (stopEngine i s) :=
  Calm.trans (calm_modSweep s i _ fun _ => not_due_of_none) (Calm.trans (calm_leaveBufferList i _) (calm_dropChunks i _ _))

theorem calm_drainEngine (i : Fin 16) (s : State) : Calm timed s (drainEngine i s) :=
  Calm.trans (calm_modExec s i _ not_due_of_none) (Calm.trans (calm_modOp _ i _ (fun _ _ => id) id) (Calm.trans (calm_modSweep _ i _ fun _ => not_due_of_none)
    (Calm.trans (calm_leaveBufferList i _) (calm_dropChunks i _ _))))

theorem calm_missTick (i : Fin 16) (s : State) : Calm timed s (missTick i s) := calm_modAcc s i _

/-! ### Admission -/

theorem calm_grant (i : Fin 16) (s : State) (h : (s.slot i).state = .waitPower) : Calm timed s (grant i s) := by
  refine Calm.trans (t := (s.withPower { s.power with pointer := i }).modSlot i fun x => { x with state := .spinning, powered := true })
    (Calm.trans (t := s.withPower { s.power with pointer := i }) (calm_rest rfl rfl rfl rfl) (calm_modSlot _ i _ ?_ ?_)) (calm_issue i _ _ _)
  · exact .of_running rfl (.inl rfl) (by rw [withPower_slot, h]; nofun) (by rw [withPower_slot, h]; nofun)
      (by rw [withPower_slot, h]; nofun) nofun
  · exact fun _ _ => ⟨id, id, id, id, id, id⟩

theorem calm_evaluate (n : Nat) (s : State) : Calm timed s (evaluate n s) := by
  induction n generalizing s with
  | zero => exact .refl s
  | succ n ih =>
    unfold evaluate
    split
    · exact calm_setReservation s 0
    · split
      · exact calm_setReservation s 0
      · rename_i i hc
        split
        · exact (calm_grant i s (candidate_waits hc)).trans (ih _)
        · exact calm_setReservation s _

theorem calm_admission (s : State) : Calm timed s (admission s) := calm_evaluate 17 s

theorem calm_admitIfChanged (l : List Nat) (s : State) : Calm timed s (admitIfChanged l s) := by
  unfold admitIfChanged
  split
  · exact .refl s
  · exact calm_admission s

/-! ### The end of a run -/

/-- The rest of a run's end, its record change made. -/
theorem calm_endRun_rest (i : Fin 16) (f : Slot → Slot) (s : State) :
    Calm timed (s.modSlot i fun x => f x.released) (endRun i f s) := (calm_stopEngine i _).trans (calm_admission _)

theorem calm_endRun (i : Fin 16) (f : Slot → Slot) (s : State) (hb : Bound (s.slot i) (f (s.slot i).released))
    (h : TimersKept (s.slot i) (f (s.slot i).released)) : Calm timed s (endRun i f s) :=
  (calm_modSlot s i (fun x => f x.released) hb fun _ _ => h).trans (calm_endRun_rest i f s)

theorem calm_faultSlot (i : Fin 16) (r : Reason) (d : Option (List Byte)) (s : State) (hempty : (s.slot i).state ≠ .empty)
    (hwait : (s.slot i).state ≠ .lotWait) (hdone : (s.slot i).state ≠ .done) : Calm timed s (faultSlot i r d s) := by
  refine (calm_endRun i _ s (.of_running rfl ?_ hempty hwait hdone (show SlotState.faulted ≠ .lotWait from nofun)) ⟨id, id, not_due_of_none, not_due_of_none, not_due_of_none, id⟩).trans (calm_raise _ _ _)
  show (if r = .duplicate then none else (s.slot i).identity) = _ ∨ (if r = .duplicate then none else (s.slot i).identity) = _
  split
  · exact .inr rfl
  · exact .inl rfl

end Sys2Proof.Machine
end

section
/-! SUPPORT. The law of lots (R146, R147) under the operations of the lot builder: a lot takes a member, leaves the OPEN lots, leaves the
manifest, or loses a member. -/

namespace Sys2Proof.Machine

/-! ### Lists of lots of distinct numbers -/

/-- The lots but the one with a number. -/
def others (n : Nat) (l : List Lot) : List Lot := l.filter fun z => decide (z.number ≠ n)

theorem mem_others {n : Nat} {l : List Lot} {z : Lot} : z ∈ others n l ↔ z ∈ l ∧ z.number ≠ n := by simp [others]

theorem others_of_not_mem {n : Nat} {l : List Lot} (h : ∀ z ∈ l, z.number ≠ n) : others n l = l :=
  List.filter_eq_self.2 fun z hz => decide_eq_true (h z hz)

section
variable {l : List Lot} {x : Lot} (hl : (l.map Lot.number).Nodup) (hx : x ∈ l)
include hl hx

theorem perm_others : l.Perm (x :: others x.number l) := by
  induction l with
  | nil => cases hx
  | cons a l ih =>
    obtain ⟨ha, hl⟩ := List.nodup_cons.1 hl
    rcases List.mem_cons.1 hx with rfl | hx
    · have hkeep : others x.number l = l := others_of_not_mem fun z hz e => ha (e ▸ List.mem_map_of_mem hz)
      have hdrop : others x.number (x :: l) = others x.number l := List.filter_cons_of_neg (by simp)
      rw [hdrop, hkeep]
    · have hne : a.number ≠ x.number := fun e => ha (e ▸ List.mem_map_of_mem hx)
      have htake : others x.number (a :: l) = a :: others x.number l := List.filter_cons_of_pos (by simpa using hne)
      rw [htake]
      exact ((ih hl hx).cons a).trans (List.Perm.swap ..)

theorem perm_replaced (y : Lot) : (l.map fun z => if z.number = x.number then y else z).Perm (y :: others x.number l) := by
  induction l with
  | nil => cases hx
  | cons a l ih =>
    obtain ⟨ha, hl⟩ := List.nodup_cons.1 hl
    rw [List.map_cons]
    rcases List.mem_cons.1 hx with rfl | hx
    · have hne : ∀ z ∈ l, z.number ≠ x.number := fun z hz e => ha (e ▸ List.mem_map_of_mem hz)
      have hkeep : others x.number l = l := others_of_not_mem hne
      have hdrop : others x.number (x :: l) = others x.number l := List.filter_cons_of_neg (by simp)
      have hmap : (l.map fun z => if z.number = x.number then y else z) = l :=
        (List.map_congr_left fun z hz => if_neg (hne z hz)).trans (List.map_id l)
      rw [hdrop, hkeep, hmap, if_pos rfl]
    · have hne : a.number ≠ x.number := fun e => ha (e ▸ List.mem_map_of_mem hx)
      have htake : others x.number (a :: l) = a :: others x.number l := List.filter_cons_of_pos (by simpa using hne)
      rw [htake, if_neg hne]
      exact ((ih hl hx).cons a).trans (List.Perm.swap ..)

theorem eq_of_number {z : Lot} (hz : z ∈ l) (h : z.number = x.number) : z = x := by
  rcases List.mem_cons.1 ((perm_others hl hx).mem_iff.1 hz) with rfl | hz
  · rfl
  · exact absurd h (mem_others.1 hz).2

end

theorem others_replaced {n : Nat} {l : List Lot} {y : Lot} (hy : y.number = n) :
    others n (l.map fun z => if z.number = n then y else z) = others n l := by
  induction l with
  | nil => rfl
  | cons a l ih =>
    rw [List.map_cons]
    by_cases ha : a.number = n
    · rw [if_pos ha, others, List.filter_cons_of_neg (by simp [hy]), others, List.filter_cons_of_neg (by simp [ha])]
      exact ih
    · rw [if_neg ha, others, List.filter_cons_of_pos (by simpa using ha), others, List.filter_cons_of_pos (by simpa using ha)]
      exact congrArg (a :: ·) ih

/-! ### The law, one OPEN lot apart -/

/-- The key of a lot (R146). -/
def Lot.key (x : Lot) : Fin 4 × Bin := (x.profile, x.bin)

/-- The law of lots, but that the OPEN lot with number `n` may be empty or full. -/
structure LotLawBut (n : Nat) (s : State) : Prop where
  manifest : ManifestLaw s
  numbers : (s.lots.all.map Lot.number).Nodup
  keys : ((s.lots.opens ++ s.lots.full).map Lot.key).Nodup
  range : 1 ≤ s.lots.next ∧ s.lots.next ≤ 65535 ∧ ∀ x ∈ s.lots.all, 1 ≤ x.number ∧ x.number ≤ 65535
  held : ∀ x ∈ s.lots.all, x.members.length ≤ x.capacity
  opens : ∀ x ∈ s.lots.opens, x.number ≠ n → 1 ≤ x.members.length ∧ x.members.length < x.capacity
  capacity : ∀ p f, s.profileAt p = some f → 1 ≤ f.lotCapacity

theorem LotLaw.but {s : State} (k : LotLaw s) (n : Nat) : LotLawBut n s :=
  ⟨k.manifest, k.numbers, k.keys, k.range, k.held, fun x hx _ => k.opens x hx, k.capacity⟩

theorem LotLawBut.whole {n : Nat} {s : State} (k : LotLawBut n s)
    (h : ∀ x ∈ s.lots.opens, x.number = n → 1 ≤ x.members.length ∧ x.members.length < x.capacity) : LotLaw s :=
  ⟨k.manifest, k.numbers, k.keys, k.range, k.held, fun x hx => if hn : x.number = n then h x hx hn else k.opens x hx hn, k.capacity⟩

section
variable {n : Nat} {s : State} (k : LotLawBut n s)
include k

theorem opens_numbers : (s.lots.opens.map Lot.number).Nodup :=
  k.numbers.sublist ((List.sublist_append_right _ _).map _)

theorem full_numbers : (s.lots.full.map Lot.number).Nodup :=
  k.numbers.sublist (((List.sublist_append_right _ _).trans (List.sublist_append_left _ _)).map _)

theorem all_perm_of_open {x : Lot} (hx : x ∈ s.lots.opens) :
    s.lots.all.Perm (x :: (s.lots.manifest ++ s.lots.full ++ others x.number s.lots.opens)) :=
  ((perm_others (opens_numbers k) hx).append_left _).trans List.perm_middle

theorem all_perm_of_full {x : Lot} (hx : x ∈ s.lots.full) :
    s.lots.all.Perm (x :: (s.lots.manifest ++ others x.number s.lots.full ++ s.lots.opens)) :=
  (((perm_others (full_numbers k) hx).append_left _).append_right _).trans ((List.perm_middle.append_right _).trans (by simp))

end

/-- A lot takes the place of another of its number and key. -/
theorem lotLaw_replaced {n m : Nat} {s t : State} {x y : Lot} {rest : List Lot} (k : LotLawBut n s)
    (hs : s.lots.all.Perm (x :: rest)) (ht : t.lots.all.Perm (y :: rest)) (hnumber : y.number = x.number)
    (hheld : y.members.length ≤ y.capacity) (hmanifest : t.lots.manifest.length ≤ 8)
    (hkeys : ((t.lots.opens ++ t.lots.full).map Lot.key).Nodup) (hnext : t.lots.next = s.lots.next)
    (hopens : ∀ z ∈ t.lots.opens, z.number ≠ m → 1 ≤ z.members.length ∧ z.members.length < z.capacity)
    (hprofiles : t.profiles = s.profiles) : LotLawBut m t where
  manifest := hmanifest
  numbers := by
    refine (ht.map Lot.number).nodup_iff.2 ?_
    rw [List.map_cons, hnumber, ← List.map_cons]
    exact (hs.map Lot.number).nodup_iff.1 k.numbers
  keys := hkeys
  range := by
    obtain ⟨hlow, hhigh, hall⟩ := k.range
    refine ⟨hnext ▸ hlow, hnext ▸ hhigh, fun z hz => ?_⟩
    rcases List.mem_cons.1 (ht.mem_iff.1 hz) with rfl | hz
    · rw [hnumber]
      exact hall x (hs.mem_iff.2 (List.mem_cons_self ..))
    · exact hall z (hs.mem_iff.2 (List.mem_cons_of_mem _ hz))
  held z hz := by
    rcases List.mem_cons.1 (ht.mem_iff.1 hz) with rfl | hz
    · exact hheld
    · exact k.held z (hs.mem_iff.2 (List.mem_cons_of_mem _ hz))
  opens := hopens
  capacity p f hf := k.capacity p f (by rwa [State.profileAt, ← hprofiles])

/-- A lot leaves. -/
theorem lotLaw_dropped {n m : Nat} {s t : State} (k : LotLawBut n s) (hall : t.lots.all.Sublist s.lots.all)
    (hmanifest : t.lots.manifest.length ≤ 8) (hkeys : ((t.lots.opens ++ t.lots.full).map Lot.key).Nodup)
    (hnext : t.lots.next = s.lots.next)
    (hopens : ∀ z ∈ t.lots.opens, z.number ≠ m → 1 ≤ z.members.length ∧ z.members.length < z.capacity)
    (hprofiles : t.profiles = s.profiles) : LotLawBut m t where
  manifest := hmanifest
  numbers := k.numbers.sublist (hall.map _)
  keys := hkeys
  range := ⟨hnext ▸ k.range.1, hnext ▸ k.range.2.1, fun z hz => k.range.2.2 z (hall.subset hz)⟩
  held z hz := k.held z (hall.subset hz)
  opens := hopens
  capacity p f hf := k.capacity p f (by rwa [State.profileAt, ← hprofiles])

/-- Lots and lot capacities stay. -/
theorem lotLaw_same {s t : State} (hl : t.lots = s.lots) (hf : t.profiles = s.profiles) (k : LotLaw s) : LotLaw t := by
  obtain ⟨hmanifest, hnumbers, hkeys, hrange, hheld, hopens, hcapacity⟩ := k
  refine ⟨by rwa [ManifestLaw, hl], by rwa [hl], by rwa [hl], by rwa [hl], by rwa [hl], by rwa [hl], fun p f h => hcapacity p f ?_⟩
  rwa [State.profileAt, ← hf]

/-! ### A lot leaves OPEN (R149, R155) -/

section
variable {n m : Nat} {s : State} {x : Lot} (k : LotLawBut n s) (hx : x ∈ s.lots.opens)
include k hx

theorem keys_perm_of_open : ((s.lots.opens ++ s.lots.full).map Lot.key).Perm
    ((x :: (others x.number s.lots.opens ++ s.lots.full)).map Lot.key) :=
  ((perm_others (opens_numbers k) hx).append_right _).map _

/-- What the lot builder holds once a lot has taken the place of an OPEN one, as OPEN, FULL or in the manifest. -/
theorem lotLaw_moved {t : State} {y : Lot} {manifest full opens : List Lot} (hnumber : y.number = x.number) (hkey : y.key = x.key)
    (hheld : y.members.length ≤ y.capacity) (hm : t.lots.manifest = s.lots.manifest ++ manifest)
    (hf : t.lots.full = s.lots.full ++ full) (ho : t.lots.opens.Perm (opens ++ others x.number s.lots.opens))
    (hplace : manifest = [y] ∧ full = [] ∧ opens = [] ∧ s.lots.manifest.length < 8 ∨ manifest = [] ∧ full = [y] ∧ opens = [] ∨
      manifest = [] ∧ full = [] ∧ opens = [y])
    (hnext : t.lots.next = s.lots.next) (hprofiles : t.profiles = s.profiles)
    (hothers : ∀ z ∈ others x.number s.lots.opens, z.number ≠ m → z.number ≠ n)
    (hopen : opens = [y] → y.number ≠ m → 1 ≤ y.members.length ∧ y.members.length < y.capacity) : LotLawBut m t := by
  have hkeys := (keys_perm_of_open k hx).nodup_iff.1 k.keys
  have hopens (z : Lot) (hz : z ∈ t.lots.opens) (hzm : z.number ≠ m) : 1 ≤ z.members.length ∧ z.members.length < z.capacity := by
    rcases List.mem_append.1 (ho.mem_iff.1 hz) with hz | hz
    · rcases hplace with ⟨-, -, he, -⟩ | ⟨-, -, he⟩ | ⟨-, -, he⟩
      · rw [he] at hz; cases hz
      · rw [he] at hz; cases hz
      · have hzy := List.mem_singleton.1 (he ▸ hz)
        rw [hzy] at hzm ⊢
        exact hopen he hzm
    · exact k.opens z (mem_others.1 hz).1 (hothers z hz hzm)
  have hkeysOf : ((t.lots.opens ++ t.lots.full).map Lot.key).Perm
      (((opens ++ others x.number s.lots.opens) ++ (s.lots.full ++ full)).map Lot.key) := by
    rw [hf]
    exact (ho.append_right _).map _
  refine lotLaw_replaced k (all_perm_of_open k hx) (y := y) ?_ hnumber hheld ?_ ?_ hnext hopens hprofiles
  · rw [LotBuilder.all, hm, hf]
    refine (ho.append_left _).trans ?_
    rcases hplace with ⟨rfl, rfl, rfl, -⟩ | ⟨rfl, rfl, rfl⟩ | ⟨rfl, rfl, rfl⟩
    · simp only [List.append_nil, List.nil_append, List.append_assoc, List.singleton_append]
      exact List.perm_middle
    · simp only [List.append_nil, List.nil_append, List.append_assoc, List.singleton_append]
      exact (List.perm_middle.append_left _).trans (List.perm_middle)
    · simp only [List.append_nil, List.append_assoc, List.singleton_append]
      exact (List.perm_middle.append_left _).trans (List.perm_middle)
  · rw [hm]
    have := k.manifest
    rw [ManifestLaw] at this
    rcases hplace with ⟨rfl, -, -, hroom⟩ | ⟨rfl, -, -⟩ | ⟨rfl, -, -⟩
    · rw [List.length_append, List.length_singleton]; omega
    · rwa [List.append_nil]
    · rwa [List.append_nil]
  · refine hkeysOf.nodup_iff.2 ?_
    rcases hplace with ⟨-, rfl, rfl, -⟩ | ⟨-, rfl, rfl⟩ | ⟨-, rfl, rfl⟩
    · rw [List.append_nil, List.nil_append]
      exact (List.nodup_cons.1 hkeys).2
    · rw [List.nil_append, ← List.append_assoc]
      refine ((List.perm_append_singleton y _).map Lot.key).nodup_iff.2 ?_
      rw [List.map_cons, hkey]
      exact hkeys
    · rw [List.append_nil, List.singleton_append, List.cons_append, List.map_cons, hkey]
      exact hkeys

theorem lotLaw_closeLot (hn : n = x.number) (hheld : x.members.length ≤ x.capacity) (c : CloseCause) : LotLaw (closeLot x c s) := by
  have hopens : ∀ t : State, t.lots.opens = others x.number s.lots.opens → LotLawBut x.number t → LotLaw t := fun t ht kt =>
    kt.whole fun z hz hzn => absurd hzn (mem_others.1 (ht ▸ hz)).2
  have hothers : ∀ z ∈ others x.number s.lots.opens, z.number ≠ x.number → z.number ≠ n := fun z _ h => hn ▸ h
  rcases Nat.lt_or_ge s.lots.manifest.length 8 with hroom | hroom
  · rw [closeLot_of_room hroom]
    exact hopens _ rfl (lotLaw_moved k hx (y := { x with closed := some s.line.time }) (manifest := [{ x with closed := some s.line.time }])
      (full := []) (opens := []) rfl rfl hheld rfl (List.append_nil _).symm (.refl _) (.inl ⟨rfl, rfl, rfl, hroom⟩) rfl rfl hothers nofun)
  · rw [closeLot_of_no_room hroom]
    exact hopens _ rfl (lotLaw_moved k hx (y := x) (manifest := []) (full := [x]) (opens := []) rfl rfl hheld (List.append_nil _).symm rfl
      (.refl _) (.inr (.inl ⟨rfl, rfl, rfl⟩)) rfl rfl hothers nofun)

/-- A slot joins an OPEN lot that has room (R148, R149). -/
theorem lotLaw_joinLot (hn : n = x.number) (hroom : x.members.length < x.capacity) (i : Fin 16) : LotLaw (joinLot i x s) := by
  let y := x.with ((s.slot i).member i)
  have hlen : y.members.length = x.members.length + 1 := by simp [y, Lot.with]
  have hothers : ∀ z ∈ others x.number s.lots.opens, z.number ≠ x.number → z.number ≠ n := fun z _ h => hn ▸ h
  let u := (s.setSlot i { s.slot i with state := .done, lotNumber := some x.number }).withLots (s.lots.putOpen y)
  have hput : LotLawBut x.number u := lotLaw_moved k hx (y := y) (manifest := []) (full := []) (opens := [y]) rfl rfl (by rw [hlen]; exact hroom)
    (List.append_nil _).symm (List.append_nil _).symm (perm_replaced (opens_numbers k) hx y) (.inr (.inr ⟨rfl, rfl, rfl⟩)) rfl rfl
    hothers fun _ h => absurd rfl h
  have hy : y ∈ u.lots.opens := (perm_replaced (opens_numbers k) hx y).mem_iff.2 (List.mem_cons_self ..)
  rcases Nat.lt_or_ge (x.members.length + 1) x.capacity with hmore | hfilled
  · rw [joinLot_open hmore]
    refine hput.whole fun z hz hzn => ?_
    rw [eq_of_number (opens_numbers hput) hy hz hzn, hlen]
    exact ⟨Nat.le_add_left .., hmore⟩
  · rw [joinLot_filled hfilled]
    exact lotLaw_closeLot hput hy rfl (by rw [hlen]; exact hroom) .filled

end

/-! ### Keys and numbers (R147) -/

theorem openLot_mem {l : LotBuilder} {p : Fin 4} {b : Bin} {x : Lot} (h : l.openLot p b = some x) : x ∈ l.opens ∧ x.key = (p, b) := by
  refine ⟨List.mem_of_find?_eq_some h, ?_⟩
  have hkey := List.find?_some h
  simp only [Lot.hasKey, Bool.and_eq_true, decide_eq_true_eq] at hkey
  exact Prod.ext hkey.1 hkey.2

theorem hasKey_iff {p : Fin 4} {b : Bin} {x : Lot} : x.hasKey p b = true ↔ x.key = (p, b) := by
  simp [Lot.hasKey, Lot.key]

theorem openLot_eq_none {l : LotBuilder} {p : Fin 4} {b : Bin} : l.openLot p b = none ↔ ∀ x ∈ l.opens, x.key ≠ (p, b) := by
  simp only [LotBuilder.openLot, List.find?_eq_none, hasKey_iff, ne_eq]

theorem fullLot_eq_none {l : LotBuilder} {p : Fin 4} {b : Bin} : l.fullLot p b = none ↔ ∀ x ∈ l.full, x.key ≠ (p, b) := by
  simp only [LotBuilder.fullLot, List.find?_eq_none, hasKey_iff, ne_eq]

theorem fullLot_isSome {l : LotBuilder} {p : Fin 4} {b : Bin} : (l.fullLot p b).isSome = true ↔ ∃ x ∈ l.full, x.key = (p, b) := by
  simp only [LotBuilder.fullLot, List.find?_isSome, hasKey_iff]

theorem length_of_keys {l : List Lot} (h : (l.map Lot.key).Nodup) : l.length ≤ 16 := by
  have hsub : (l.map Lot.key) ⊆ (List.finRange 4).product [Bin.A, .B, .C, .D] := by
    rintro ⟨p, b⟩ -
    refine List.mem_product.2 ⟨List.mem_finRange p, ?_⟩
    cases b <;> simp
  have hlen := (List.subperm_of_subset h hsub).length_le
  rwa [List.length_map] at hlen

theorem lots_length {s : State} (k : LotLaw s) : s.lots.all.length ≤ 24 := by
  have hkeys := length_of_keys k.keys
  have hmanifest : s.lots.manifest.length ≤ 8 := k.manifest
  simp only [LotBuilder.all, List.length_append] at hkeys ⊢
  omega

theorem nextNumber_range {n : Nat} (h : n ≤ 65535) : 1 ≤ nextNumber n ∧ nextNumber n ≤ 65535 := by
  unfold nextNumber
  split <;> omega

theorem freeNumber_range {tries n : Nat} (taken : List Nat) (h : 1 ≤ n ∧ n ≤ 65535) :
    1 ≤ freeNumber tries taken n ∧ freeNumber tries taken n ≤ 65535 := by
  induction tries generalizing n with
  | zero => exact h
  | succ tries ih =>
    unfold freeNumber
    split
    · exact ih (nextNumber_range h.2)
    · exact h

/-- A new lot of a key that no OPEN or FULL lot bears. -/
theorem lotLaw_openNewLot {s : State} (k : LotLaw s) {p : Fin 4} {b : Bin} (ho : s.lots.openLot p b = none)
    (hf : s.lots.fullLot p b = none) : LotLawBut (s.newLot p b).number (openNewLot p b s) := by
  have hfree : (s.newLot p b).number ∉ s.lots.all.map Lot.number :=
    freeNumber_free (by rw [List.length_map]; exact lots_length k) _
  have hrange := freeNumber_range (tries := 25) (s.lots.all.map Lot.number) ⟨k.range.1, k.range.2.1⟩
  have hall : (openNewLot p b s).lots.all.Perm (s.newLot p b :: s.lots.all) := by
    show (s.lots.manifest ++ s.lots.full ++ (s.lots.opens ++ [s.newLot p b])).Perm _
    rw [← List.append_assoc]
    exact List.perm_append_singleton _ _
  refine ⟨k.manifest, ?_, ?_, ⟨(nextNumber_range hrange.2).1, (nextNumber_range hrange.2).2, fun z hz => ?_⟩, fun z hz => ?_,
    fun z hz hzn => ?_, k.capacity⟩
  · exact (hall.map Lot.number).nodup_iff.2 (List.nodup_cons.2 ⟨hfree, k.numbers⟩)
  · have hperm : ((openNewLot p b s).lots.opens ++ (openNewLot p b s).lots.full).Perm (s.newLot p b :: (s.lots.opens ++ s.lots.full)) :=
      ((List.perm_append_singleton _ _).append_right _)
    refine (hperm.map Lot.key).nodup_iff.2 (List.nodup_cons.2 ⟨fun hmem => ?_, k.keys⟩)
    obtain ⟨z, hz, hkey⟩ := List.mem_map.1 hmem
    rcases List.mem_append.1 hz with hz | hz
    · exact openLot_eq_none.1 ho z hz hkey
    · exact fullLot_eq_none.1 hf z hz hkey
  · rcases List.mem_cons.1 (hall.mem_iff.1 hz) with rfl | hz
    · exact hrange
    · exact k.range.2.2 z hz
  · rcases List.mem_cons.1 (hall.mem_iff.1 hz) with rfl | hz
    · exact Nat.zero_le _
    · exact k.held z hz
  · rcases List.mem_append.1 hz with hz | hz
    · exact k.opens z hz
    · exact absurd (congrArg Lot.number (List.mem_singleton.1 hz)) hzn

theorem newLot_capacity {s : State} (k : LotLaw s) (p : Fin 4) (b : Bin) : 0 < (s.newLot p b).capacity := by
  show 0 < ((s.profileAt p).map Profile.lotCapacity).getD 1
  cases hf : s.profileAt p with
  | none => exact Nat.one_pos
  | some f => exact k.capacity p f hf

/-! ### Slots join (R148 to R151) -/

theorem lotLaw_joinKey {s : State} (k : LotLaw s) {p : Fin 4} {b : Bin} (hf : s.lots.fullLot p b = none) (i : Fin 16) :
    LotLaw (joinKey i p b s) := by
  cases ho : s.lots.openLot p b with
  | some x =>
    rw [joinKey_open ho]
    have hx := (openLot_mem ho).1
    exact lotLaw_joinLot (k.but x.number) hx rfl (k.opens x hx).2 i
  | none =>
    rw [joinKey_new ho]
    exact lotLaw_joinLot (lotLaw_openNewLot k ho hf) (List.mem_append_right _ (List.mem_singleton_self _)) rfl
      (newLot_capacity k p b) i

theorem lotLaw_giveGrade {s : State} (k : LotLaw s) (i : Fin 16) (p : Fin 4) (b : Bin) : LotLaw (giveGrade i p b s) := by
  cases hf : s.lots.fullLot p b with
  | none =>
    rw [giveGrade_join hf]
    exact lotLaw_joinKey k hf i
  | some x =>
    rw [giveGrade_full hf]
    exact ⟨k.manifest, k.numbers, k.keys, k.range, k.held, k.opens, k.capacity⟩

theorem lotLaw_leaveLotList {s : State} (k : LotLaw s) (i : Fin 16) : LotLaw (leaveLotList i s) :=
  ⟨k.manifest, k.numbers, k.keys, k.range, k.held, k.opens, k.capacity⟩

theorem lotLaw_joinWaiters {s : State} (k : LotLaw s) (p : Fin 4) (b : Bin) (l : List (Fin 16)) : LotLaw (joinWaiters p b l s) := by
  induction l generalizing s with
  | nil => exact k
  | cons i l ih =>
    unfold joinWaiters
    split
    · exact k
    · rename_i hf
      split
      · exact ih (lotLaw_joinKey (lotLaw_leaveLotList k i) (Option.not_isSome_iff_eq_none.1 hf) i)
      · exact ih k

/-- The head FULL lot closes (R151). -/
def drainHead (x : Lot) (rest : List Lot) (s : State) : State :=
  raise x.number (.lotClosed x.profile x.bin x.members.length .drain)
    (s.withLots { s.lots with full := rest, manifest := s.lots.manifest ++ [{ x with closed := some s.line.time }] })

theorem drainRounds_head {n : Nat} {s : State} {x : Lot} {rest : List Lot} (hm : s.lots.manifest.length < 8)
    (hf : s.lots.full = x :: rest) : drainRounds (n + 1) s =
      drainRounds n (joinWaiters x.profile x.bin s.lots.waiting (drainHead x rest s)) := by
  have hroom : s.lots.manifest.length < Config.manifestLots := hm
  rw [drainRounds, if_pos hroom]
  simp only [hf]
  rfl

theorem drainRounds_full {n : Nat} {s : State} (hm : 8 ≤ s.lots.manifest.length) : drainRounds n s = s := by
  cases n with
  | zero => rfl
  | succ n =>
    have hroom : ¬ s.lots.manifest.length < Config.manifestLots := Nat.not_lt.2 hm
    rw [drainRounds, if_neg hroom]

theorem drainRounds_none {n : Nat} {s : State} (hf : s.lots.full = []) : drainRounds n s = s := by
  cases n with
  | zero => rfl
  | succ n =>
    rw [drainRounds, hf]
    simp

theorem lotLaw_drainHead {s : State} (k : LotLaw s) {x : Lot} {rest : List Lot} (hm : s.lots.manifest.length < 8)
    (hf : s.lots.full = x :: rest) : LotLaw (drainHead x rest s) := by
  have hx : x ∈ s.lots.full := hf ▸ List.mem_cons_self ..
  refine (lotLaw_replaced (t := drainHead x rest s) (m := 0) (x := x) (k.but 0) (y := { x with closed := some s.line.time })
    (rest := s.lots.manifest ++ rest ++ s.lots.opens) ?_ ?_ rfl ?_ ?_ ?_ rfl (fun z hz _ => k.opens z hz) rfl).whole
      fun z hz _ => k.opens z hz
  · rw [LotBuilder.all, hf]
    exact List.perm_middle.append_right _
  · show (s.lots.manifest ++ [{ x with closed := some s.line.time }] ++ rest ++ s.lots.opens).Perm _
    exact ((List.perm_append_singleton _ _).append_right _).append_right _
  · exact k.held x (List.mem_append_left _ (List.mem_append_right _ hx))
  · show (s.lots.manifest ++ [_]).length ≤ 8
    rw [List.length_append, List.length_singleton]
    exact hm
  · have hkeys := k.keys
    rw [hf] at hkeys
    exact hkeys.sublist (((List.sublist_cons_self _ _).append_left _).map _)

theorem lotLaw_drainRounds (n : Nat) {s : State} (k : LotLaw s) : LotLaw (drainRounds n s) := by
  induction n generalizing s with
  | zero => exact k
  | succ n ih =>
    rcases Nat.lt_or_ge s.lots.manifest.length 8 with hm | hm
    · cases hf : s.lots.full with
      | nil => rwa [drainRounds_none hf]
      | cons x rest =>
        rw [drainRounds_head hm hf]
        exact ih (lotLaw_joinWaiters (lotLaw_drainHead k hm hf) _ _ _)
    · rwa [drainRounds_full hm]

/-- The head lot leaves the manifest. -/
theorem lotLaw_headTaken {s : State} (k : LotLaw s) : LotLaw (s.withLots { s.lots with manifest := s.lots.manifest.drop 1 }) :=
  (lotLaw_dropped (t := s.withLots { s.lots with manifest := s.lots.manifest.drop 1 }) (m := 0) (k.but 0) (((List.drop_sublist _ _).append_right _).append_right _)
    ((List.drop_sublist 1 s.lots.manifest).length_le.trans k.manifest) k.keys rfl (fun z hz _ => k.opens z hz) rfl).whole
      fun z hz _ => k.opens z hz

theorem lotLaw_takeHead {s : State} (k : LotLaw s) : LotLaw (takeHead s) := lotLaw_drainRounds _ (lotLaw_headTaken k)

/-! ### A member leaves (R156, R157) -/

theorem dropMember_split {serial : List Byte} {before after : List Member} {m : Member} (hm : m.serial = serial)
    (hb : ∀ k ∈ before, k.serial ≠ serial) : dropMember serial (before ++ m :: after) = before ++ after := by
  induction before with
  | nil => exact if_pos hm
  | cons k before ih =>
    rw [List.cons_append, dropMember, if_neg (hb k (List.mem_cons_self ..)), ih fun j hj => hb j (List.mem_cons_of_mem _ hj)]
    rfl

theorem holds_split {serial : List Byte} {x : Lot} (h : x.holds serial = true) : ∃ before m after, x.members = before ++ m :: after ∧
    m.serial = serial ∧ ∀ k ∈ before, k.serial ≠ serial := by
  have hany : (x.members.find? fun m => decide (m.serial = serial)).isSome = true := by
    rw [List.find?_isSome]
    simpa [Lot.holds] using h
  obtain ⟨m, hm⟩ := Option.isSome_iff_exists.1 hany
  obtain ⟨hserial, before, after, hsplit, hbefore⟩ := List.find?_eq_some_iff_append.1 hm
  exact ⟨before, m, after, hsplit, by simpa using hserial, fun k hk => by simpa using hbefore k hk⟩

theorem dropMember_length {serial : List Byte} {x : Lot} (h : x.holds serial = true) :
    (dropMember serial x.members).length + 1 = x.members.length := by
  obtain ⟨before, m, after, hsplit, hserial, hbefore⟩ := holds_split h
  rw [hsplit, dropMember_split hserial hbefore]
  simp
  omega

/-- The OPEN lot with a number may be empty, but has room. -/
structure LotLawRoom (n : Nat) (s : State) : Prop extends LotLawBut n s where
  room : ∀ x ∈ s.lots.opens, x.number = n → x.members.length < x.capacity

theorem LotLaw.room {s : State} (k : LotLaw s) (n : Nat) : LotLawRoom n s := ⟨k.but n, fun x hx _ => (k.opens x hx).2⟩

theorem lotLawRoom_leaveLotList {n : Nat} {s : State} (k : LotLawRoom n s) (i : Fin 16) : LotLawRoom n (leaveLotList i s) :=
  ⟨⟨k.manifest, k.numbers, k.keys, k.range, k.held, k.opens, k.capacity⟩, k.room⟩

/-- A lot with one member fewer, put among the OPEN lots in place of an OPEN one. -/
theorem lotLaw_putOpen {s : State} (k : LotLaw s) {x : Lot} (hx : x ∈ s.lots.opens) {members : List Member}
    (hlen : members.length + 1 = x.members.length) :
    LotLawRoom x.number (s.withLots (s.lots.putOpen { x with members := members })) := by
  have hheld := k.held x (List.mem_append_right _ hx)
  have hput := perm_replaced (opens_numbers (k.but x.number)) hx { x with members := members }
  have hlaw : LotLawBut x.number (s.withLots (s.lots.putOpen { x with members := members })) :=
    lotLaw_moved (k.but x.number) hx (y := { x with members := members }) (manifest := []) (full := [])
      (opens := [{ x with members := members }]) rfl rfl (by show members.length ≤ x.capacity; omega) (List.append_nil _).symm
      (List.append_nil _).symm hput (.inr (.inr ⟨rfl, rfl, rfl⟩)) rfl rfl (fun _ _ h => h) fun _ h => absurd rfl h
  refine ⟨hlaw, fun z hz hzn => ?_⟩
  rw [eq_of_number (opens_numbers hlaw) (hput.mem_iff.2 (List.mem_cons_self ..)) hz hzn]
  show members.length < x.capacity
  omega

/-- A lot with one member fewer, put among the OPEN lots from the FULL ones. -/
theorem lotLaw_reopened {s : State} (k : LotLaw s) {x : Lot} (hx : x ∈ s.lots.full) {members : List Member}
    (hlen : members.length + 1 = x.members.length) :
    LotLawRoom x.number (s.withLots { s.lots with
      full := s.lots.full.filter fun z => decide (z.number ≠ x.number), opens := s.lots.opens ++ [{ x with members := members }] }) := by
  have hheld := k.held x (List.mem_append_left _ (List.mem_append_right _ hx))
  have hfull := perm_others (full_numbers (k.but x.number)) hx
  have hopen (z : Lot) (hz : z ∈ s.lots.opens ++ [{ x with members := members }]) :
      z ∈ s.lots.opens ∨ z = { x with members := members } := (List.mem_append.1 hz).imp_right List.mem_singleton.1
  refine ⟨lotLaw_replaced (x := x) (y := { x with members := members }) (k.but x.number) (all_perm_of_full (k.but x.number) hx) ?_ rfl ?_
    k.manifest ?_ rfl (fun z hz hzn => ?_) rfl, fun z hz hzn => ?_⟩
  · show (s.lots.manifest ++ others x.number s.lots.full ++ (s.lots.opens ++ [_])).Perm _
    rw [← List.append_assoc]
    exact List.perm_append_singleton _ _
  · show members.length ≤ x.capacity
    omega
  · show ((s.lots.opens ++ [{ x with members := members }] ++ others x.number s.lots.full).map Lot.key).Nodup
    have hperm : (s.lots.opens ++ s.lots.full).Perm (s.lots.opens ++ [x] ++ others x.number s.lots.full) := by
      rw [List.append_assoc]
      exact hfull.append_left _
    have hkeys := (hperm.map Lot.key).nodup_iff.1 k.keys
    simpa [Lot.key] using hkeys
  · rcases hopen z hz with hz | rfl
    · exact k.opens z hz
    · exact absurd rfl hzn
  · rcases hopen z hz with hz | rfl
    · have hnumbers := k.numbers
      rw [LotBuilder.all, List.map_append] at hnumbers
      exact absurd hzn.symm (List.disjoint_of_nodup_append hnumbers (List.mem_map_of_mem (List.mem_append_right _ hx))
        |> fun h e => h (e ▸ List.mem_map_of_mem hz))
    · show members.length < x.capacity
      omega

theorem lotLaw_refill {s : State} {n : Nat} (k : LotLawRoom n s) (p : Fin 4) (b : Bin) (l : List (Fin 16)) :
    LotLawRoom n (refill p b n l s) := by
  induction l generalizing s with
  | nil => exact k
  | cons i l ih =>
    unfold refill
    split
    · exact k
    · rename_i x hfind
      have hx := List.mem_of_find?_eq_some hfind
      have hn : n = x.number := (by simpa using List.find?_some hfind : x.number = n).symm
      split
      · exact ih ((lotLaw_joinLot (s := leaveLotList i s) (lotLawRoom_leaveLotList k i).toLotLawBut hx hn (k.room x hx hn.symm) i).room n)
      · exact ih k

/-- A lot left empty is discarded. -/
theorem lotLaw_discardEmpty {s : State} {n : Nat} (k : LotLawRoom n s) : LotLaw (discardEmpty n s) := by
  have hsub : (discardEmpty n s).lots.opens.Sublist s.lots.opens := List.filter_sublist
  refine (lotLaw_dropped (m := n) k.toLotLawBut (hsub.append_left _) k.manifest
    (k.keys.sublist ((hsub.append_right _).map _)) rfl (fun z hz => k.opens z (hsub.subset hz)) rfl).whole fun z hz hzn => ?_
  obtain ⟨hz, hkept⟩ := List.mem_filter.1 hz
  refine ⟨?_, k.room z hz hzn⟩
  rw [Nat.one_le_iff_ne_zero, ne_eq, List.length_eq_zero_iff]
  simpa [hzn] using hkept

theorem lotLaw_excludeSlot {s : State} (k : LotLaw s) (i : Option (Fin 16)) : LotLaw (excludeSlot i s) := by
  cases i with
  | none => exact k
  | some i => exact lotLaw_same (s := s) rfl rfl k

theorem lotLaw_exclude {s : State} (k : LotLaw s) {serial : List Byte} {x : Lot} {full : Bool} (hx : x ∈ if full then s.lots.full else s.lots.opens)
    (hholds : x.holds serial = true) : LotLaw (exclude serial x full s).1 := by
  have hslot := lotLaw_excludeSlot k (s.excludedSlot serial x.number)
  have hlots : (excludeSlot (s.excludedSlot serial x.number) s).lots = s.lots := by
    cases s.excludedSlot serial x.number <;> rfl
  have hlen := dropMember_length hholds
  cases full with
  | true =>
    exact lotLaw_discardEmpty (lotLaw_refill (lotLaw_reopened hslot (by rw [hlots]; exact hx) hlen) _ _ _)
  | false => exact lotLaw_discardEmpty (lotLaw_putOpen hslot (by rw [hlots]; exact hx) hlen)

end Sys2Proof.Machine
end

section
/-! SUPPORT. The laws of the lot-wait list (R150) and of serials (R158) under the operations of the lot builder. -/

namespace Sys2Proof.Machine

/-! ### What a join leaves (R148, R149) -/

/-- What the join of a slot to an OPEN lot leaves: the lot with its new member in its place, FULL where the manifest has no room. -/
structure Joined (i : Fin 16) (x : Lot) (s t : State) : Prop where
  waiting : t.lots.waiting = s.lots.waiting
  self : t.slot i = { s.slot i with state := .done, lotNumber := some x.number }
  other : ∀ j, j ≠ i → t.slot j = s.slot j
  lots : ∃ y : Lot, y.number = x.number ∧ y.key = x.key ∧ y.members = x.members ++ [(s.slot i).member i] ∧
    t.lots.all.Perm (y :: (s.lots.manifest ++ s.lots.full ++ others x.number s.lots.opens)) ∧
    (t.lots.full = s.lots.full ∧ (y ∈ t.lots.opens ∨ s.lots.manifest.length < 8) ∨
      t.lots.full = s.lots.full ++ [y] ∧ 8 ≤ s.lots.manifest.length)
  manifest : s.lots.manifest.length ≤ t.lots.manifest.length

theorem joinLot_joined {n : Nat} {s : State} {x : Lot} (k : LotLawBut n s) (hx : x ∈ s.lots.opens) (i : Fin 16) :
    Joined i x s (joinLot i x s) := by
  let y := x.with ((s.slot i).member i)
  have hput := perm_replaced (opens_numbers k) hx y
  have hself : (s.setSlot i { s.slot i with state := .done, lotNumber := some x.number }).slot i =
      { s.slot i with state := .done, lotNumber := some x.number } := slot_setSlot_same ..
  have hother (j : Fin 16) (hj : j ≠ i) : (s.setSlot i { s.slot i with state := .done, lotNumber := some x.number }).slot j = s.slot j :=
    slot_setSlot_ne _ _ hj
  obtain ⟨hmore, hroom, hfull⟩ := joinLot_cases i x s
  have hdropped : ((s.lots.opens.map fun z => if z.number = x.number then y else z).filter fun z => decide (z.number ≠ x.number)) =
      others x.number s.lots.opens := others_replaced rfl
  rcases Nat.lt_or_ge (x.members.length + 1) x.capacity with hlen | hlen
  · rw [hmore hlen]
    refine ⟨rfl, hself, hother, ⟨y, rfl, rfl, rfl, (hput.append_left _).trans List.perm_middle, .inl ⟨rfl, .inl ?_⟩⟩, le_rfl⟩
    exact hput.mem_iff.2 (List.mem_cons_self ..)
  · rcases Nat.lt_or_ge s.lots.manifest.length 8 with hm | hm
    · rw [hroom hlen hm]
      refine ⟨rfl, hself, hother, ⟨{ y with closed := some s.line.time }, rfl, rfl, rfl, ?_, .inl ⟨rfl, .inr hm⟩⟩, ?_⟩
      · show (s.lots.manifest ++ [_] ++ s.lots.full ++ List.filter _ _).Perm _
        rw [hdropped]
        exact ((List.perm_append_singleton _ _).append_right _).append_right _
      · show _ ≤ (s.lots.manifest ++ [_]).length
        rw [List.length_append]
        exact Nat.le_add_right ..
    · rw [hfull hlen hm]
      refine ⟨rfl, hself, hother, ⟨y, rfl, rfl, rfl, ?_, .inr ⟨rfl, hm⟩⟩, le_rfl⟩
      show (s.lots.manifest ++ (s.lots.full ++ [y]) ++ List.filter _ _).Perm _
      rw [hdropped, ← List.append_assoc]
      exact (List.perm_append_singleton _ _).append_right _

/-! ### Serials (R158) -/

/-- No lot holds the drive of a slot. -/
def State.unlotted (s : State) (i : Fin 16) : Prop := ∀ x ∈ s.lots.all, ∀ m ∈ x.members, (s.slot i).serial ≠ some m.serial

theorem unlotted_of_state {s : State} (k : SerialLaw s) {i : Fin 16} (h : (s.slot i).state ≠ .done) : s.unlotted i :=
  fun x hx m hm hserial => h (k.same i x hx m hm hserial).1

/-- The lots keep their numbers and members, and the slots what the law of serials goes by. -/
theorem serialLaw_same {s t : State} (hall : t.lots.all = s.lots.all) (hslots : ∀ j, (t.slot j).serial = (s.slot j).serial ∧
    ((s.slot j).state = .done → (t.slot j).state = .done ∧ (t.slot j).lotNumber = (s.slot j).lotNumber) ∨ (t.slot j).serial = none)
    (k : SerialLaw s) : SerialLaw t where
  slots i j hij hi := by
    rcases hslots i with ⟨hsi, -⟩ | hsi
    · rw [hsi] at hi ⊢
      rcases hslots j with ⟨hsj, -⟩ | hsj
      · rw [hsj]
        exact k.slots i j hij hi
      · rw [hsj]
        exact fun h => by rw [h] at hi; cases hi
    · rw [hsi] at hi
      cases hi
  members := by
    rw [hall]
    exact k.members
  same i x hx m hm hserial := by
    rw [hall] at hx
    rcases hslots i with ⟨hsi, hdone⟩ | hsi
    · rw [hsi] at hserial
      obtain ⟨hstate, hnumber⟩ := k.same i x hx m hm hserial
      exact ⟨(hdone hstate).1, (hdone hstate).2.trans hnumber⟩
    · rw [hsi] at hserial
      cases hserial

/-- The same where one slot, whose drive no lot holds, may change its state. -/
theorem serialLaw_same_but {s t : State} {i : Fin 16} (hall : t.lots.all = s.lots.all) (hslots : ∀ j, (t.slot j).serial = (s.slot j).serial ∧
    (j ≠ i → (t.slot j).state = (s.slot j).state ∧ (t.slot j).lotNumber = (s.slot j).lotNumber)) (hfree : s.unlotted i)
    (k : SerialLaw s) : SerialLaw t where
  slots a b hab ha := by
    rw [(hslots a).1] at ha
    rw [(hslots a).1, (hslots b).1]
    exact k.slots a b hab ha
  members := by
    rw [hall]
    exact k.members
  same j x hx m hm hserial := by
    rw [hall] at hx
    rw [(hslots j).1] at hserial
    obtain ⟨hstate, hnumber⟩ := (hslots j).2 fun e => hfree x hx m hm (e ▸ hserial)
    rw [hstate, hnumber]
    exact k.same j x hx m hm hserial

/-- The lots stand in another order, or some are gone. -/
theorem serialLaw_lots {s t : State} (hall : t.lots.all.Subperm s.lots.all) (hslots : t.slots = s.slots) (k : SerialLaw s) :
    SerialLaw t := by
  have hslot (j : Fin 16) : t.slot j = s.slot j := by rw [State.slot, hslots]; rfl
  obtain ⟨l, hperm, hsub⟩ := hall
  refine ⟨fun i j hij hi => ?_, ?_, fun i x hx m hm hserial => ?_⟩
  · rw [hslot] at hi
    rw [hslot, hslot]
    exact k.slots i j hij hi
  · refine (List.Perm.flatMap_right _ hperm).nodup_iff.1 (k.members.sublist ?_)
    exact hsub.flatMap _
  · rw [hslot] at hserial ⊢
    exact k.same i x (hsub.subset (hperm.mem_iff.2 hx)) m hm hserial

/-- A slot whose drive no lot holds joins a lot. -/
theorem serialLaw_joined {s t : State} {i : Fin 16} {x : Lot} (k : SerialLaw s)
    (hall : s.lots.all.Perm (x :: (s.lots.manifest ++ s.lots.full ++ others x.number s.lots.opens))) (h : Joined i x s t)
    (hid : (s.slot i).identity.isSome = true) (hfree : s.unlotted i) : SerialLaw t := by
  obtain ⟨id, hid⟩ := Option.isSome_iff_exists.1 hid
  obtain ⟨y, hnumber, -, hmembers, hperm, -⟩ := h.lots
  have hserial : (s.slot i).serial = some id.serial := congrArg (Option.map Identity.serial) hid
  have hnew : ((s.slot i).member i).serial = id.serial := by rw [Slot.member, hid]; rfl
  have hslot (j : Fin 16) : (t.slot j).serial = (s.slot j).serial ∧ ((s.slot j).state = .done → (t.slot j).state = .done) ∧
      (j ≠ i → (t.slot j).lotNumber = (s.slot j).lotNumber) := by
    by_cases hj : j = i
    · subst hj
      rw [h.self]
      exact ⟨rfl, fun _ => rfl, fun h => absurd rfl h⟩
    · rw [h.other j hj]
      exact ⟨rfl, fun h => h, fun _ => rfl⟩
  refine ⟨fun a b hab ha => ?_, ?_, fun j z hz m hm hj => ?_⟩
  · rw [(hslot a).1] at ha
    rw [(hslot a).1, (hslot b).1]
    exact k.slots a b hab ha
  · refine (List.Perm.flatMap_right _ hperm).nodup_iff.2 ?_
    have hold := (List.Perm.flatMap_right _ hall).nodup_iff.1 k.members
    rw [List.flatMap_cons, hmembers, List.map_append, List.map_singleton, hnew, List.append_assoc, List.singleton_append]
    rw [List.flatMap_cons] at hold
    refine List.perm_middle.nodup_iff.2 (List.nodup_cons.2 ⟨fun hmem => ?_, hold⟩)
    rw [← List.flatMap_cons (f := fun z : Lot => z.members.map Member.serial)] at hmem
    obtain ⟨z, hz, hz'⟩ := List.mem_flatMap.1 hmem
    obtain ⟨m, hm, hms⟩ := List.mem_map.1 hz'
    exact hfree z (hall.mem_iff.2 hz) m hm (hserial.trans (congrArg some hms.symm))
  · rw [(hslot j).1] at hj
    have hold (w : Lot) (hw : w ∈ s.lots.all) (hmw : m ∈ w.members) (hn : w.number = z.number) :
        (t.slot j).state = .done ∧ (t.slot j).lotNumber = some z.number := by
      obtain ⟨hstate, hlot⟩ := k.same j w hw m hmw hj
      have hji : j ≠ i := fun e => hfree w hw m hmw (e ▸ hj)
      exact ⟨(hslot j).2.1 hstate, ((hslot j).2.2 hji).trans (hlot.trans (congrArg some hn))⟩
    rcases List.mem_cons.1 (hperm.mem_iff.1 hz) with rfl | hz
    · rw [hmembers] at hm
      rcases List.mem_append.1 hm with hm | hm
      · exact hold x (hall.mem_iff.2 (List.mem_cons_self ..)) hm hnumber.symm
      · rw [List.mem_singleton.1 hm, hnew] at hj
        have hji : j = i := by
          by_contra hne
          exact k.slots j i hne (by rw [hj]; rfl) (hj.trans hserial.symm)
        subst hji
        rw [h.self, hnumber]
        exact ⟨rfl, rfl⟩
    · exact hold z (hall.mem_iff.2 (List.mem_cons_of_mem _ hz)) hm rfl

/-! ### A slot joins the lot of its key -/

/-- What a join leaves for the slots that wait. -/
structure Joins (i : Fin 16) (s t : State) : Prop where
  waiting : t.lots.waiting = s.lots.waiting
  state : (t.slot i).state = .done
  seated : (t.slot i).seated = (s.slot i).seated
  other : ∀ j, j ≠ i → t.slot j = s.slot j
  full : t.lots.full = s.lots.full ∨ (∃ y, t.lots.full = s.lots.full ++ [y]) ∧ 8 ≤ s.lots.manifest.length
  manifest : s.lots.manifest.length ≤ t.lots.manifest.length

theorem Joined.joins {i : Fin 16} {x : Lot} {s t : State} (h : Joined i x s t) : Joins i s t := by
  obtain ⟨y, -, -, -, -, hfull⟩ := h.lots
  refine ⟨h.waiting, by rw [h.self], by rw [h.self], h.other, ?_, h.manifest⟩
  rcases hfull with ⟨hfull, -⟩ | ⟨hfull, hm⟩
  · exact .inl hfull
  · exact .inr ⟨⟨y, hfull⟩, hm⟩

theorem serialLaw_openNewLot {s : State} (k : SerialLaw s) (p : Fin 4) (b : Bin) : SerialLaw (openNewLot p b s) := by
  have hall (x : Lot) (hx : x ∈ (openNewLot p b s).lots.all) : x ∈ s.lots.all ∨ x.members = [] := by
    rcases List.mem_append.1 (show x ∈ s.lots.manifest ++ s.lots.full ++ (s.lots.opens ++ [s.newLot p b]) from hx) with hx | hx
    · exact .inl (List.mem_append_left _ hx)
    · rcases List.mem_append.1 hx with hx | hx
      · exact .inl (List.mem_append_right _ hx)
      · rw [List.mem_singleton.1 hx]
        exact .inr rfl
  refine ⟨k.slots, ?_, fun i x hx m hm => ?_⟩
  · have hmembers := k.members
    rw [LotBuilder.all, List.flatMap_append] at hmembers
    show ((s.lots.manifest ++ s.lots.full ++ (s.lots.opens ++ [s.newLot p b])).flatMap fun x => x.members.map Member.serial).Nodup
    rw [List.flatMap_append, List.flatMap_append (xs := s.lots.opens)]
    simpa [State.newLot] using hmembers
  · rcases hall x hx with hx | hx
    · exact k.same i x hx m hm
    · rw [hx] at hm
      cases hm

theorem unlotted_openNewLot {s : State} {i : Fin 16} (h : s.unlotted i) (p : Fin 4) (b : Bin) : (openNewLot p b s).unlotted i := by
  intro x hx m hm
  rcases List.mem_append.1 (show x ∈ s.lots.manifest ++ s.lots.full ++ (s.lots.opens ++ [s.newLot p b]) from hx) with hx | hx
  · exact h x (List.mem_append_left _ hx) m hm
  · rcases List.mem_append.1 hx with hx | hx
    · exact h x (List.mem_append_right _ hx) m hm
    · rw [List.mem_singleton.1 hx] at hm
      cases hm

section
variable {s : State} {i : Fin 16} {p : Fin 4} {b : Bin} (k : LotLaw s) (hf : s.lots.fullLot p b = none)
include k hf

theorem joins_joinKey : Joins i s (joinKey i p b s) := by
  cases ho : s.lots.openLot p b with
  | some x =>
    rw [joinKey_open ho]
    exact (joinLot_joined (k.but x.number) (openLot_mem ho).1 i).joins
  | none =>
    rw [joinKey_new ho]
    have h := (joinLot_joined (lotLaw_openNewLot k ho hf) (List.mem_append_right _ (List.mem_singleton_self _)) i).joins
    exact ⟨h.waiting, h.state, h.seated, h.other, h.full, h.manifest⟩

theorem serialLaw_joinKey (ks : SerialLaw s) (hid : (s.slot i).identity.isSome = true) (hfree : s.unlotted i) :
    SerialLaw (joinKey i p b s) := by
  cases ho : s.lots.openLot p b with
  | some x =>
    rw [joinKey_open ho]
    have hx := (openLot_mem ho).1
    exact serialLaw_joined ks (all_perm_of_open (k.but x.number) hx) (joinLot_joined (k.but x.number) hx i) hid hfree
  | none =>
    rw [joinKey_new ho]
    have hbut := lotLaw_openNewLot k ho hf
    have hx : s.newLot p b ∈ (openNewLot p b s).lots.opens := List.mem_append_right _ (List.mem_singleton_self _)
    exact serialLaw_joined (serialLaw_openNewLot ks p b) (all_perm_of_open hbut hx) (joinLot_joined hbut hx i) hid
      (unlotted_openNewLot hfree p b)

end

/-! ### The slots that wait (R150) -/

/-- The law of the lot-wait list while slots of a key join: those of the key may wait without a FULL lot as long as `l` lists them. -/
structure WaitsBut (p : Fin 4) (b : Bin) (l : List (Fin 16)) (s : State) : Prop where
  once : s.lots.waiting.Nodup
  states : ∀ i, i ∈ s.lots.waiting ↔ (s.slot i).state = .lotWait
  behind : ∀ i ∈ s.lots.waiting, (s.slot i).identity.isSome = true ∧ ∃ q c, (s.slot i).profile = some q ∧
    (s.slot i).outcome = some (.bin c) ∧ ((s.lots.fullLot q c).isSome = true ∨ q = p ∧ c = b ∧ i ∈ l)

theorem LotWaitLaw.but {s : State} (k : LotWaitLaw s) (p : Fin 4) (b : Bin) (l : List (Fin 16)) : WaitsBut p b l s := by
  refine ⟨k.once, k.states, fun i hi => ?_⟩
  obtain ⟨hid, q, c, hq, hc, hfull⟩ := k.behind i hi
  exact ⟨hid, q, c, hq, hc, .inl hfull⟩

theorem WaitsBut.whole {p : Fin 4} {b : Bin} {l : List (Fin 16)} {s : State} (k : WaitsBut p b l s)
    (h : ∀ i ∈ s.lots.waiting, i ∈ l → (s.slot i).waitsFor p b = true → (s.lots.fullLot p b).isSome = true)
    (hfull : s.lots.full ≠ [] → s.lots.manifest.length = 8) : LotWaitLaw s := by
  refine ⟨k.once, k.states, fun i hi => ?_, hfull⟩
  obtain ⟨hid, q, c, hq, hc, hbehind⟩ := k.behind i hi
  refine ⟨hid, q, c, hq, hc, ?_⟩
  rcases hbehind with hbehind | ⟨rfl, rfl, hil⟩
  · exact hbehind
  · exact h i hi hil (by simp [Slot.waitsFor, hq, hc])

/-- One slot leaves the list, and no FULL lot is lost. -/
theorem waitsBut_left {p : Fin 4} {b : Bin} {l l' : List (Fin 16)} {s t : State} {i : Fin 16} (k : WaitsBut p b l s)
    (hw : t.lots.waiting = s.lots.waiting.filter fun j => decide (j ≠ i)) (hi : (t.slot i).state ≠ .lotWait)
    (hother : ∀ j, j ≠ i → t.slot j = s.slot j)
    (hfull : ∀ q c, (s.lots.fullLot q c).isSome = true → (t.lots.fullLot q c).isSome = true)
    (hl : ∀ j ∈ l, j ≠ i → j ∈ l' ∨ ((s.slot j).waitsFor p b = true → (t.lots.fullLot p b).isSome = true)) : WaitsBut p b l' t := by
  have hmem (j : Fin 16) : j ∈ t.lots.waiting ↔ j ∈ s.lots.waiting ∧ j ≠ i := by rw [hw, List.mem_filter, decide_eq_true_eq]
  refine ⟨by rw [hw]; exact k.once.filter _, fun j => ?_, fun j hj => ?_⟩
  · rw [hmem]
    by_cases hji : j = i
    · subst hji
      exact iff_of_false (fun h => h.2 rfl) hi
    · rw [hother j hji, ← k.states j]
      exact and_iff_left hji
  · obtain ⟨hj, hji⟩ := (hmem j).1 hj
    obtain ⟨hid, q, c, hq, hc, hbehind⟩ := k.behind j hj
    rw [hother j hji]
    refine ⟨hid, q, c, hq, hc, ?_⟩
    rcases hbehind with hbehind | ⟨rfl, rfl, hjl⟩
    · exact .inl (hfull q c hbehind)
    · rcases hl j hjl hji with hjl | hbehind
      · exact .inr ⟨rfl, rfl, hjl⟩
      · exact .inl (hbehind (by simp [Slot.waitsFor, hq, hc]))

theorem fullLot_append {l : LotBuilder} {full : List Lot} {p : Fin 4} {b : Bin} {more : List Lot} (h : full = l.full ++ more) :
    (l.fullLot p b).isSome = true → (full.find? (Lot.hasKey p b)).isSome = true := by
  intro hs
  obtain ⟨x, hx, hkey⟩ := fullLot_isSome.1 hs
  rw [List.find?_isSome]
  exact ⟨x, h ▸ List.mem_append_left _ hx, hasKey_iff.2 hkey⟩

theorem Joins.fullLot {i : Fin 16} {s t : State} (h : Joins i s t) (q : Fin 4) (c : Bin) (hs : (s.lots.fullLot q c).isSome = true) :
    (t.lots.fullLot q c).isSome = true := by
  rcases h.full with hfull | ⟨⟨y, hfull⟩, -⟩
  · exact fullLot_append (more := []) (by rw [hfull, List.append_nil]) hs
  · exact fullLot_append hfull hs

/-- A slot that waits for the key joins. -/
theorem waitsBut_joins {p : Fin 4} {b : Bin} {i : Fin 16} {rest : List (Fin 16)} {s t : State} (k : WaitsBut p b (i :: rest) s)
    (h : Joins i (leaveLotList i s) t) : WaitsBut p b rest t := by
  refine waitsBut_left k (i := i) h.waiting (by rw [h.state]; nofun) h.other h.fullLot fun j hj hji => .inl ?_
  exact (List.mem_cons.1 hj).resolve_left hji

/-- The slots of a key whose serials are still free: those that wait. -/
theorem unlotted_of_waiting {p : Fin 4} {b : Bin} {l : List (Fin 16)} {s : State} (k : WaitsBut p b l s) (ks : SerialLaw s) {i : Fin 16}
    (hi : i ∈ s.lots.waiting) : (s.slot i).identity.isSome = true ∧ s.unlotted i :=
  ⟨(k.behind i hi).1, unlotted_of_state ks (by rw [(k.states i).1 hi]; nofun)⟩

/-! ### The slots of a key join (R151) -/

/-- A slot that is not listed is left alone. -/
theorem joinWaiters_slot (p : Fin 4) (b : Bin) (l : List (Fin 16)) {s : State} {j : Fin 16} (h : j ∉ l) :
    ((joinWaiters p b l s).slot j).state = (s.slot j).state := by
  induction l generalizing s with
  | nil => rfl
  | cons i l ih =>
    rw [List.mem_cons, not_or] at h
    unfold joinWaiters
    split
    · rfl
    · split
      · rw [ih h.2, joinKey_slot_state, if_neg h.1]
        rfl
      · exact ih h.2

theorem joinWaiters_laws {p : Fin 4} {b : Bin} {l : List (Fin 16)} {s : State} (k : LotLaw s) (kw : WaitsBut p b l s) (ks : SerialLaw s)
    (hl : ∀ i ∈ l, i ∈ s.lots.waiting) (honce : l.Nodup) :
    WaitsBut p b [] (joinWaiters p b l s) ∧ SerialLaw (joinWaiters p b l s) ∧
      s.lots.manifest.length ≤ (joinWaiters p b l s).lots.manifest.length ∧
      ∀ j, ((joinWaiters p b l s).slot j).seated = (s.slot j).seated := by
  induction l generalizing s with
  | nil => exact ⟨kw, ks, le_rfl, fun _ => rfl⟩
  | cons i l ih =>
    obtain ⟨hil, honce⟩ := List.nodup_cons.1 honce
    unfold joinWaiters
    split
    · rename_i hf
      refine ⟨⟨kw.once, kw.states, fun j hj => ?_⟩, ks, le_rfl, fun _ => rfl⟩
      obtain ⟨hid, q, c, hq, hc, hbehind⟩ := kw.behind j hj
      refine ⟨hid, q, c, hq, hc, .inl ?_⟩
      rcases hbehind with hbehind | ⟨rfl, rfl, -⟩
      · exact hbehind
      · exact hf
    · rename_i hf
      split
      · obtain ⟨hid, hfree⟩ := unlotted_of_waiting kw ks (hl i (List.mem_cons_self ..))
        have kl := lotLaw_leaveLotList k i
        have hf' : (leaveLotList i s).lots.fullLot p b = none := Option.not_isSome_iff_eq_none.1 hf
        have hjoins := joins_joinKey (i := i) kl hf'
        have hserial : SerialLaw (leaveLotList i s) := ⟨ks.slots, ks.members, ks.same⟩
        obtain ⟨hwaits, hserials, hmanifest, hseats⟩ := ih (lotLaw_joinKey kl hf' i) (waitsBut_joins kw hjoins) (serialLaw_joinKey kl hf' hserial hid hfree)
          (fun j hj => by
            rw [hjoins.waiting, leaveLotList_mem]
            exact ⟨hl j (List.mem_cons_of_mem _ hj), fun e => hil (e ▸ hj)⟩) honce
        refine ⟨hwaits, hserials, hjoins.manifest.trans hmanifest, fun j => (hseats j).trans ?_⟩
        by_cases hj : j = i
        · subst hj; exact hjoins.seated
        · rw [hjoins.other j hj]; rfl
      · rename_i hnot
        refine ih k ⟨kw.once, kw.states, fun j hj => ?_⟩ ks (fun j hj => hl j (List.mem_cons_of_mem _ hj)) honce
        obtain ⟨hid, q, c, hq, hc, hbehind⟩ := kw.behind j hj
        refine ⟨hid, q, c, hq, hc, hbehind.imp_right fun ⟨hqp, hcb, hjl⟩ => ⟨hqp, hcb, (List.mem_cons.1 hjl).resolve_left ?_⟩⟩
        rintro rfl
        exact hnot (by simp [Slot.waitsFor, hq, hc, hqp, hcb])

/-! ### Every law of the lots -/

/-- The laws of lots, waits and serials, and that a slot that is not EMPTY is seated. -/
structure Lawful (s : State) : Prop where
  seats : ∀ j, (s.slot j).state ≠ .empty → (s.slot j).seated = true
  lots : LotLaw s
  waits : LotWaitLaw s
  serials : SerialLaw s

/-- The laws but that FULL lots may stand while the manifest has room, as in a drain. -/
structure Draining (s : State) : Prop where
  seats : ∀ j, (s.slot j).state ≠ .empty → (s.slot j).seated = true
  lots : LotLaw s
  waits : ∀ p b, WaitsBut p b [] s
  serials : SerialLaw s

theorem Lawful.draining {s : State} (k : Lawful s) : Draining s := ⟨k.seats, k.lots, fun p b => k.waits.but p b [], k.serials⟩

theorem WaitsBut.elsewhere {p : Fin 4} {b : Bin} {s : State} (k : WaitsBut p b [] s) (q : Fin 4) (c : Bin) (l : List (Fin 16)) :
    WaitsBut q c l s := by
  refine ⟨k.once, k.states, fun i hi => ?_⟩
  obtain ⟨hid, q', c', hq, hc, hbehind⟩ := k.behind i hi
  refine ⟨hid, q', c', hq, hc, .inl (hbehind.resolve_right ?_)⟩
  rintro ⟨-, -, h⟩
  cases h

theorem Draining.lawful {s : State} (k : Draining s) (h : s.lots.full = [] ∨ 8 ≤ s.lots.manifest.length) : Lawful s :=
  ⟨k.seats, k.lots, (k.waits 0 .A).whole (fun _ _ hi => nomatch hi) fun hne => Nat.le_antisymm k.lots.manifest (h.resolve_left hne), k.serials⟩

/-- Slots whose seats stay, and that are EMPTY only where they were. -/
theorem seats_kept {s t : State} (k : ∀ j, (s.slot j).state ≠ .empty → (s.slot j).seated = true)
    (hseat : ∀ j, (t.slot j).seated = (s.slot j).seated) (hstate : ∀ j, (s.slot j).state = .empty → (t.slot j).state = .empty) :
    ∀ j, (t.slot j).state ≠ .empty → (t.slot j).seated = true := fun j hj =>
  (hseat j).trans (k j fun h => hj (hstate j h))

theorem waits_drainHead {s : State} (k : Draining s) {x : Lot} {rest : List Lot} (hf : s.lots.full = x :: rest) :
    WaitsBut x.profile x.bin s.lots.waiting (drainHead x rest s) := by
  have kw := k.waits 0 .A
  refine ⟨kw.once, kw.states, fun i hi => ?_⟩
  obtain ⟨hid, q, c, hq, hc, hbehind⟩ := kw.behind i hi
  refine ⟨hid, q, c, hq, hc, ?_⟩
  obtain ⟨y, hy, hkey⟩ := fullLot_isSome.1 (hbehind.resolve_right fun h => nomatch h.2.2)
  rw [hf] at hy
  rcases List.mem_cons.1 hy with rfl | hy
  · obtain ⟨rfl, rfl⟩ := Prod.mk.inj hkey
    exact .inr ⟨rfl, rfl, hi⟩
  · exact .inl (fullLot_isSome.2 ⟨y, hy, hkey⟩)

theorem serials_drainHead {s : State} (k : SerialLaw s) {x : Lot} {rest : List Lot} (hf : s.lots.full = x :: rest) :
    SerialLaw (drainHead x rest s) := by
  have hold : s.lots.all.Perm (x :: (s.lots.manifest ++ rest ++ s.lots.opens)) := by
    rw [LotBuilder.all, hf]
    exact List.perm_middle.append_right _
  have hnew : (drainHead x rest s).lots.all.Perm ({ x with closed := some s.line.time } :: (s.lots.manifest ++ rest ++ s.lots.opens)) :=
    ((List.perm_append_singleton _ _).append_right _).append_right _
  refine ⟨k.slots, ?_, fun i z hz m hm hserial => ?_⟩
  · exact (List.Perm.flatMap_right _ hnew).nodup_iff.2 ((List.Perm.flatMap_right _ hold).nodup_iff.1 k.members)
  · rcases List.mem_cons.1 (hnew.mem_iff.1 hz) with rfl | hz
    · exact k.same i x (hold.mem_iff.2 (List.mem_cons_self ..)) m hm hserial
    · exact k.same i z (hold.mem_iff.2 (List.mem_cons_of_mem _ hz)) m hm hserial

theorem draining_round {s : State} (k : Draining s) {x : Lot} {rest : List Lot} (hm : s.lots.manifest.length < 8)
    (hf : s.lots.full = x :: rest) : Draining (joinWaiters x.profile x.bin s.lots.waiting (drainHead x rest s)) ∧
      s.lots.manifest.length + 1 ≤ (joinWaiters x.profile x.bin s.lots.waiting (drainHead x rest s)).lots.manifest.length := by
  have khead := lotLaw_drainHead k.lots hm hf
  obtain ⟨hwaits, hserials, hmanifest, hseats⟩ := joinWaiters_laws khead (waits_drainHead k hf) (serials_drainHead k.serials hf)
    (fun i hi => hi) (k.waits 0 .A).once
  refine ⟨⟨?_, lotLaw_joinWaiters khead _ _ _, fun p b => hwaits.elsewhere p b [], hserials⟩, ?_⟩
  · refine seats_kept k.seats hseats fun j hj => ?_
    have hnot : j ∉ s.lots.waiting := fun h => by
      have := ((k.waits 0 .A).states j).1 h
      rw [hj] at this
      cases this
    exact (joinWaiters_slot (s := drainHead x rest s) x.profile x.bin _ hnot).trans hj
  · have hlen : (drainHead x rest s).lots.manifest.length = s.lots.manifest.length + 1 := List.length_append
    omega

theorem lawful_drainRounds (n : Nat) {s : State} (k : Draining s) (hn : 8 ≤ s.lots.manifest.length + n) : Lawful (drainRounds n s) := by
  induction n generalizing s with
  | zero => exact k.lawful (.inr hn)
  | succ n ih =>
    rcases Nat.lt_or_ge s.lots.manifest.length 8 with hm | hm
    · cases hf : s.lots.full with
      | nil =>
        rw [drainRounds_none hf]
        exact k.lawful (.inl hf)
      | cons x rest =>
        rw [drainRounds_head hm hf]
        obtain ⟨hround, hmore⟩ := draining_round k hm hf
        exact ih hround (by omega)
    · rw [drainRounds_full hm]
      exact k.lawful (.inr hm)

theorem lawful_takeHead {s : State} (k : Lawful s) : Lawful (takeHead s) := by
  refine lawful_drainRounds _ ⟨k.seats, lotLaw_headTaken k.lots, fun p b => ?_, ?_⟩ (Nat.le_add_left ..)
  · have kw := k.waits.but p b []
    exact ⟨kw.once, kw.states, kw.behind⟩
  · exact serialLaw_lots (((List.drop_sublist _ _).append_right _).append_right _).subperm rfl k.serials

/-! ### A lot is closed on request (R155) -/

theorem lawful_closeLot {s : State} (k : Lawful s) {x : Lot} (hx : x ∈ s.lots.opens) (c : CloseCause) : Lawful (closeLot x c s) := by
  have hlots := lotLaw_closeLot (k.lots.but x.number) hx rfl (k.lots.held x (List.mem_append_right _ hx)) c
  have hperm := all_perm_of_open (k.lots.but x.number) hx
  rcases Nat.lt_or_ge s.lots.manifest.length 8 with hm | hm
  · rw [closeLot_of_room hm] at hlots ⊢
    refine ⟨k.seats, hlots, ⟨k.waits.once, k.waits.states, k.waits.behind, fun hf => ?_⟩, k.serials.slots, ?_, fun i z hz m hmem hserial => ?_⟩
    · have := k.waits.full hf
      omega
    all_goals
      have hnew : (s.lots.manifest ++ [{ x with closed := some s.line.time }] ++ s.lots.full ++ others x.number s.lots.opens).Perm
          ({ x with closed := some s.line.time } :: (s.lots.manifest ++ s.lots.full ++ others x.number s.lots.opens)) :=
        ((List.perm_append_singleton _ _).append_right _).append_right _
    · exact (List.Perm.flatMap_right _ hnew).nodup_iff.2 ((List.Perm.flatMap_right _ hperm).nodup_iff.1 k.serials.members)
    · rcases List.mem_cons.1 (hnew.mem_iff.1 hz) with rfl | hz
      · exact k.serials.same i x (hperm.mem_iff.2 (List.mem_cons_self ..)) m hmem hserial
      · exact k.serials.same i z (hperm.mem_iff.2 (List.mem_cons_of_mem _ hz)) m hmem hserial
  · rw [closeLot_of_no_room hm] at hlots ⊢
    refine ⟨k.seats, hlots, ⟨k.waits.once, k.waits.states, fun i hi => ?_, fun _ => Nat.le_antisymm k.lots.manifest hm⟩, ?_⟩
    · obtain ⟨hid, q, b, hq, hb, hfull⟩ := k.waits.behind i hi
      exact ⟨hid, q, b, hq, hb, fullLot_append rfl hfull⟩
    · refine serialLaw_lots (s := s) ?_ rfl k.serials
      show (s.lots.manifest ++ (s.lots.full ++ [x]) ++ others x.number s.lots.opens).Subperm _
      rw [← List.append_assoc]
      exact (((List.perm_append_singleton _ _).append_right _).trans hperm.symm).subperm

/-! ### A grade reaches the lots (R148, R150) -/

theorem lawful_giveGrade {s : State} (k : Lawful s) {i : Fin 16} {p : Fin 4} {b : Bin} (hstate : (s.slot i).state = .done)
    (hid : (s.slot i).identity.isSome = true) (hprofile : (s.slot i).profile = some p) (houtcome : (s.slot i).outcome = some (.bin b))
    (hfree : s.unlotted i) : Lawful (giveGrade i p b s) := by
  have hnot : i ∉ s.lots.waiting := fun h => by
    have := (k.waits.states i).1 h
    rw [hstate] at this
    cases this
  have hlots := lotLaw_giveGrade k.lots i p b
  cases hf : s.lots.fullLot p b with
  | some x =>
    rw [giveGrade_full hf] at hlots ⊢
    have hother (j : Fin 16) (hj : j ≠ i) : (s.setSlot i { s.slot i with state := .lotWait }).slot j = s.slot j := slot_setSlot_ne _ _ hj
    have hself : (s.setSlot i { s.slot i with state := .lotWait }).slot i = { s.slot i with state := .lotWait } := slot_setSlot_same ..
    have hseated : (s.slot i).seated = true := k.seats i (by rw [hstate]; nofun)
    refine ⟨fun j hj => ?_, hlots, ⟨?_, fun j => ?_, fun j hj => ?_, k.waits.full⟩, ?_⟩
    · by_cases hji : j = i
      · subst hji
        exact (congrArg Slot.seated hself).trans hseated
      · exact (congrArg Slot.seated (hother j hji)).trans (k.seats j (by rwa [← hother j hji]))
    · exact List.nodup_append.2 ⟨k.waits.once, List.nodup_singleton i, fun a ha b hb e => hnot (List.mem_singleton.1 hb ▸ e ▸ ha)⟩
    · show j ∈ s.lots.waiting ++ [i] ↔ ((s.setSlot i { s.slot i with state := .lotWait }).slot j).state = .lotWait
      rw [List.mem_append, List.mem_singleton]
      by_cases hji : j = i
      · subst hji
        rw [hself]
        exact iff_of_true (.inr rfl) rfl
      · rw [hother j hji, ← k.waits.states j]
        exact or_iff_left hji
    · show ((s.setSlot i { s.slot i with state := .lotWait }).slot j).identity.isSome = true ∧ ∃ q c,
        ((s.setSlot i { s.slot i with state := .lotWait }).slot j).profile = some q ∧
        ((s.setSlot i { s.slot i with state := .lotWait }).slot j).outcome = some (.bin c) ∧ (s.lots.fullLot q c).isSome = true
      rcases List.mem_append.1 hj with hj | hj
      · rw [hother j fun e => hnot (e ▸ hj)]
        exact k.waits.behind j hj
      · rw [List.mem_singleton.1 hj, hself]
        exact ⟨hid, p, b, hprofile, houtcome, by rw [hf]; rfl⟩
    · refine serialLaw_same_but (s := s) rfl (fun j => ?_) (i := i) hfree k.serials
      by_cases hji : j = i
      · subst hji
        exact ⟨(congrArg Slot.serial hself).trans rfl, fun h => absurd rfl h⟩
      · exact ⟨congrArg Slot.serial (hother j hji), fun _ => ⟨congrArg Slot.state (hother j hji), congrArg Slot.lotNumber (hother j hji)⟩⟩
  | none =>
    rw [giveGrade_join hf] at hlots ⊢
    have hjoins := joins_joinKey (i := i) k.lots hf
    have hfilter : s.lots.waiting = s.lots.waiting.filter fun j => decide (j ≠ i) :=
      (List.filter_eq_self.2 fun j hj => decide_eq_true (show j ≠ i from fun e => hnot (e ▸ hj))).symm
    refine ⟨fun j hj => ?_, hlots, ?_, serialLaw_joinKey k.lots hf k.serials hid hfree⟩
    · by_cases hji : j = i
      · subst hji
        exact hjoins.seated.trans (k.seats j (by rw [hstate]; nofun))
      · rw [hjoins.other j hji] at hj ⊢
        exact k.seats j hj
    · refine WaitsBut.whole (waitsBut_left (i := i) (l' := []) (k.waits.but p b []) (hjoins.waiting.trans hfilter) (by rw [hjoins.state]; nofun)
        hjoins.other hjoins.fullLot nofun) (fun _ _ h => nomatch h) fun hne => ?_
      refine Nat.le_antisymm hlots.manifest (le_trans ?_ hjoins.manifest)
      rcases hjoins.full with hfull | ⟨-, hm⟩
      · rw [k.waits.full (hfull ▸ hne)]
      · exact hm

/-! ### A member leaves (R156, R157) -/

theorem excludedSlot_some {s : State} {serial : List Byte} {number : Nat} {i : Fin 16} (h : s.excludedSlot serial number = some i) :
    (s.slot i).state = .done ∧ (s.slot i).serial = some serial ∧ (s.slot i).lotNumber = some number := by
  have hfound := List.find?_some h
  simp only [Bool.and_eq_true, decide_eq_true_eq] at hfound
  exact ⟨hfound.1.1, hfound.1.2, hfound.2⟩

theorem excludeSlot_slot (o : Option (Fin 16)) (s : State) (j : Fin 16) : (excludeSlot o s).slot j =
    if o = some j then { s.slot j with outcome := some .reject, reason := .demerit, lotNumber := none } else s.slot j := by
  cases o with
  | none => rfl
  | some i =>
    by_cases hj : j = i
    · subst hj
      rw [if_pos rfl]
      exact slot_modSlot_same ..
    · rw [if_neg fun h => hj (Option.some.inj h).symm]
      exact slot_modSlot_ne _ _ hj

theorem excludeSlot_lots (o : Option (Fin 16)) (s : State) : (excludeSlot o s).lots = s.lots := by cases o <;> rfl

/-- The drive leaves its lot, and the slot that holds it lets go of the lot's number. -/
theorem serialLaw_excluded {s t : State} {x y : Lot} {rest : List Lot} {serial : List Byte} {o : Option (Fin 16)} (k : SerialLaw s)
    (hs : s.lots.all.Perm (x :: rest)) (ht : t.lots.all.Perm (y :: rest)) (hn : y.number = x.number)
    (hm : y.members = dropMember serial x.members) (hholds : x.holds serial = true)
    (ho : ∀ i, o = some i → (s.slot i).serial = some serial) (hslots : ∀ j, t.slot j = (excludeSlot o s).slot j) : SerialLaw t := by
  obtain ⟨before, m, after, hsplit, hserial, hbefore⟩ := holds_split hholds
  rw [hsplit, dropMember_split hserial hbefore] at hm
  have hold := (List.Perm.flatMap_right _ hs).nodup_iff.1 k.members
  rw [List.flatMap_cons, hsplit, List.map_append, List.map_cons, hserial] at hold
  have hnew : serial ∉ (y :: rest).flatMap (fun z => z.members.map Member.serial) ∧
      ((y :: rest).flatMap fun z => z.members.map Member.serial).Nodup := by
    rw [List.flatMap_cons, hm, List.map_append]
    refine List.nodup_cons.1 ((List.Perm.nodup_iff ?_).1 hold)
    exact List.perm_middle.append_right _
  have hsame (j : Fin 16) : (t.slot j).serial = (s.slot j).serial := by
    rw [hslots, excludeSlot_slot]
    split <;> rfl
  refine ⟨fun a b hab ha => ?_, (List.Perm.flatMap_right _ ht).nodup_iff.2 hnew.2, fun j z hz mz hmz hj => ?_⟩
  · rw [hsame] at ha
    rw [hsame, hsame]
    exact k.slots a b hab ha
  · rw [hsame] at hj
    have hz' := ht.mem_iff.1 hz
    have hnot : mz.serial ≠ serial := fun e => hnew.1 (List.mem_flatMap.2 ⟨z, hz', e ▸ List.mem_map_of_mem hmz⟩)
    have hkept : t.slot j = s.slot j := by
      rw [hslots, excludeSlot_slot, if_neg]
      intro hoj
      exact hnot (Option.some.inj (hj.symm.trans (ho j hoj)))
    rw [hkept]
    rcases List.mem_cons.1 hz' with rfl | hz'
    · rw [hn]
      refine k.same j x (hs.mem_iff.2 (List.mem_cons_self ..)) mz ?_ hj
      rw [hsplit]
      rw [hm] at hmz
      exact (List.mem_append.1 hmz).elim (List.mem_append_left _) fun h => List.mem_append_right _ (List.mem_cons_of_mem _ h)
    · exact k.same j z (hs.mem_iff.2 (List.mem_cons_of_mem _ hz')) mz hmz hj

/-- The lot with a number stands OPEN, or a lot of the key is FULL. -/
def Refilling (p : Fin 4) (b : Bin) (n : Nat) (s : State) : Prop :=
  (∃ x ∈ s.lots.opens, x.number = n ∧ x.key = (p, b)) ∨ (s.lots.fullLot p b).isSome = true

theorem refilling_joined {p : Fin 4} {b : Bin} {i : Fin 16} {x : Lot} {s t : State} (h : Joined i x s t) (hkey : x.key = (p, b))
    (hm : 8 ≤ s.lots.manifest.length) : Refilling p b x.number t := by
  obtain ⟨y, hn, hk, -, -, hfull⟩ := h.lots
  rcases hfull with ⟨-, hopen | hroom⟩ | ⟨hfull, -⟩
  · exact .inl ⟨y, hopen, hn, hk.trans hkey⟩
  · omega
  · exact .inr (fullLot_isSome.2 ⟨y, hfull ▸ List.mem_append_right _ (List.mem_singleton_self y), hk.trans hkey⟩)

theorem refill_laws {p : Fin 4} {b : Bin} {n : Nat} {l : List (Fin 16)} {s : State} (k : LotLawRoom n s) (kw : WaitsBut p b l s)
    (ks : SerialLaw s) (kr : Refilling p b n s) (hm : 8 ≤ s.lots.manifest.length) (hl : ∀ i ∈ l, i ∈ s.lots.waiting) (honce : l.Nodup) :
    WaitsBut p b [] (refill p b n l s) ∧ SerialLaw (refill p b n l s) ∧ 8 ≤ (refill p b n l s).lots.manifest.length ∧
      ∀ j, ((refill p b n l s).slot j).seated = (s.slot j).seated ∧ ((s.slot j).state = .empty → ((refill p b n l s).slot j).state = .empty) := by
  induction l generalizing s with
  | nil => exact ⟨kw, ks, hm, fun _ => ⟨rfl, id⟩⟩
  | cons i l ih =>
    obtain ⟨hil, honce⟩ := List.nodup_cons.1 honce
    unfold refill
    split
    · rename_i hfind
      have hfull : (s.lots.fullLot p b).isSome = true := by
        refine kr.resolve_left ?_
        rintro ⟨x, hx, hn, -⟩
        exact List.find?_eq_none.1 hfind x hx (decide_eq_true hn)
      refine ⟨⟨kw.once, kw.states, fun j hj => ?_⟩, ks, hm, fun _ => ⟨rfl, id⟩⟩
      obtain ⟨hid, q, c, hq, hc, hbehind⟩ := kw.behind j hj
      refine ⟨hid, q, c, hq, hc, .inl ?_⟩
      rcases hbehind with hbehind | ⟨rfl, rfl, -⟩
      · exact hbehind
      · exact hfull
    · rename_i x hfind
      have hx := List.mem_of_find?_eq_some hfind
      have hn : x.number = n := by simpa using List.find?_some hfind
      split
      · have hiw := hl i (List.mem_cons_self ..)
        obtain ⟨hid, hfree⟩ := unlotted_of_waiting kw ks hiw
        have kl := (lotLawRoom_leaveLotList k i).toLotLawBut
        have hjoined := joinLot_joined (s := leaveLotList i s) kl hx i
        have hserial : SerialLaw (leaveLotList i s) := ⟨ks.slots, ks.members, ks.same⟩
        have hkey : (∃ z ∈ s.lots.opens, z.number = n ∧ z.key = (p, b)) → x.key = (p, b) := by
          rintro ⟨z, hz, hzn, hzk⟩
          rw [← eq_of_number (opens_numbers k.toLotLawBut) hx hz (hzn.trans hn.symm)]
          exact hzk
        have hrefilling : Refilling p b n (joinLot i x (leaveLotList i s)) := by
          rcases kr with kr | kr
          · rw [← hn]
            exact refilling_joined hjoined (hkey kr) hm
          · exact .inr (hjoined.joins.fullLot p b kr)
        obtain ⟨hwaits, hserials, hmanifest, hseats⟩ := ih ((lotLaw_joinLot (s := leaveLotList i s) kl hx hn.symm (k.room x hx hn) i).room n)
          (waitsBut_joins kw hjoined.joins) (serialLaw_joined hserial (all_perm_of_open kl hx) hjoined hid hfree) hrefilling
          (hm.trans hjoined.joins.manifest) (fun j hj => by
            rw [hjoined.waiting, leaveLotList_mem]
            exact ⟨hl j (List.mem_cons_of_mem _ hj), fun e => hil (e ▸ hj)⟩) honce
        refine ⟨hwaits, hserials, hmanifest, fun j => ?_⟩
        obtain ⟨hseat, hempty⟩ := hseats j
        by_cases hj : j = i
        · subst hj
          refine ⟨hseat.trans hjoined.joins.seated, fun h => ?_⟩
          rw [(kw.states j).1 hiw] at h
          cases h
        · have hother := hjoined.other j hj
          exact ⟨hseat.trans (congrArg Slot.seated hother), fun h => hempty ((congrArg Slot.state hother).trans h)⟩
      · rename_i hnot
        refine ih k ⟨kw.once, kw.states, fun j hj => ?_⟩ ks kr hm (fun j hj => hl j (List.mem_cons_of_mem _ hj)) honce
        obtain ⟨hid, q, c, hq, hc, hbehind⟩ := kw.behind j hj
        refine ⟨hid, q, c, hq, hc, hbehind.imp_right fun ⟨hqp, hcb, hjl⟩ => ⟨hqp, hcb, (List.mem_cons.1 hjl).resolve_left ?_⟩⟩
        rintro rfl
        exact hnot (by simp [Slot.waitsFor, hq, hc, hqp, hcb])

/-- The state in which the lot has lost its member, before the refill and the discard of an empty lot. -/
def memberOut (serial : List Byte) (x : Lot) (full : Bool) (s : State) : State :=
  let u := excludeSlot (s.excludedSlot serial x.number) s
  let y := { x with members := dropMember serial x.members }
  if full then u.withLots { s.lots with full := others x.number s.lots.full, opens := s.lots.opens ++ [y] }
  else u.withLots (s.lots.putOpen y)

theorem exclude_eq (serial : List Byte) (x : Lot) (full : Bool) (s : State) : (exclude serial x full s).1 =
    discardEmpty x.number (if full then refill x.profile x.bin x.number s.lots.waiting (memberOut serial x full s)
      else memberOut serial x full s) := by
  cases hslot : s.excludedSlot serial x.number <;> cases full <;> simp only [exclude, memberOut, hslot] <;> rfl

theorem memberOut_slot (serial : List Byte) (x : Lot) (full : Bool) (s : State) (j : Fin 16) :
    (memberOut serial x full s).slot j = (excludeSlot (s.excludedSlot serial x.number) s).slot j := by
  unfold memberOut
  cases full <;> rfl

theorem lawful_exclude {s : State} (k : Lawful s) {serial : List Byte} {x : Lot} {full : Bool}
    (hx : x ∈ if full then s.lots.full else s.lots.opens) (hholds : x.holds serial = true) : Lawful (exclude serial x full s).1 := by
  have hlots := lotLaw_exclude k.lots hx hholds
  have hout (j : Fin 16) : ((memberOut serial x full s).slot j).state = (s.slot j).state ∧
      ((memberOut serial x full s).slot j).seated = (s.slot j).seated ∧ ((memberOut serial x full s).slot j).identity = (s.slot j).identity ∧
      ((memberOut serial x full s).slot j).profile = (s.slot j).profile ∧
      ((s.slot j).state = .lotWait → ((memberOut serial x full s).slot j).outcome = (s.slot j).outcome) := by
    rw [memberOut_slot, excludeSlot_slot]
    split
    · rename_i ho
      refine ⟨rfl, rfl, rfl, rfl, fun h => ?_⟩
      rw [(excludedSlot_some ho).1] at h
      cases h
    · exact ⟨rfl, rfl, rfl, rfl, fun _ => rfl⟩
  have hwaiting : (memberOut serial x full s).lots.waiting = s.lots.waiting := by cases full <;> rfl
  have hmanifest : (memberOut serial x full s).lots.manifest = s.lots.manifest := by cases full <;> rfl
  have hwaitsOf {l : List (Fin 16)} (hbehind : ∀ j ∈ s.lots.waiting, ∀ q c, (s.slot j).profile = some q → (s.slot j).outcome = some (.bin c) →
      (s.lots.fullLot q c).isSome = true →
      ((memberOut serial x full s).lots.fullLot q c).isSome = true ∨ q = x.profile ∧ c = x.bin ∧ j ∈ l) :
      WaitsBut x.profile x.bin l (memberOut serial x full s) := by
    refine ⟨by rw [hwaiting]; exact k.waits.once, fun j => by rw [hwaiting, (hout j).1]; exact k.waits.states j, fun j hj => ?_⟩
    rw [hwaiting] at hj
    obtain ⟨hid, q, c, hq, hc, hfull⟩ := k.waits.behind j hj
    obtain ⟨-, -, hidentity, hprofile, houtcome⟩ := hout j
    exact ⟨by rw [hidentity]; exact hid, q, c, hprofile.trans hq, (houtcome ((k.waits.states j).1 hj)).trans hc, hbehind j hj q c hq hc hfull⟩
  have hseats := seats_kept k.seats (t := memberOut serial x full s) (fun j => (hout j).2.1) fun j h => (hout j).1.trans h
  have hserial {rest : List Lot} (hs : s.lots.all.Perm (x :: rest))
      (ht : (memberOut serial x full s).lots.all.Perm ({ x with members := dropMember serial x.members } :: rest)) :
      SerialLaw (memberOut serial x full s) :=
    serialLaw_excluded k.serials hs ht rfl rfl hholds (fun i hi => (excludedSlot_some hi).2.1) (memberOut_slot serial x full s)
  rw [exclude_eq] at hlots ⊢
  cases full with
  | false =>
    have hput := perm_replaced (opens_numbers (k.lots.but x.number)) hx { x with members := dropMember serial x.members }
    have hserials := hserial (all_perm_of_open (k.lots.but x.number) hx) ((hput.append_left _).trans List.perm_middle)
    have hwaits := hwaitsOf (l := []) fun j hj q c hq hc hfull => .inl hfull
    exact ⟨hseats, hlots, LotWaitLaw.mk hwaits.once hwaits.states
      (fun j hj => by
        obtain ⟨hid, q, c, hq, hc, hbehind⟩ := hwaits.behind j hj
        exact ⟨hid, q, c, hq, hc, hbehind.resolve_right fun h => nomatch h.2.2⟩) k.waits.full,
      serialLaw_lots (s := memberOut serial x false s) (List.Sublist.append_left List.filter_sublist _).subperm rfl hserials⟩
  | true =>
    have hm : s.lots.manifest.length = 8 := k.waits.full fun h => by rw [if_pos rfl, h] at hx; cases hx
    have hserials := hserial (all_perm_of_full (k.lots.but x.number) hx) (by
      show (s.lots.manifest ++ others x.number s.lots.full ++ (s.lots.opens ++ [_])).Perm _
      rw [← List.append_assoc]
      exact List.perm_append_singleton _ _)
    have hwaits := hwaitsOf (l := s.lots.waiting) fun j hj q c hq hc hfull => by
      obtain ⟨z, hz, hkey⟩ := fullLot_isSome.1 hfull
      by_cases hzn : z.number = x.number
      · rw [eq_of_number (full_numbers (k.lots.but x.number)) hx hz hzn] at hkey
        obtain ⟨rfl, rfl⟩ := Prod.mk.inj hkey
        exact .inr ⟨rfl, rfl, hj⟩
      · exact .inl (fullLot_isSome.2 ⟨z, mem_others.2 ⟨hz, hzn⟩, hkey⟩)
    have hslot := lotLaw_excludeSlot k.lots (s.excludedSlot serial x.number)
    have hroom : LotLawRoom x.number (memberOut serial x true s) := by
      have h := lotLaw_reopened hslot (by rw [excludeSlot_lots]; exact hx) (dropMember_length hholds)
      rw [excludeSlot_lots] at h
      exact h
    have hrefilling : Refilling x.profile x.bin x.number (memberOut serial x true s) :=
      .inl ⟨_, List.mem_append_right _ (List.mem_singleton_self _), rfl, rfl⟩
    obtain ⟨hwaits', hserials', hmanifest', hseats'⟩ := refill_laws hroom hwaits hserials hrefilling (by rw [hmanifest, hm])
      (fun i hi => by rw [hwaiting]; exact hi) k.waits.once
    refine ⟨seats_kept hseats (fun j => (hseats' j).1) fun j => (hseats' j).2, hlots,
      LotWaitLaw.mk hwaits'.once hwaits'.states (fun j hj => ?_) fun _ => Nat.le_antisymm hlots.manifest hmanifest',
      serialLaw_lots (s := refill x.profile x.bin x.number s.lots.waiting (memberOut serial x true s))
        (List.Sublist.append_left List.filter_sublist _).subperm rfl hserials'⟩
    obtain ⟨hid, q, c, hq, hc, hbehind⟩ := hwaits'.behind j hj
    exact ⟨hid, q, c, hq, hc, hbehind.resolve_right fun h => nomatch h.2.2⟩

end Sys2Proof.Machine
end

section
/-! SUPPORT. What the operations of a run keep of timers and of the laws of lots, from grading and the executor to the recovery ladder. -/

namespace Sys2Proof.Machine

/-! ### The relation -/

/-- The law of lots and the laws of waits and serials are kept, and, with `timed`, no timer is loaded with 0. -/
structure Turn (timed : Prop) (s t : State) : Prop where
  ticking : timed → Ticking s t
  lots : LotLaw s → LotLaw t
  laws : Lawful s → Lawful t

variable {timed : Prop}

theorem Turn.refl (s : State) : Turn timed s s := ⟨fun _ => .refl s, id, id⟩

theorem Turn.trans {s t u : State} (h : Turn timed s t) (k : Turn timed t u) : Turn timed s u :=
  ⟨fun ht => (h.ticking ht).trans (k.ticking ht), k.lots ∘ h.lots, k.laws ∘ h.laws⟩

theorem lawful_calm {s t : State} (h : Calm timed s t) (k : Lawful s) : Lawful t where
  seats := seats_kept k.seats (fun j => (h.slots j).seated) fun j => (h.slots j).empty
  lots := lotLaw_same h.lots h.profiles k.lots
  waits := by
    refine ⟨by rw [h.lots]; exact k.waits.once, fun i => by rw [h.lots, (h.slots i).waits]; exact k.waits.states i, fun i hi => ?_,
      by rw [h.lots]; exact k.waits.full⟩
    rw [h.lots] at hi ⊢
    obtain ⟨hid, q, c, hq, hc, hfull⟩ := k.waits.behind i hi
    obtain ⟨kid, kprofile, koutcome⟩ := (h.slots i).waiting ((k.waits.states i).1 hi)
    exact ⟨by rw [kid]; exact hid, q, c, kprofile.trans hq, koutcome.trans hc, hfull⟩
  serials := by
    refine serialLaw_same (by rw [h.lots]) (fun j => ?_) k.serials
    rcases (h.slots j).serial with hid | ⟨hid, hdone⟩
    · exact .inr (by rw [Slot.serial, hid]; rfl)
    · exact .inl ⟨by rw [Slot.serial, hid]; rfl, hdone⟩

theorem Calm.turn {s t : State} (h : Calm timed s t) : Turn timed s t :=
  ⟨h.ticking, lotLaw_same h.lots h.profiles, lawful_calm h⟩

/-! ### The timers under the lot builder -/

theorem ticking_slots {s t : State} (hp : t.plans = s.plans) (hs : t.slots = s.slots) : Ticking s t :=
  ⟨hp, fun _ j => by
    have hslot : t.slot j = s.slot j := by rw [State.slot, hs]; rfl
    rw [hslot]
    exact .refl _⟩

theorem ticking_closeLot (x : Lot) (c : CloseCause) (s : State) : Ticking s (closeLot x c s) := by
  rcases Nat.lt_or_ge s.lots.manifest.length 8 with hm | hm
  · rw [closeLot_of_room hm]
    exact ticking_slots rfl rfl
  · rw [closeLot_of_no_room hm]
    exact ticking_slots rfl rfl

theorem ticking_withLots (s : State) (l : LotBuilder) : Ticking s (s.withLots l) := ticking_slots rfl rfl

theorem ticking_joinLot (i : Fin 16) (x : Lot) (s : State) : Ticking s (joinLot i x s) := by
  have hslot : Ticking s (s.modSlot i fun v => { v with state := .done, lotNumber := some x.number }) :=
    ticking_modSlot s i _ fun _ => ⟨id, id, id, id, id, id⟩
  have hput := hslot.trans (ticking_withLots _ (s.lots.putOpen (x.with ((s.slot i).member i))))
  rcases Nat.lt_or_ge (x.members.length + 1) x.capacity with h | h
  · rw [joinLot_open h]
    exact hput
  · rw [joinLot_filled h]
    exact hput.trans (ticking_closeLot _ _ _)

theorem ticking_giveGrade (i : Fin 16) (p : Fin 4) (b : Bin) (s : State) : Ticking s (giveGrade i p b s) := by
  cases hf : s.lots.fullLot p b with
  | some x =>
    rw [giveGrade_full hf]
    have hslot : Ticking s (s.setSlot i { s.slot i with state := .lotWait }) :=
      ticking_modSlot s i (fun v => { v with state := .lotWait }) fun _ => ⟨id, id, id, id, id, id⟩
    exact hslot.trans (ticking_slots rfl rfl)
  | none =>
    rw [giveGrade_join hf]
    cases ho : s.lots.openLot p b with
    | some x =>
      rw [joinKey_open ho]
      exact ticking_joinLot i x s
    | none =>
      rw [joinKey_new ho]
      have hnew : Ticking s (openNewLot p b s) := ticking_withLots s _
      exact hnew.trans (ticking_joinLot i _ _)

/-! ### Grading -/

theorem calm_finishGrading (i : Fin 16) (v : Verdict) (r : Reason) (g : Option Grade) (s : State) (h : (s.slot i).state = .active) :
    Calm timed s (finishGrading i v r g s) := by
  have hgraded : Bound (s.slot i) { s.slot i with outcome := some v, reason := r, grade := g } :=
    .of_running rfl (.inl rfl) (by rw [h]; nofun) (by rw [h]; nofun) (by rw [h]; nofun) (by rw [h]; nofun)
  unfold finishGrading
  refine ((calm_modSlot s i (fun x => { x with outcome := some v, reason := r, grade := g }) hgraded fun _ _ => ⟨id, id, id, id, id, id⟩).trans
    (calm_raise _ _ _)).trans (calm_endRun i (fun x => { x with state := .done }) _ ?_ ?_)
  · rw [raise_slot, slot_modSlot_same]
    exact .of_running rfl (.inl rfl) (by rw [h]; nofun) (by rw [h]; nofun) (by rw [h]; nofun) (show SlotState.done ≠ .lotWait from nofun)
  · exact ⟨id, id, not_due_of_none, not_due_of_none, not_due_of_none, id⟩

theorem judge_selected {p : Plan} {f : Option Profile} {x : Slot} {d : Nat} {b : Bin}
    (h : judge p (f.getD Profile.blank) x = .selected d (some b)) : x.identity.isSome = true ∧ f.isSome = true := by
  cases hid : x.identity with
  | none =>
    rw [judge, hid] at h
    cases h
  | some id =>
    refine ⟨rfl, ?_⟩
    cases hg : gateMissed p x.acc with
    | some g =>
      rw [judge_of_gate hid hg] at h
      split at h <;> cases h
    | none =>
      rw [judge_of_no_gate hid hg] at h
      cases f with
      | some f => rfl
      | none =>
        have hnone (e : Nat) : Profile.blank.select e x.acc = none := rfl
        rw [Option.getD_none, hnone] at h
        cases h

/-- A grade goes to the lot builder at the end of its run. -/
theorem turn_graded {i : Fin 16} {p : Fin 4} {b : Bin} {g : Option Grade} {s : State} (h : (s.slot i).state = .active)
    (hid : (s.slot i).identity.isSome = true) (hp : (s.slot i).profile = some p) :
    Turn timed s (giveGrade i p b (finishGrading i (.bin b) .none g s)) := by
  have hcalm := calm_finishGrading (timed := timed) i (.bin b) .none g s h
  obtain ⟨-, hlots, -, hslot⟩ := finishGrading_leaves (i := i) (v := .bin b) (reason := .none) (grade := g) (s := s)
  refine ⟨fun ht => (hcalm.ticking ht).trans (ticking_giveGrade ..), fun k => lotLaw_giveGrade (hcalm.turn.lots k) i p b, fun k => ?_⟩
  refine lawful_giveGrade (lawful_calm hcalm k) (by rw [hslot]) (by rw [hslot]; exact hid) (by rw [hslot]; exact hp) (by rw [hslot])
    fun x hx m hm => ?_
  rw [hlots] at hx
  rw [hslot]
  exact unlotted_of_state k.serials (by rw [h]; nofun) x hx m hm

theorem turn_gradeSlot (i : Fin 16) (s : State) (h : (s.slot i).state = .active) : Turn timed s (gradeSlot i s).1 := by
  unfold gradeSlot
  split
  · exact ((calm_modSlot s i Slot.retested (.of_same rfl rfl rfl rfl rfl rfl) fun _ _ => ⟨id, id, id, id, not_due_of_none, id⟩).trans
      (calm_raise _ _ _)).turn
  · exact (calm_finishGrading i _ _ _ s h).turn
  · exact (calm_finishGrading i _ _ _ s h).turn
  · rename_i hjudge
    obtain ⟨hid, hprofile⟩ := judge_selected hjudge
    refine turn_graded h hid ?_
    cases hp : (s.slot i).profile with
    | none =>
      rw [State.profileOf, hp] at hprofile
      cases hprofile
    | some p => rfl

/-! ### Steps -/

theorem calm_setPhase (i : Fin 16) (p : Phase) (s : State) : Calm timed s (setPhase i p s) := calm_modExec s i _ id

theorem calm_awaitPower (i : Fin 16) (s : State) (h : (s.slot i).state = .active) : Calm timed s (awaitPower i s) :=
  (calm_modSlot s i (fun x => { x with state := .waitPower, exec := { x.exec with phase := .spinUp } })
    (.of_running rfl (.inl rfl) (by rw [h]; nofun) (by rw [h]; nofun) (by rw [h]; nofun) (show SlotState.waitPower ≠ .lotWait from nofun))
    fun _ _ => ⟨id, id, id, id, id, id⟩).trans (calm_admission _)

theorem calm_startSweep (i : Fin 16) (s : State) : Calm timed s (startSweep i s).1 := by
  unfold startSweep
  split
  · exact .refl s
  · exact calm_engineGo i s

theorem calm_startWork (i : Fin 16) (st : Step) (s : State) : Calm timed s (startWork i st s).1 := by
  have h : Calm timed s (setPhase i .working s) := calm_setPhase i .working s
  unfold startWork
  cases st with
  | spin | dwell m | repeatTo target count => exact h
  | ident | health => exact h.trans (calm_issue i _ _ _)
  | writeSweep f | readSweep f v | seekSweep f => exact h.trans (calm_startSweep i _)
  | standby =>
    simp only
    split
    · exact h.trans (calm_issue i _ _ _)
    · exact h

theorem started_pacing {st : Step} {capacity size : Nat} (h : st.Sound) : (Sweep.started st capacity size).pacing ≠ some 0 := by
  have hnot {p : Pacing} {n : Nat} (hn : 1 ≤ n) : (if p = .tick then some n else none) ≠ some 0 := by
    split
    · exact fun e => absurd (Option.some.inj e) (by omega)
    · nofun
  cases st with
  | writeSweep f | readSweep f v => exact hnot (SweepFields.Sound.interval h).1
  | seekSweep f => exact hnot (SeekFields.Sound.interval h).1
  | _ => exact nofun

theorem begun_timer (st : Step) : st.timer ≠ some 0 := by
  have hnot {n : Nat} : (if 0 < n then some (n * 1000) else none) ≠ some 0 := by
    split
    · exact fun e => absurd (Option.some.inj e) (by omega)
    · nofun
  cases st with
  | writeSweep f | readSweep f v => exact hnot
  | _ => exact nofun

theorem calm_begun (i : Fin 16) (st : Step) (s : State) (hst : timed → PlansSound s → st.Sound) :
    Calm timed s (s.modSlot i (Slot.begun st)) := by
  refine calm_modSlot s i _ (.of_same rfl rfl rfl rfl rfl rfl) fun ht hp => ⟨id, id, id, id, fun h => absurd h (begun_timer st), fun h => ?_⟩
  have hbegun : ((s.slot i).engineBegun st).pacing = some 0 := h
  unfold Slot.engineBegun at hbegun
  split at hbegun
  · exact absurd hbegun (started_pacing (hst ht hp))
  · exact hbegun

theorem calm_beginStep (met : Bool) (i : Fin 16) (st : Step) (s : State) (h : (s.slot i).state = .active)
    (hst : timed → PlansSound s → st.Sound) : Calm timed s (beginStep met i st s).1 := by
  have hb := calm_begun i st s hst
  have ha : ((s.modSlot i (Slot.begun st)).slot i).state = .active := by rw [slot_modSlot_same]; exact h
  unfold beginStep
  simp only
  split
  · split
    · exact hb
    · exact hb.trans (calm_awaitPower i _ ha)
  · split
    · exact calm_setPhase i .waiting s
    · split
      · exact hb.trans (calm_awaitPower i _ ha)
      · exact hb.trans (calm_startWork i st _)

theorem calm_stepOver (i : Fin 16) (s : State) : Calm timed s (s.modSlot i Slot.stepOver) :=
  calm_modSlot s i _ (.of_same rfl rfl rfl rfl rfl rfl) fun _ _ => ⟨id, id, id, id, not_due_of_none, not_due_of_none⟩

theorem stepAt_sound {s : State} {i : Fin 16} {st : Step} (hp : PlansSound s) (h : s.stepAt i = some st) : st.Sound := by
  cases hplan : s.planOf i with
  | none =>
    rw [State.stepAt, State.stepsOf, hplan] at h
    cases h
  | some p =>
    rw [stepAt_eq hplan] at h
    exact (planOf_sound hp hplan).2 st (List.mem_of_getElem? h)

theorem turn_walk (n : Nat) (met : Bool) (i : Fin 16) (s : State) (h : (s.slot i).state = .active) : Turn timed s (walk n met i s) := by
  induction n generalizing met s with
  | zero => exact .refl s
  | succ n ih =>
    cases hs : s.stepAt i with
    | none =>
      have hover : Turn timed s (s.modSlot i Slot.planOver) :=
        (calm_modSlot s i _ (.of_same rfl rfl rfl rfl rfl rfl) fun _ _ => ⟨id, id, id, id, id, id⟩).turn
      have ha : ((s.modSlot i Slot.planOver).slot i).state = .active := by rw [slot_modSlot_same]; exact h
      have hgraded := hover.trans (turn_gradeSlot i _ ha)
      rw [walk_grades hs]
      split
      · rename_i hagain
        exact hgraded.trans (ih _ _ (by rw [gradeSlot_again i _ hagain, ha]))
      · exact hgraded
    | some st =>
      by_cases hr : ∃ target count, st = .repeatTo target count
      · obtain ⟨target, count, rfl⟩ := hr
        rw [walk_repeats hs]
        refine (Calm.turn (calm_modExec s i _ ?_)).trans (ih _ _ (by rw [State.modExec, slot_modSlot_same]; exact h))
        unfold resolveRepeat
        split <;> exact id
      · have hr' : ∀ target count, st ≠ .repeatTo target count := fun target count e => hr ⟨target, count, e⟩
        have hbegun := (calm_beginStep (timed := timed) met i st s h fun _ hp => stepAt_sound hp hs).turn
        cases hb : beginStep met i st s with
        | mk t again =>
          rw [hb] at hbegun
          cases again with
          | false =>
            rw [walk_stays hs hr' hb]
            exact hbegun
          | true =>
            have ha := beginStep_again met i st s (by rw [hb])
            rw [hb] at ha
            rw [walk_passes hs hr' hb]
            exact (hbegun.trans (calm_stepOver i t).turn).trans (ih _ _ (by rw [slot_modSlot_same]; exact ha.trans h))

theorem turn_proceed (i : Fin 16) (s : State) (h : (s.slot i).state = .active) : Turn timed s (proceed i s) := turn_walk walkFuel false i s h

theorem turn_nextStep (i : Fin 16) (s : State) (h : (s.slot i).state = .active) : Turn timed s (nextStep i s) :=
  (calm_stepOver i s).turn.trans (turn_proceed i _ (by rw [slot_modSlot_same]; exact h))

theorem turn_dwellEnds (i : Fin 16) (s : State) (h : (s.slot i).state = .active) : Turn timed s (dwellEnds i s) :=
  (calm_stepOver i s).turn.trans (turn_walk _ _ i _ (by rw [slot_modSlot_same]; exact h))

theorem turn_endIfEnded (i : Fin 16) (s : State) : Turn timed s (endIfEnded i s) := by
  unfold endIfEnded
  split
  · rename_i h
    refine turn_nextStep i s ?_
    simp only [State.sweepEnded, Bool.and_eq_true, decide_eq_true_eq] at h
    exact h.1.1.1.1.1.1
  · exact .refl s

theorem turn_sweepOn (i : Fin 16) (s : State) : Turn timed s (sweepOn i s) := (calm_engineGo i s).turn.trans (turn_endIfEnded i _)

theorem turn_resumeWork (i : Fin 16) (s : State) : Turn timed s (resumeWork i s) := by
  unfold resumeWork
  simp only
  split
  · split
    · exact turn_sweepOn i s
    · split
      · split
        · exact ((calm_modOp s i _ (fun _ _ => id) id).trans (calm_issue i _ _ _)).turn
        · split
          · exact (calm_issue i _ _ _).turn
          · exact .refl s
      · exact .refl s
  · exact .refl s

theorem turn_pauseLifts (i : Fin 16) (s : State) : Turn timed s (pauseLifts i s) := by
  unfold pauseLifts
  split
  · exact .refl s
  · split
    · rename_i h
      simp only [Bool.and_eq_true, decide_eq_true_eq] at h
      exact turn_proceed i s h.1
    · exact turn_resumeWork i s

theorem turn_returnDraining (i : Fin 16) (s : State) : Turn timed s (returnDraining i s) :=
  (calm_modOp s i _ (fun _ _ => id) id).turn.trans (turn_endIfEnded i _)

/-! ### The recovery ladder -/

section
variable {s : State} {i : Fin 16} (h : (s.slot i).state.holdsOp = true)
include h

theorem holdsOp_running : (s.slot i).state ≠ .empty ∧ (s.slot i).state ≠ .lotWait ∧ (s.slot i).state ≠ .done := by
  refine ⟨holdsOp_not_empty h, holdsOp_not_lotWait h, fun e => ?_⟩
  rw [e] at h
  cases h

/-- A slot that holds an operation keeps its identity and goes to another state than LOT_WAIT. -/
theorem bound_holdsOp {y : Slot} (hseat : y.seated = (s.slot i).seated) (hid : y.identity = (s.slot i).identity)
    (hy : y.state ≠ .lotWait) : Bound (s.slot i) y := by
  obtain ⟨hempty, hwait, hdone⟩ := holdsOp_running h
  exact .of_running hseat (.inl hid) hempty hwait hdone hy

theorem calm_enterStage1 (op : Op) (c : Cause) : Calm timed s (enterStage1 i op c s) :=
  ((calm_modSlot s i (Slot.stage1 op) (bound_holdsOp h rfl rfl (show SlotState.recovering ≠ .lotWait from nofun))
    fun _ _ => ⟨id, id, id, id, id, id⟩).trans ((calm_dropChunks i _ _).trans (calm_issue i _ _ _))).trans (calm_raise _ _ _)

theorem calm_enterStage2 (op : Op) (c : Cause) (hplan : timed → (s.planOf i).isSome = true) : Calm timed s (enterStage2 i op c s) := by
  have hslot (time : Nat) (htime : timed → PlansSound s → time ≠ 0) : Calm timed s (s.modSlot i (Slot.stage2 op time)) := by
    refine calm_modSlot s i _ (bound_holdsOp h rfl rfl (show SlotState.cycling ≠ .lotWait from nofun)) fun ht hp =>
      ⟨id, id, id, fun hoff => ?_, id, fun hpace => ?_⟩
    · have hzero := Option.some.inj hoff
      have hne := htime ht hp
      omega
    · revert hpace
      unfold Slot.stage2
      simp only
      split <;> exact id
  refine (((hslot _ fun ht hp => ?_).trans ((calm_leaveBufferList i _).trans (calm_dropChunks i _ _))).trans (calm_admission _)).trans
    (calm_raise _ _ _)
  obtain ⟨p, hp'⟩ := Option.isSome_iff_exists.1 (hplan ht)
  have := (planOf_sound hp hp').1.offTime
  rw [hp']
  show p.offTime ≠ 0
  omega

theorem calm_rejectRun (r : Reason) : Calm timed s (rejectRun i r s) :=
  (calm_endRun i _ s (bound_holdsOp h rfl rfl (show SlotState.done ≠ .lotWait from nofun))
    ⟨id, id, not_due_of_none, not_due_of_none, not_due_of_none, id⟩).trans (calm_raise _ _ _)

end

theorem calm_opClosed (i : Fin 16) (s : State) : Calm timed s (s.modOp i OpUnit.closed) := calm_modOp s i _ (fun _ _ => not_due_of_none) id

theorem calm_expire (i : Fin 16) (op : Op) (c : Cause) (s : State) (hplan : timed → (s.planOf i).isSome = true) :
    Calm timed s (expire i op c s) := by
  by_cases hh : (s.slot i).state.holdsOp = true
  · rw [expire_eq hh]
    have hexpired : Calm timed s (s.modSlot i Slot.expired) :=
      calm_modSlot s i _ (.of_same rfl rfl rfl rfl rfl rfl) fun _ _ => ⟨id, id, not_due_of_none, id, id, id⟩
    have hholds : ((s.modSlot i Slot.expired).slot i).state.holdsOp = true := by rw [slot_modSlot_same]; exact hh
    have hplan' (ht : timed) : ((s.modSlot i Slot.expired).planOf i).isSome = true := by
      rw [State.planOf, slot_modSlot_same]
      exact hplan ht
    split
    · exact hexpired.trans (calm_enterStage1 hholds op c)
    · split
      · exact hexpired.trans (calm_enterStage2 hholds op c hplan')
      · have hraised : ((raiseEscalation i .last op c (s.modSlot i Slot.expired)).slot i).state.holdsOp = true := by
          rw [raiseEscalation, raise_slot]
          exact hholds
        exact (hexpired.trans (calm_raise _ _ _)).trans (calm_rejectRun hraised _)
  · have hclosed : expire i op c s = s.modOp i OpUnit.closed := by
      have hh' : ¬ ((s.modOp i OpUnit.closed).slot i).state.holdsOp = true := by rw [State.modOp, slot_modSlot_same]; exact hh
      exact if_neg hh'
    rw [hclosed]
    exact calm_opClosed i s

theorem calm_timeoutEnds (i : Fin 16) (tag : Byte) (s : State) (hplan : timed → (s.planOf i).isSome = true) :
    Calm timed s (timeoutEnds i tag s) := by
  unfold timeoutEnds
  split
  · exact .refl s
  · split
    · exact calm_expire i _ _ s hplan
    · exact .refl s

theorem calm_offTimeEnds (i : Fin 16) (s : State) : Calm timed s (offTimeEnds i s) := by
  unfold offTimeEnds
  split
  · rename_i h
    simp only [Bool.and_eq_true, decide_eq_true_eq] at h
    refine (calm_modSlot s i (fun x => { x with state := .waitPower, powered := false, op := { x.op with offTimer := none } })
      (.of_running rfl (.inl rfl) ?_ ?_ ?_ (show SlotState.waitPower ≠ .lotWait from nofun))
      fun _ _ => ⟨id, id, id, not_due_of_none, id, id⟩).trans (calm_admission _)
    all_goals rw [h.2]; nofun
  · exact .refl s

theorem turn_stepTimerEnds (e : StepEntry) (s : State) : Turn timed s (stepTimerEnds e s) := by
  unfold stepTimerEnds
  split
  · exact (calm_drainEngine e.slot s).turn.trans (turn_endIfEnded e.slot _)
  · exact .refl s

end Sys2Proof.Machine
end

section
/-! SUPPORT. The timebase: what one millisecond leaves of every slot, and what an event of a timer leaves of the others. -/

namespace Sys2Proof.Machine

variable {timed : Prop}

/-! ### Timers that are not due -/

theorem timersFrom_one_iff (x : Slot) : x.TimersFrom 1 ↔ x.window ≠ some 0 ∧ x.silence ≠ some 0 ∧ x.op.timer ≠ some 0 ∧
    x.op.offTimer ≠ some 0 ∧ x.exec.timer ≠ some 0 ∧ x.sweep.pacing ≠ some 0 := by
  have hone {t : Option Nat} (h : t ≠ some 0) (k : Nat) (hk : t = some k) : 1 ≤ k :=
    Nat.one_le_iff_ne_zero.2 fun e => h (e ▸ hk)
  constructor
  · intro h
    have hnot {t : Option Nat} (ht : t = some 0 → 1 ≤ 0) : t ≠ some 0 := fun e => absurd (ht e) (by decide)
    exact ⟨hnot fun e => h 0 (.inl e), hnot fun e => h 0 (.inr (.inl e)), hnot fun e => h 0 (.inr (.inr (.inl e))),
      hnot fun e => h 0 (.inr (.inr (.inr (.inl e)))), hnot fun e => h 0 (.inr (.inr (.inr (.inr (.inl e))))),
      hnot fun e => h 0 (.inr (.inr (.inr (.inr (.inr e)))))⟩
  · rintro ⟨hwindow, hsilence, hop, hoff, hstep, hpacing⟩ k (h | h | h | h | h | h)
    · exact hone hwindow k h
    · exact hone hsilence k h
    · exact hone hop k h
    · exact hone hoff k h
    · exact hone hstep k h
    · exact hone hpacing k h

theorem TimersKept.from_one {x y : Slot} (h : TimersKept x y) (k : x.TimersFrom 1) : y.TimersFrom 1 := by
  obtain ⟨hwindow, hsilence, hop, hoff, hstep, hpacing⟩ := (timersFrom_one_iff x).1 k
  exact (timersFrom_one_iff y).2 ⟨hwindow ∘ h.window, hsilence ∘ h.silence, hop ∘ h.operation, hoff ∘ h.off, hstep ∘ h.step,
    hpacing ∘ h.pacing⟩

section
variable {p : Slot → Bool} {event : Fin 16 → State → State} {i : Fin 16} {s : State}

theorem due_idle (h : p (s.slot i) = false) : due p event i s = s := by rw [due, h]; rfl

theorem due_fires (h : p (s.slot i) = true) : due p event i s = event i s := by rw [due, h]; rfl

end

/-- The timers of a slot that stand at 0. -/
def Slot.windowDue (x : Slot) : Bool := decide (x.window = some 0)
def Slot.silenceDue (x : Slot) : Bool := decide (x.silence = some 0)
def Slot.operationDue (x : Slot) : Bool := decide (x.op.timer = some 0)
def Slot.offDue (x : Slot) : Bool := decide (x.op.offTimer = some 0)
def Slot.stepDue (x : Slot) : Bool := decide (x.exec.timer = some 0)
def Slot.pacingDue (x : Slot) : Bool := decide (x.sweep.pacing = some 0)

/-- The timers of a slot in the order in which they are taken, each with what its end does. -/
def dueEvents : List ((Slot → Bool) × (Fin 16 → State → State)) :=
  [(Slot.windowDue, seatWindowEnds), (Slot.silenceDue, linkLost), (Slot.operationDue, fun j t => timeoutEnds j (t.slot j).op.tag t),
    (Slot.offDue, offTimeEnds), (Slot.stepDue, fun j t => stepTimerEnds (t.stepEntry j) t),
    (Slot.pacingDue, fun j t => pacingEnds (t.stepEntry j) t)]

theorem takeDue_eq (i : Fin 16) (s : State) : takeDue i s = dueEvents.foldl (fun t q => due q.1 q.2 i t) s := by
  simp only [dueEvents, List.foldl_cons, List.foldl_nil]
  rfl

theorem due_all_idle {l : List ((Slot → Bool) × (Fin 16 → State → State))} {i : Fin 16} {s : State} (h : ∀ q ∈ l, q.1 (s.slot i) = false) :
    l.foldl (fun t q => due q.1 q.2 i t) s = s := by
  induction l with
  | nil => rfl
  | cons q l ih =>
    rw [List.foldl_cons, due_idle (h q (List.mem_cons_self ..))]
    exact ih fun q hq => h q (List.mem_cons_of_mem _ hq)

/-- Of a list of timers one is due, and behind its end none of those after it. -/
theorem due_one {before after : List ((Slot → Bool) × (Fin 16 → State → State))} {q : (Slot → Bool) × (Fin 16 → State → State)}
    {i : Fin 16} {s : State} (hb : ∀ p ∈ before, p.1 (s.slot i) = false) (hq : q.1 (s.slot i) = true)
    (ha : ∀ p ∈ after, p.1 ((q.2 i s).slot i) = false) : (before ++ q :: after).foldl (fun t q => due q.1 q.2 i t) s = q.2 i s := by
  rw [List.foldl_append, due_all_idle hb, List.foldl_cons, due_fires hq, due_all_idle ha]

theorem dueEvents_iff (x : Slot) : (∀ q ∈ dueEvents, q.1 x = false) ↔ x.TimersFrom 1 := by
  simp [dueEvents, timersFrom_one_iff, Slot.windowDue, Slot.silenceDue, Slot.operationDue, Slot.offDue, Slot.stepDue, Slot.pacingDue]

/-- A timer that is due behind an event that loads none with 0 was due before. -/
theorem TimersKept.due {x y : Slot} (h : TimersKept x y) {q : (Slot → Bool) × (Fin 16 → State → State)} (hq : q ∈ dueEvents)
    (hx : q.1 x = false) : q.1 y = false := by
  have hkept {a b : Option Nat} (hab : b = some 0 → a = some 0) (ha : decide (a = some 0) = false) : decide (b = some 0) = false :=
    decide_eq_false fun hb => of_decide_eq_false ha (hab hb)
  simp only [dueEvents, List.mem_cons, List.not_mem_nil, or_false] at hq
  rcases hq with rfl | rfl | rfl | rfl | rfl | rfl
  · exact hkept h.window hx
  · exact hkept h.silence hx
  · exact hkept h.operation hx
  · exact hkept h.off hx
  · exact hkept h.step hx
  · exact hkept h.pacing hx

/-- A slot with no timer at 0 has none taken. -/
theorem takeDue_idle {i : Fin 16} {s : State} (h : (s.slot i).TimersFrom 1) : takeDue i s = s := by
  rw [takeDue_eq]
  exact due_all_idle ((dueEvents_iff _).2 h)

/-- Of the timers of a slot one is due, and its end loads none of the others with 0. -/
theorem takeDue_fires {i : Fin 16} {s : State} {before after : List ((Slot → Bool) × (Fin 16 → State → State))}
    {q : (Slot → Bool) × (Fin 16 → State → State)} (hsplit : dueEvents = before ++ q :: after) (hq : q.1 (s.slot i) = true)
    (hidle : ∀ p ∈ before ++ after, p.1 (s.slot i) = false) (hkept : after = [] ∨ TimersKept (s.slot i) ((q.2 i s).slot i)) :
    takeDue i s = q.2 i s := by
  rw [takeDue_eq, hsplit]
  refine due_one (fun p hp => hidle p (List.mem_append_left _ hp)) hq fun p hp => ?_
  rcases hkept with rfl | hkept
  · cases hp
  · refine hkept.due ?_ (hidle p (List.mem_append_right _ hp))
    rw [hsplit]
    exact List.mem_append_right _ (List.mem_cons_of_mem _ hp)

section
variable {i : Fin 16} {s : State}

theorem takeDue_window (hdue : (s.slot i).window = some 0) (hidle : Slot.TimersFrom 1 { s.slot i with window := none })
    (hkept : TimersKept (s.slot i) ((seatWindowEnds i s).slot i)) :
    takeDue i s = seatWindowEnds i s :=
  takeDue_fires (before := dueEvents.take 0) (q := (Slot.windowDue, seatWindowEnds)) (after := dueEvents.drop 1) rfl (decide_eq_true hdue)
    (by simpa [timersFrom_one_iff, dueEvents, Slot.windowDue, Slot.silenceDue, Slot.operationDue, Slot.offDue, Slot.stepDue,
      Slot.pacingDue] using hidle) (.inr hkept)

theorem takeDue_silence (hdue : (s.slot i).silence = some 0) (hidle : Slot.TimersFrom 1 { s.slot i with silence := none })
    (hkept : TimersKept (s.slot i) ((linkLost i s).slot i)) :
    takeDue i s = linkLost i s :=
  takeDue_fires (before := dueEvents.take 1) (q := (Slot.silenceDue, linkLost)) (after := dueEvents.drop 2) rfl (decide_eq_true hdue)
    (by simpa [timersFrom_one_iff, dueEvents, Slot.windowDue, Slot.silenceDue, Slot.operationDue, Slot.offDue, Slot.stepDue,
      Slot.pacingDue] using hidle) (.inr hkept)

theorem takeDue_operation (hdue : (s.slot i).op.timer = some 0) (hidle : Slot.TimersFrom 1 { s.slot i with op := { (s.slot i).op with timer := none } })
    (hkept : TimersKept (s.slot i) ((timeoutEnds i (s.slot i).op.tag s).slot i)) :
    takeDue i s = timeoutEnds i (s.slot i).op.tag s :=
  takeDue_fires (before := dueEvents.take 2) (q := (Slot.operationDue, fun j t => timeoutEnds j (t.slot j).op.tag t)) (after := dueEvents.drop 3) rfl (decide_eq_true hdue)
    (by simpa [timersFrom_one_iff, dueEvents, Slot.windowDue, Slot.silenceDue, Slot.operationDue, Slot.offDue, Slot.stepDue,
      Slot.pacingDue] using hidle) (.inr hkept)

theorem takeDue_off (hdue : (s.slot i).op.offTimer = some 0) (hidle : Slot.TimersFrom 1 { s.slot i with op := { (s.slot i).op with offTimer := none } })
    (hkept : TimersKept (s.slot i) ((offTimeEnds i s).slot i)) :
    takeDue i s = offTimeEnds i s :=
  takeDue_fires (before := dueEvents.take 3) (q := (Slot.offDue, offTimeEnds)) (after := dueEvents.drop 4) rfl (decide_eq_true hdue)
    (by simpa [timersFrom_one_iff, dueEvents, Slot.windowDue, Slot.silenceDue, Slot.operationDue, Slot.offDue, Slot.stepDue,
      Slot.pacingDue] using hidle) (.inr hkept)

theorem takeDue_step (hdue : (s.slot i).exec.timer = some 0) (hidle : Slot.TimersFrom 1 { s.slot i with exec := { (s.slot i).exec with timer := none } })
    (hkept : TimersKept (s.slot i) ((stepTimerEnds (s.stepEntry i) s).slot i)) :
    takeDue i s = stepTimerEnds (s.stepEntry i) s :=
  takeDue_fires (before := dueEvents.take 4) (q := (Slot.stepDue, fun j t => stepTimerEnds (t.stepEntry j) t)) (after := dueEvents.drop 5) rfl (decide_eq_true hdue)
    (by simpa [timersFrom_one_iff, dueEvents, Slot.windowDue, Slot.silenceDue, Slot.operationDue, Slot.offDue, Slot.stepDue,
      Slot.pacingDue] using hidle) (.inr hkept)

theorem takeDue_pacing (hdue : (s.slot i).sweep.pacing = some 0) (hidle : Slot.TimersFrom 1 { s.slot i with sweep := { (s.slot i).sweep with pacing := none } }) :
    takeDue i s = pacingEnds (s.stepEntry i) s :=
  takeDue_fires (before := dueEvents.take 5) (q := (Slot.pacingDue, fun j t => pacingEnds (t.stepEntry j) t)) (after := dueEvents.drop 6) rfl (decide_eq_true hdue)
    (by simpa [timersFrom_one_iff, dueEvents, Slot.windowDue, Slot.silenceDue, Slot.operationDue, Slot.offDue, Slot.stepDue,
      Slot.pacingDue] using hidle) (.inl rfl)

end

theorem takeDue_all_idle {l : List (Fin 16)} {s : State} (h : ∀ j ∈ l, (s.slot j).TimersFrom 1) : l.foldl (fun t i => takeDue i t) s = s := by
  induction l generalizing s with
  | nil => rfl
  | cons i l ih =>
    rw [List.foldl_cons, takeDue_idle (h i (List.mem_cons_self ..))]
    exact ih fun j hj => h j (List.mem_cons_of_mem _ hj)

/-- One slot has a timer taken, behind which no other slot has one at 0. -/
theorem takeDue_one {i : Fin 16} {s : State} (hbefore : ∀ j, j ≠ i → (s.slot j).TimersFrom 1)
    (hafter : ∀ j, j ≠ i → ((takeDue i s).slot j).TimersFrom 1) : slotIds.foldl (fun t i => takeDue i t) s = takeDue i s := by
  have honce : slotIds.Nodup := by decide
  obtain ⟨before, after, hsplit⟩ := List.append_of_mem (mem_slotIds i)
  rw [hsplit] at honce ⊢
  obtain ⟨-, hrest, hdisjoint⟩ := List.nodup_append.1 honce
  rw [List.foldl_append, takeDue_all_idle fun j hj => hbefore j fun e => hdisjoint j hj i (List.mem_cons_self ..) e,
    List.foldl_cons, takeDue_all_idle fun j hj => hafter j fun e => (List.nodup_cons.1 hrest).1 (e ▸ hj)]

/-! ### What one millisecond counts -/

theorem counted_modSlot_mayWork {s : State} {i j : Fin 16} (h : j ≠ i) (f : Slot → Slot) : (s.modSlot i f).mayWork j = s.mayWork j := by
  rw [State.mayWork, State.mayWork, State.paused, State.paused, State.zoneHold, State.zoneHold, slot_modSlot_ne _ _ h, modSlot_zone]

theorem counted_slots {l : List (Fin 16)} (hl : l.Nodup) (s : State) :
    (∀ j, (l.foldl (fun t i => t.modSlot i (Slot.counted (t.mayWork i))) s).slot j =
      if j ∈ l then (s.slot j).counted (s.mayWork j) else s.slot j) ∧
    (l.foldl (fun t i => t.modSlot i (Slot.counted (t.mayWork i))) s) =
      { s with slots := (l.foldl (fun t i => t.modSlot i (Slot.counted (t.mayWork i))) s).slots } := by
  induction l generalizing s with
  | nil => exact ⟨fun j => (if_neg List.not_mem_nil).symm, rfl⟩
  | cons i l ih =>
    obtain ⟨hi, hl⟩ := List.nodup_cons.1 hl
    obtain ⟨hslot, hrest⟩ := ih hl (s.modSlot i (Slot.counted (s.mayWork i)))
    rw [List.foldl_cons]
    refine ⟨fun j => ?_, ?_⟩
    · rw [hslot]
      by_cases hj : j = i
      · subst hj
        rw [if_neg hi, slot_modSlot_same, if_pos (List.mem_cons_self ..)]
      · rw [slot_modSlot_ne _ _ hj, counted_modSlot_mayWork hj]
        exact if_congr (by rw [List.mem_cons]; exact (or_iff_right hj).symm) rfl rfl
    · rw [hrest]
      rfl

theorem countDown_slot (s : State) (j : Fin 16) : (countDown s).slot j = (s.slot j).counted (s.mayWork j) := by
  have h := (counted_slots (l := slotIds) (by decide) { s with now := s.now + 1 }).1 j
  rw [if_pos (mem_slotIds j)] at h
  exact h

theorem countDown_rest (s : State) : countDown s = { s with now := s.now + 1, slots := (countDown s).slots } :=
  (counted_slots (l := slotIds) (by decide) { s with now := s.now + 1 }).2

/-- Timers from 2 on do not end within a millisecond. -/
theorem counted_from_one {x : Slot} (h : x.TimersFrom 2) (working : Bool) : (x.counted working).TimersFrom 1 := by
  have hcounted {t : Option Nat} (ht : ∀ n, t = some n → 2 ≤ n) : t.map (· - 1) ≠ some 0 := by
    intro e
    obtain ⟨n, hn, hzero⟩ := Option.map_eq_some_iff.1 e
    have := ht n hn
    omega
  have hstanding {t : Option Nat} (ht : ∀ n, t = some n → 2 ≤ n) : t ≠ some 0 := fun e => absurd (ht 0 e) (by decide)
  have hstep : ∀ n, x.exec.timer = some n → 2 ≤ n := fun n hn => h n (.inr (.inr (.inr (.inr (.inl hn)))))
  have hpacing : ∀ n, x.sweep.pacing = some n → 2 ≤ n := fun n hn => h n (.inr (.inr (.inr (.inr (.inr hn)))))
  refine (timersFrom_one_iff _).2 ⟨hcounted fun n hn => h n (.inl hn), hcounted fun n hn => h n (.inr (.inl hn)),
    hcounted fun n hn => h n (.inr (.inr (.inl hn))), hcounted fun n hn => h n (.inr (.inr (.inr (.inl hn)))), ?_⟩
  cases working with
  | true => exact ⟨hcounted hstep, hcounted hpacing⟩
  | false => exact ⟨hstanding hstep, hstanding hpacing⟩

theorem countDown_stepEntry (s : State) (i : Fin 16) : (countDown s).stepEntry i = s.stepEntry i := by
  rw [State.stepEntry, countDown_slot]
  cases s.mayWork i <;> rfl

/-! ### The events of the timers -/

theorem ticking_raise (n : Nat) (d : Detail) (s : State) : Ticking s (raise n d s) := ticking_slots rfl rfl

theorem ticking_remove (i : Fin 16) (s : State) : Ticking s (remove i s) := by
  have hleft : Ticking s (leaveLotList i s) := ticking_withLots s _
  let f : Slot → Slot := fun x => { x with state := .empty, seated := false, window := none }
  have hended : Ticking (leaveLotList i s) (endRun i f (leaveLotList i s)) :=
    (ticking_modSlot _ i (fun x => f x.released) fun _ => ⟨not_due_of_none, id, not_due_of_none, not_due_of_none, not_due_of_none, id⟩).trans
      ((calm_endRun_rest (timed := True) i f _).ticking trivial)
  have hcleared : Ticking (endRun i f (leaveLotList i s)) ((endRun i f (leaveLotList i s)).modSlot i Slot.removed) :=
    ticking_modSlot _ i Slot.removed fun _ =>
      ⟨not_due_of_none, id, not_due_of_none, not_due_of_none, not_due_of_none, not_due_of_none⟩
  rw [Proofs.remove_eq]
  exact ((hleft.trans hended).trans hcleared).trans (ticking_raise _ _ _)

theorem ticking_seatWindowEnds (i : Fin 16) (s : State) : Ticking s (seatWindowEnds i s) := by
  unfold seatWindowEnds
  simp only
  split
  · split
    · exact (ticking_modSlot s i (fun x => { x with seated := true, window := none, state := .seated }) fun _ =>
        ⟨not_due_of_none, id, id, id, id, id⟩).trans (ticking_raise _ _ _)
    · exact ticking_remove i s
  · exact .refl s

theorem calm_linkLost (i : Fin 16) (s : State) : Calm timed s (linkLost i s) := by
  unfold linkLost
  split
  · have hdown : Calm timed s (s.modSlot i fun x => { x with linkUp := false, silence := none }) :=
      calm_modSlot s i _ (.of_same rfl rfl rfl rfl rfl rfl) fun _ _ => ⟨id, not_due_of_none, id, id, id, id⟩
    simp only
    split
    · rename_i hrun
      obtain ⟨hempty, hwait⟩ := inRun_not_resting hrun
      refine hdown.trans (calm_faultSlot i .link none _ hempty hwait fun e => ?_)
      rw [e] at hrun
      cases hrun
    · exact hdown
  · exact .refl s

/-- A pacing tick loads the pacing timer of its own slot alone. -/
theorem pacingEnds_others {e : StepEntry} {s : State} (hp : PlansSound s) {j : Fin 16} (hj : j ≠ e.slot) :
    TimersKept (s.slot j) ((pacingEnds e s).slot j) := by
  unfold pacingEnds
  simp only
  split
  · have hloaded (t : State) (h : Calm True (s.modSweep e.slot fun e => { e with pacing := some e.pace.2 }) t) :
        TimersKept (s.slot j) (t.slot j) := by
      have h' := (h.ticking trivial).timers hp j
      rwa [State.modSweep, slot_modSlot_ne _ _ hj] at h'
    split
    · exact hloaded _ (calm_missTick _ _)
    · split
      · exact hloaded _ ((calm_issueNext _ _).trans (calm_engineGo _ _))
      · split
        · exact hloaded _ (calm_missTick _ _)
        · exact hloaded _ (.refl _)
  · exact .refl _

end Sys2Proof.Machine
end

section
/-! The statement about time (O3). -/

namespace Sys2Proof.Proofs

open Sys2Proof Sys2Proof.Machine

/-- Settles O3: the count of one millisecond slot by slot, then the one timer whose end is taken, behind which none is loaded with 0. -/
theorem idleTickCounts : Obligations.IdleTickCounts := by
  have hstep (s : State) (hp : s.pending = []) : step s = .next (tick s) := by rw [step, hp]
  have hsame (s : State) : SameOutsideSlots s { countDown s with now := s.now } := by
    rw [countDown_rest]
    exact ⟨rfl, rfl, rfl, rfl, rfl, rfl, rfl, rfl, rfl, rfl, rfl, rfl⟩
  constructor
  · intro s hp h
    have hidle : ∀ j ∈ slotIds, ((countDown s).slot j).TimersFrom 1 := fun j _ => by
      rw [countDown_slot]
      exact counted_from_one (h j) _
    refine ⟨_, hstep s hp, ?_, ?_, fun i => ?_⟩
    · rw [tick, takeDue_all_idle hidle, countDown_rest]
      rfl
    · rw [tick, takeDue_all_idle hidle, countDown_rest]
      exact ⟨rfl, rfl, rfl, rfl, rfl, rfl, rfl, rfl, rfl, rfl, rfl, rfl⟩
    · rw [tick, takeDue_all_idle hidle, refreshLamps_slot, countDown_slot]
      rfl
  · intro s i hp hstore hothers x
    obtain ⟨u, hu⟩ : ∃ u, u = countDown s := ⟨_, rfl⟩
    have hrest : u.now = s.now + 1 ∧ u.lamps = s.lamps ∧ u.plans = s.plans := by
      rw [hu, countDown_rest]
      exact ⟨rfl, rfl, rfl⟩
    have hslot (j : Fin 16) : u.slot j = (s.slot j).counted (s.mayWork j) := hu ▸ countDown_slot s j
    have hentry : u.stepEntry i = s.stepEntry i := hu ▸ countDown_stepEntry s i
    have htag : (u.slot i).op.tag = x.op.tag := by rw [hslot]; rfl
    have hsound : PlansSound u := plansSound_of_plans hrest.2.2 fun p y hy => ⟨(hstore.1 p y hy).1, (hstore.1 p y hy).2.1⟩
    have hbefore (j : Fin 16) (hj : j ≠ i) : (u.slot j).TimersFrom 1 := by
      rw [hslot]
      exact counted_from_one (hothers j hj) _
    have hfires {v : State} (hv : takeDue i u = v) (hkept : ∀ j, j ≠ i → TimersKept (u.slot j) (v.slot j)) : step s = completed v := by
      rw [hstep s hp, tick, ← hu, takeDue_one hbefore fun j hj => by rw [hv]; exact (hkept j hj).from_one (hbefore j hj), hv]
      rfl
    have hticks {v : State} (h : Ticking u v) (j : Fin 16) : TimersKept (u.slot j) (v.slot j) := h.timers hsound j
    have hends {t : Option Nat} (h : t = some 1) : t.map (· - 1) = some 0 := congrArg (Option.map (· - 1)) h
    refine ⟨u, hrest.1, hrest.2.1, hu ▸ hsame s, hslot, fun hdue h => ?_, fun hdue h => ?_, fun hdue hplan h => ?_, fun hdue h => ?_,
      fun hmay hdue h => ?_, fun hmay hdue h => ?_⟩
    all_goals have hidle := counted_from_one h (s.mayWork i)
    · have hkept := hticks (ticking_seatWindowEnds i u)
      exact hfires (takeDue_window (by rw [hslot]; exact hends hdue) (by rw [hslot]; exact hidle) (hkept i)) fun j _ => hkept j
    · have hkept := hticks ((calm_linkLost i u).ticking trivial)
      exact hfires (takeDue_silence (by rw [hslot]; exact hends hdue) (by rw [hslot]; exact hidle) (hkept i)) fun j _ => hkept j
    · have hplan' : (u.planOf i).isSome = true := by
        have hat : u.planAt = s.planAt := funext fun p => by rw [State.planAt, hrest.2.2]; rfl
        rw [State.planOf, hslot, hat]
        exact hplan
      have hkept := hticks ((calm_timeoutEnds i (u.slot i).op.tag u fun _ => hplan').ticking trivial)
      have hstepped := hfires (takeDue_operation (by rw [hslot]; exact hends hdue) (by rw [hslot]; exact hidle) (hkept i)) fun j _ => hkept j
      rw [htag] at hstepped
      exact hstepped
    · have hkept := hticks ((calm_offTimeEnds i u).ticking trivial)
      exact hfires (takeDue_off (by rw [hslot]; exact hends hdue) (by rw [hslot]; exact hidle) (hkept i)) fun j _ => hkept j
    · have hkept := hticks ((turn_stepTimerEnds (u.stepEntry i) u).ticking trivial)
      rw [hmay] at hidle
      have hstepped := hfires (takeDue_step (by rw [hslot, hmay]; exact hends hdue) (by rw [hslot, hmay]; exact hidle) (hkept i)) fun j _ => hkept j
      rw [hentry] at hstepped
      exact hstepped
    · rw [hmay] at hidle
      have hstepped := hfires (takeDue_pacing (by rw [hslot, hmay]; exact hends hdue) (by rw [hslot, hmay]; exact hidle))
        fun j hj => pacingEnds_others hsound hj
      rw [hentry] at hstepped
      exact hstepped

end Sys2Proof.Proofs
end

section
/-! SUPPORT. What every command keeps of the laws of lots, waits and serials. -/

namespace Sys2Proof.Machine

/-! ### Changes outside the slots and the lots -/

/-- Slots, lots and profiles stay. -/
theorem turn_rest {s t : State} (hs : t.slots = s.slots) (hl : t.lots = s.lots) (hf : t.profiles = s.profiles) : Turn False s t := by
  have hslot (j : Fin 16) : t.slot j = s.slot j := by rw [State.slot, hs]; rfl
  exact Calm.turn ⟨nofun, hl, hf, fun j => by rw [hslot]; exact .refl _⟩

theorem turn_line (s : State) (l : Line) : Turn False s (s.withLine l) := turn_rest rfl rfl rfl

theorem turn_raise (n : Nat) (d : Detail) (s : State) : Turn False s (raise n d s) := (calm_raise n d s).turn

theorem turn_modZone (s : State) (z : Fin 4) (f : Zone → Zone) : Turn False s (s.modZone z f) := turn_rest rfl rfl rfl

theorem turn_admitIfChanged (l : List Nat) (s : State) : Turn False s (admitIfChanged l s) := (calm_admitIfChanged l s).turn

theorem turn_foldl {α : Type} (f : α → State → State) (hf : ∀ i s, Turn False s (f i s)) (l : List α) (s : State) :
    Turn False s (l.foldl (fun t i => f i t) s) := by
  induction l generalizing s with
  | nil => exact .refl s
  | cons i l ih => exact (hf i s).trans (ih _)

theorem turn_recomputeZones (s : State) : Turn False s (recomputeZones s) := turn_rest rfl rfl rfl

/-- What meets no waiting command keeps the laws like what it is made of. -/
theorem turn_unmet (f : State → State) (hf : ∀ s, Turn False s (f s)) (s : State) : Turn False s (unmet f s) :=
  ((turn_rest (s := s) (t := { s with pending := [] }) rfl rfl rfl).trans (hf _)).trans (turn_rest rfl rfl rfl)

/-- A change of a slot's record that the lots do not see. -/
theorem turn_modSlot (s : State) (i : Fin 16) (f : Slot → Slot) (hb : Bound (s.slot i) (f (s.slot i))) : Turn False s (s.modSlot i f) :=
  (calm_modSlot s i f hb nofun).turn

/-! ### A slot leaves the lot-wait list (R9, R15) -/

/-- A slot that leaves the lot-wait list, and what the other slots show stays. -/
theorem turn_left {s t : State} {i : Fin 16} (hlots : t.lots = (leaveLotList i s).lots) (hprofiles : t.profiles = s.profiles)
    (hother : ∀ j, j ≠ i → Bound (s.slot j) (t.slot j)) (hstate : (t.slot i).state ≠ .lotWait)
    (hseat : (t.slot i).state ≠ .empty → (t.slot i).seated = (s.slot i).seated ∧ (s.slot i).state ≠ .empty)
    (hserial : (t.slot i).serial = none ∨ (t.slot i).serial = (s.slot i).serial ∧ (s.slot i).state ≠ .done) : Turn False s t := by
  have hlaw (k : LotLaw s) : LotLaw t := lotLaw_same hlots hprofiles (lotLaw_leaveLotList k i)
  have hfull : t.lots.full = s.lots.full ∧ t.lots.manifest = s.lots.manifest ∧ t.lots.all = s.lots.all := by
    rw [hlots]
    exact ⟨rfl, rfl, rfl⟩
  have hmem (j : Fin 16) : j ∈ t.lots.waiting ↔ j ∈ s.lots.waiting ∧ j ≠ i := by rw [hlots, leaveLotList_mem]
  refine ⟨nofun, hlaw, fun k => ⟨fun j hj => ?_, hlaw k.lots, ⟨?_, fun j => ?_, fun j hj => ?_, ?_⟩, ?_⟩⟩
  · by_cases hji : j = i
    · subst hji
      obtain ⟨hseated, hempty⟩ := hseat hj
      exact hseated.trans (k.seats j hempty)
    · exact (hother j hji).seated.trans (k.seats j fun h => hj ((hother j hji).empty h))
  · rw [hlots]
    exact k.waits.once.filter _
  · rw [hmem]
    by_cases hji : j = i
    · subst hji
      exact iff_of_false (fun h => h.2 rfl) hstate
    · rw [(hother j hji).waits, ← k.waits.states j]
      exact and_iff_left hji
  · obtain ⟨hj, hji⟩ := (hmem j).1 hj
    obtain ⟨hid, q, c, hq, hc, hbehind⟩ := k.waits.behind j hj
    obtain ⟨kid, kprofile, koutcome⟩ := (hother j hji).waiting ((k.waits.states j).1 hj)
    refine ⟨by rw [kid]; exact hid, q, c, kprofile.trans hq, koutcome.trans hc, ?_⟩
    rw [LotBuilder.fullLot, hfull.1]
    exact hbehind
  · rw [hfull.1, hfull.2.1]
    exact k.waits.full
  · refine serialLaw_same hfull.2.2 (fun j => ?_) k.serials
    by_cases hji : j = i
    · subst hji
      rcases hserial with h | ⟨h, hdone⟩
      · exact .inr h
      · exact .inl ⟨h, fun h => absurd h hdone⟩
    · rcases (hother j hji).serial with hid | ⟨hid, hdone⟩
      · exact .inr (by rw [Slot.serial, hid]; rfl)
      · exact .inl ⟨by rw [Slot.serial, hid]; rfl, hdone⟩

/-- The end of a run keeps the other slots as the lots see them. -/
theorem endRun_others (i : Fin 16) (f : Slot → Slot) (s : State) {j : Fin 16} (hj : j ≠ i) : Bound (s.slot j) ((endRun i f s).slot j) := by
  have h := (calm_endRun_rest (timed := False) i f s).slots j
  rwa [slot_modSlot_ne _ _ hj] at h

theorem endRun_profiles (i : Fin 16) (f : Slot → Slot) (s : State) : (endRun i f s).profiles = s.profiles :=
  (calm_endRun_rest (timed := False) i f s).profiles

theorem turn_abortRun (i : Fin 16) (s : State) (h : (s.slot i).state.inUse = true) : Turn False s (abortRun i s) := by
  obtain ⟨hline, hlots⟩ := endRun_line i (fun x => { x with state := .done, outcome := some .aborted, reason := .none, grade := none })
    (leaveLotList i s)
  have hslot := (endRun_slot i (fun x => { x with state := .done, outcome := some .aborted, reason := .none, grade := none })
    (leaveLotList i s) (show SlotState.done ≠ .waitPower from nofun)).1
  have hempty : (s.slot i).state ≠ .empty := fun e => by rw [e] at h; cases h
  have hdone : (s.slot i).state ≠ .done := fun e => by rw [e] at h; cases h
  refine turn_left (i := i) hlots (endRun_profiles ..) (fun j hj => endRun_others i _ (leaveLotList i s) hj) ?_ (fun _ => ⟨?_, hempty⟩)
    (.inr ⟨?_, hdone⟩)
  all_goals
    unfold abortRun
    rw [hslot]
  · nofun
  · rfl
  · rfl

theorem turn_remove (i : Fin 16) (s : State) : Turn False s (remove i s) := by
  have hlots : (Proofs.unseatedRun i s).lots = (leaveLotList i s).lots := (endRun_line i Proofs.unseated _).2
  have hprofiles : (Proofs.unseatedRun i s).profiles = s.profiles := endRun_profiles i Proofs.unseated (leaveLotList i s)
  have hother (j : Fin 16) (hj : j ≠ i) : Bound (s.slot j) ((Proofs.unseatedRun i s).slot j) :=
    endRun_others i Proofs.unseated (leaveLotList i s) hj
  rw [Proofs.remove_eq]
  generalize Proofs.unseatedRun i s = v at hlots hprofiles hother
  have hself : (v.modSlot i Slot.removed).slot i = (v.slot i).removed := slot_modSlot_same v i Slot.removed
  refine Turn.trans (t := v.modSlot i Slot.removed) (turn_left (i := i) hlots hprofiles (fun j hj => ?_) ?_ ?_ (.inl ?_)) (turn_raise _ _ _)
  · rw [slot_modSlot_ne _ _ hj]
    exact hother j hj
  · rw [hself]
    exact (show SlotState.empty ≠ .lotWait from nofun)
  · rw [hself]
    exact fun h => absurd rfl h
  · rw [hself]
    rfl

/-! ### Completions -/

theorem turn_spinDone (i : Fin 16) (s : State) : Turn False s (spinDone i s) := by
  unfold spinDone
  split
  · rename_i h
    have hspun : Turn False s (s.modSlot i fun x => { x with state := .active, spun := true }) :=
      turn_modSlot s i (fun x => { x with state := .active, spun := true }) (.of_running rfl (.inl rfl) (by rw [h]; nofun)
        (by rw [h]; nofun) (by rw [h]; nofun) (show SlotState.active ≠ .lotWait from nofun))
    have hactive : ((admission (s.modSlot i fun x => { x with state := .active, spun := true })).slot i).state = .active := by
      rw [admission_slot] <;> simp
    simp only
    refine (hspun.trans (calm_admission _).turn).trans ?_
    generalize admission (s.modSlot i fun x => { x with state := .active, spun := true }) = u at hactive
    split
    · refine Turn.trans (calm_modOp u i (fun v => { v with interrupted := none }) nofun id).turn ?_
      split
      · exact turn_nextStep i _ (by rw [State.modOp, slot_modSlot_same]; exact hactive)
      · exact (calm_setPhase i .working _).turn.trans (turn_resumeWork i _)
    · exact turn_returnDraining i u
    · exact turn_resumeWork i u
    · exact .refl u
  · exact .refl s

theorem turn_driveResetDone (i : Fin 16) (s : State) : Turn False s (driveResetDone i s) := by
  unfold driveResetDone
  split
  · rename_i h
    have hback (y : Slot) (hseat : y.seated = (s.slot i).seated) (hid : y.identity = (s.slot i).identity) (hy : y.state ≠ .lotWait) :
        Bound (s.slot i) y :=
      .of_running hseat (.inl hid) (by rw [h]; nofun) (by rw [h]; nofun) (by rw [h]; nofun) hy
    split
    · exact (turn_modSlot s i _ (hback _ rfl rfl (show SlotState.spinning ≠ .lotWait from nofun))).trans (calm_issue i _ _ _).turn
    · simp only
      refine (turn_modSlot s i (fun x => { x with state := .active, op := { x.op with returnTo := none } })
        (hback _ rfl rfl (show SlotState.active ≠ .lotWait from nofun))).trans ?_
      split
      · exact turn_returnDraining i _
      · exact turn_resumeWork i _
  · exact .refl s

/-- A serial no other slot and no lot holds becomes that of a running slot (R158, R159). -/
theorem serialLaw_identified {s t : State} {i : Fin 16} {serial : List Byte} (hnew : s.duplicate i serial = false)
    (hserial : (t.slot i).serial = some serial) (hother : ∀ j, j ≠ i → t.slot j = s.slot j) (hall : t.lots.all = s.lots.all)
    (k : SerialLaw s) : SerialLaw t := by
  have hfresh := mt (duplicate_iff s i serial).2 (by rw [hnew]; nofun)
  rw [not_or, not_exists] at hfresh
  obtain ⟨hslots, hlots⟩ := hfresh
  have hone (j : Fin 16) (hj : j ≠ i) : (s.slot j).serial ≠ some serial := fun h => hslots j ⟨hj, h⟩
  refine ⟨fun a b hab ha => ?_, by rw [hall]; exact k.members, fun j x hx m hm h => ?_⟩
  · by_cases hai : a = i
    · subst hai
      rw [hserial, hother b (Ne.symm hab)]
      exact (hone b (Ne.symm hab)).symm
    · rw [hother a hai] at ha ⊢
      by_cases hbi : b = i
      · subst hbi
        rw [hserial]
        exact hone a hai
      · rw [hother b hbi]
        exact k.slots a b hab ha
  · rw [hall] at hx
    by_cases hji : j = i
    · subst hji
      rw [hserial] at h
      exact absurd ⟨x, hx, m, hm, (Option.some.inj h).symm⟩ hlots
    · rw [hother j hji] at h ⊢
      exact k.same j x hx m hm h

theorem turn_identified {s : State} {i : Fin 16} (h : (s.slot i).state = .active) {id : Identity} (hnew : s.duplicate i id.serial = false) :
    Turn False s (s.modSlot i fun x => { x with identity := some id }) := by
  let t := s.modSlot i fun x => { x with identity := some id }
  have hself : t.slot i = { s.slot i with identity := some id } := slot_modSlot_same ..
  have hother (j : Fin 16) (hj : j ≠ i) : t.slot j = s.slot j := slot_modSlot_ne _ _ hj
  have hstate (j : Fin 16) : (t.slot j).state = (s.slot j).state ∧ (t.slot j).seated = (s.slot j).seated := by
    by_cases hj : j = i
    · subst hj
      rw [hself]
      exact ⟨rfl, rfl⟩
    · rw [hother j hj]
      exact ⟨rfl, rfl⟩
  refine ⟨nofun, lotLaw_same rfl rfl, fun k => ⟨fun j hj => ?_, lotLaw_same (s := s) rfl rfl k.lots, ⟨k.waits.once, fun j => ?_, fun j hj => ?_, k.waits.full⟩,
    serialLaw_identified hnew (by rw [hself]; rfl) hother rfl k.serials⟩⟩
  · rw [(hstate j).1] at hj
    rw [(hstate j).2]
    exact k.seats j hj
  · rw [(hstate j).1]
    exact k.waits.states j
  · have hji : j ≠ i := fun e => by
      have hwait := (k.waits.states j).1 hj
      rw [e, h] at hwait
      cases hwait
    rw [hother j hji]
    exact k.waits.behind j hj

theorem turn_identDone (i : Fin 16) (serial : List Byte) (c z r : Nat) (s : State) (h : (s.slot i).state = .active) :
    Turn False s (identDone i serial c z r s) := by
  unfold identDone
  split
  · exact (calm_faultSlot i _ _ s (by rw [h]; nofun) (by rw [h]; nofun) (by rw [h]; nofun)).turn
  · rename_i hnew
    exact (turn_identified h (by simpa using hnew)).trans (turn_nextStep i _ (by rw [slot_modSlot_same]; exact h))

theorem calm_readTransferred (i : Fin 16) (n : Nat) (s : State) : Calm False s (readTransferred i n s) := by
  unfold readTransferred
  simp only
  split
  · exact (calm_modSweep s i _ nofun).trans (calm_withWork _ _)
  · refine Calm.trans ?_ (calm_dropChunks i _ _)
    split
    · exact .refl s
    · exact calm_modAcc s i _

theorem calm_remainder (i : Fin 16) (c : Chunk) (n : Nat) (s : State) : Calm False s (remainder i c n s) := by
  unfold remainder
  simp only
  split
  · exact calm_bandCompletion i _ s
  · split
    · exact .refl s
    · exact calm_modSweep s i _ nofun

theorem calm_seekMade (i : Fin 16) (s : State) : Calm False s (seekMade i s) := calm_modSweep s i _ nofun

theorem turn_workDone (i : Fin 16) (op : Op) (c : Completion) (ms : Nat) (s : State) (h : (s.slot i).state = .active) :
    Turn False s (workDone i op c ms s) := by
  cases op with
  | spin | driveReset => exact .refl s
  | ident =>
    simp only [workDone]
    split
    · exact turn_identDone i _ _ _ _ s h
    · exact .refl s
  | health => exact (calm_modAcc s i _).turn.trans (turn_nextStep i _ (by rw [State.modAcc, slot_modSlot_same]; exact h))
  | write k => exact ((calm_dropChunks i _ s).trans (calm_bandCompletion i _ _)).turn.trans (turn_sweepOn i _)
  | read k =>
    exact ((calm_modAcc s i _).trans ((calm_bandCompletion i _ _).trans (calm_readTransferred i _ _))).turn.trans (turn_sweepOn i _)
  | seek k => exact ((calm_modAcc s i _).trans (calm_seekMade i _)).turn.trans (turn_sweepOn i _)
  | standby =>
    exact (turn_modSlot s i (fun x => { x with spun := false }) (.of_same rfl rfl rfl rfl rfl rfl)).trans
      (turn_nextStep i _ (by rw [slot_modSlot_same]; exact h))

theorem turn_mediaError (i : Fin 16) (op : Op) (r c : Nat) (s : State) : Turn False s (mediaError i op r c s) := by
  unfold mediaError
  simp only
  have hcounted : Calm False s (s.modAcc i fun a => { a with u := sat32 a.u 1, c := sat64 a.c c }) := calm_modAcc s i _
  split
  · exact (hcounted.trans ((calm_remainder i _ _ _).trans (calm_readTransferred i _ _))).turn.trans (turn_sweepOn i _)
  · exact (hcounted.trans ((calm_remainder i _ _ _).trans (calm_dropChunks i _ _))).turn.trans (turn_sweepOn i _)
  · exact (hcounted.trans (calm_seekMade i _)).turn.trans (turn_sweepOn i _)
  · exact hcounted.turn

theorem turn_expire (i : Fin 16) (op : Op) (c : Cause) (s : State) : Turn False s (expire i op c s) := (calm_expire i op c s nofun).turn

theorem turn_handle (i : Fin 16) (op : Op) (c : Completion) (ms : Nat) (s : State) : Turn False s (handle i op c ms s) := by
  unfold handle
  simp only
  refine (calm_opClosed i s).turn.trans ?_
  split
  · split
    · rename_i h
      exact (calm_rejectRun h _).turn
    · exact .refl _
  · exact turn_expire i op _ _
  · split
    · split
      · exact turn_mediaError i _ _ _ _
      · exact .refl _
    · split
      · exact turn_mediaError i _ _ _ _
      · exact .refl _
    · split
      · exact turn_mediaError i _ _ _ _
      · exact .refl _
    · exact turn_expire i op _ _
  · split
    · exact turn_spinDone i _
    · exact turn_driveResetDone i _
    · split
      · rename_i h
        exact turn_workDone i op c ms _ h
      · exact .refl _

theorem turn_completionArrives (i : Fin 16) (r : ChannelRecord) (s : State) : Turn False s (completionArrives i r s) := by
  unfold completionArrives
  split
  · exact .refl s
  · split
    · exact .refl s
    · split
      · exact turn_handle i _ _ _ s
      · exact .refl s

theorem turn_dataArrives (i : Fin 16) (tag : Byte) (data : List Byte) (s : State) : Turn False s (dataArrives i tag data s) := by
  unfold dataArrives
  split
  · split
    · exact (calm_modSweep s i _ nofun).turn
    · exact .refl s
  · exact .refl s

/-! ### Sweep events -/

theorem turn_pacingEnds (e : StepEntry) (s : State) : Turn False s (pacingEnds e s) := by
  unfold pacingEnds
  simp only
  split
  · refine Turn.trans (calm_modSweep s e.slot (fun e => { e with pacing := some e.pace.2 }) nofun).turn ?_
    split
    · exact (calm_missTick e.slot _).turn
    · split
      · exact ((calm_issueNext e.slot _).trans (calm_engineGo e.slot _)).turn
      · split
        · exact (calm_missTick e.slot _).turn
        · exact .refl _
  · exact .refl s

theorem turn_fillEnds (i : Fin 16) (n : Nat) (s : State) : Turn False s (fillEnds i n s) := by
  unfold fillEnds
  split
  · exact ((calm_endWork i _ s).trans ((calm_modSweep _ i _ nofun).trans (calm_engineGo i _))).turn
  · exact .refl s

theorem turn_checkEnds (i : Fin 16) (n : Nat) (s : State) : Turn False s (checkEnds i n s) := by
  unfold checkEnds
  split
  · split
    · exact .refl s
    · exact ((calm_modAcc s i _).trans (calm_dropChunks i _ _)).turn.trans (turn_sweepOn i _)
  · exact .refl s

/-! ### Requests and pins of slots -/

theorem turn_startRun (i : Fin 16) (p f : Fin 4) (s : State) (h : (s.slot i).state = .seated ∨ (s.slot i).state = .done) :
    Turn False s (startRun i p f s) := by
  have hempty : (s.slot i).state ≠ .empty := by rcases h with h | h <;> rw [h] <;> nofun
  have hwait : (s.slot i).state ≠ .lotWait := by rcases h with h | h <;> rw [h] <;> nofun
  unfold startRun awaitPower
  simp only [State.modSlot, setSlot_setSlot, slot_setSlot_same]
  refine Turn.trans (turn_modSlot s i (fun _ => _) ?_) (calm_admission _).turn
  exact { seated := rfl, empty := fun e => absurd e hempty, waits := iff_of_false (show SlotState.waitPower ≠ .lotWait from nofun) hwait,
          waiting := fun e => absurd e hwait, serial := .inl rfl }

theorem turn_hold (i : Fin 16) (s : State) : Turn False s (hold i s) :=
  (turn_modSlot s i (fun x => { x with held := true }) (.of_same rfl rfl rfl rfl rfl rfl)).trans
    ((calm_voidRunning i _).trans (calm_admission _)).turn

theorem turn_releaseHold (i : Fin 16) (s : State) : Turn False s (releaseHold i s) := by
  have hfreed : Turn False s (admission (s.modSlot i fun x => { x with held := false })) :=
    (turn_modSlot s i (fun x => { x with held := false }) (.of_same rfl rfl rfl rfl rfl rfl)).trans (calm_admission _).turn
  unfold releaseHold
  simp only
  split
  · exact hfreed.trans (turn_unmet _ (turn_pauseLifts i) _)
  · exact hfreed

theorem turn_seatSense (i : Fin 16) (raw : Bool) (s : State) : Turn False s (seatSense i raw s) := by
  unfold seatSense
  split
  · exact .refl s
  · exact turn_modSlot s i _ (.of_same rfl rfl rfl rfl rfl rfl)

/-- A drive is seated in a slot without one (R8): the seats say that the slot was EMPTY. -/
theorem turn_seat (i : Fin 16) (s : State) (h : (s.slot i).seated = false) :
    Turn False s (s.modSlot i fun x => { x with seated := true, window := none, state := .seated }) := by
  let t := s.modSlot i fun x => { x with seated := true, window := none, state := .seated }
  have hself : t.slot i = { s.slot i with seated := true, window := none, state := .seated } := slot_modSlot_same ..
  have hother (j : Fin 16) (hj : j ≠ i) : t.slot j = s.slot j := slot_modSlot_ne _ _ hj
  refine ⟨nofun, lotLaw_same rfl rfl, fun k => ?_⟩
  have hempty : (s.slot i).state = .empty := by
    by_contra hne
    rw [k.seats i hne] at h
    cases h
  refine ⟨fun j hj => ?_, lotLaw_same (s := s) rfl rfl k.lots, ⟨k.waits.once, fun j => ?_, fun j hj => ?_, k.waits.full⟩,
    serialLaw_same (s := s) rfl (fun j => .inl ?_) k.serials⟩
  all_goals by_cases hji : j = i
  · subst hji
    rw [hself]
  · rw [hother j hji] at hj ⊢
    exact k.seats j hj
  · subst hji
    refine (k.waits.states j).trans (iff_of_false (by rw [hempty]; nofun) ?_)
    rw [hself]
    nofun
  · rw [hother j hji]
    exact k.waits.states j
  · subst hji
    have hwait := (k.waits.states j).1 hj
    rw [hempty] at hwait
    cases hwait
  · rw [hother j hji]
    exact k.waits.behind j hj
  · subst hji
    rw [hself]
    exact ⟨rfl, fun hdone => by rw [hempty] at hdone; cases hdone⟩
  · rw [hother j hji]
    exact ⟨rfl, fun hdone => ⟨hdone, rfl⟩⟩

theorem turn_seatWindowEnds (i : Fin 16) (s : State) : Turn False s (seatWindowEnds i s) := by
  unfold seatWindowEnds
  simp only
  split
  · rename_i h
    split
    · rename_i hr
      have hs : (s.slot i).window.isSome = true ∧ (s.slot i).seated = false := by simpa [hr] using h
      exact (turn_seat i s hs.2).trans (turn_raise _ _ _)
    · exact turn_remove i s
  · exact .refl s

theorem turn_beat (i : Fin 16) (s : State) : Turn False s (beat i s) := turn_modSlot s i _ (.of_same rfl rfl rfl rfl rfl rfl)

/-! ### Zones -/

theorem turn_credit (i : Fin 16) (s : State) : Turn False s (credit i s) := by
  unfold credit
  split
  · rename_i h
    have ha : (s.slot i).state = .active := by
      simp only [Slot.credited, Bool.and_eq_true, decide_eq_true_eq] at h
      exact h.1
    simp only
    refine (calm_modAcc s i fun a => { a with exposure := sat32 a.exposure 1 }).turn.trans ?_
    split
    · split
      · refine (calm_modExec _ i (fun x => { x with dwell := x.dwell + 1 }) id).turn.trans ?_
        split
        · exact turn_dwellEnds i _ (by rw [State.modExec, slot_modSlot_same, State.modAcc, slot_modSlot_same]; exact ha)
        · exact .refl _
      · exact .refl _
    · exact .refl _
  · exact .refl s

theorem turn_creditZone (z : Fin 4) (s : State) : Turn False s (creditZone z s) := by
  unfold creditZone
  split
  · exact turn_foldl credit turn_credit _ s
  · exact .refl s

theorem turn_liftZone (z : Fin 4) (s : State) : Turn False s (liftZone z s) := turn_foldl pauseLifts turn_pauseLifts _ s

theorem turn_act {a : ZoneAction} {z : Fin 4} {set : ZoneSettings} {s t : State} (h : a.act z set s = some t) : Turn False s t := by
  cases a with
  | run =>
    replace h : runZone z set s = some t := h
    unfold runZone at h
    split at h
    · cases h
    · cases h
    · obtain rfl := Option.some.inj h
      exact (turn_modZone s z _).trans (turn_admitIfChanged _ _)
  | stop =>
    replace h : stopZone z set s = some t := h
    unfold stopZone at h
    split at h
    · cases h
    · obtain rfl := Option.some.inj h
      exact turn_modZone s z _
    · obtain rfl := Option.some.inj h
      exact ((turn_modZone s z _).trans (turn_recomputeZones _)).trans (turn_admitIfChanged _ _)
  | clear =>
    replace h : clearZone z set s = some t := h
    unfold clearZone at h
    split at h
    · split at h
      · obtain rfl := Option.some.inj h
        exact (turn_modZone s z _).trans (turn_unmet _ (turn_liftZone z) _)
      · cases h
    · cases h

theorem turn_endRead (z : Fin 4) (s : State) : Turn False s (endRead z s) := by
  unfold endRead
  split
  · exact turn_rest rfl rfl rfl
  · exact .refl s

theorem turn_faultZone (z : Fin 4) (reason : ZoneReason) (s : State) : Turn False s (faultZone z reason s) :=
  ((((turn_modZone s z _).trans (turn_recomputeZones _)).trans (turn_admitIfChanged _ _)).trans
    (turn_foldl voidRunning (fun i s => (calm_voidRunning i s).turn) (zoneSlots z) _)).trans (turn_raise _ _ _)

theorem turn_allowZone (z : Fin 4) (s : State) : Turn False s (allowZone z s) := turn_rest rfl rfl rfl

theorem turn_bandNotice (z : Fin 4) (s : State) : Turn False s (bandNotice z s) := by
  unfold bandNotice
  simp only
  split
  · exact (turn_modZone s z _).trans (turn_raise _ _ _)
  · exact .refl s

theorem turn_heatedPeriod (z : Fin 4) (s : State) : Turn False s (heatedPeriod z s) :=
  ((((turn_modZone s z fun x => x.ramped.banded).trans (turn_bandNotice z _)).trans ((turn_modZone _ z Zone.driven).trans
    (turn_allowZone z _))).trans (turn_admitIfChanged _ _)).trans (turn_creditZone z _)

theorem turn_zonePeriod (z : Fin 4) (read : SensorRead) (s : State) : Turn False s (zonePeriod z read s) := by
  have htaken := (turn_endRead z s).trans (turn_modZone (endRead z s) z (Zone.readTaken (goodRead read)))
  have hidle (l : List Nat) := htaken.trans (((turn_modZone _ z Zone.idlePeriod).trans (turn_allowZone z _)).trans (turn_admitIfChanged l _))
  unfold zonePeriod
  simp only
  split
  · exact htaken.trans (turn_faultZone z _ _)
  · split
    · exact htaken
    · exact hidle _
    · exact hidle _
    · exact htaken.trans (turn_heatedPeriod z _)
    · exact htaken.trans (turn_heatedPeriod z _)

end Sys2Proof.Machine
end

section
/-! SUPPORT. What every request, the timebase and the two resets keep of the laws of lots, waits and serials. -/

namespace Sys2Proof.Machine

/-! ### The checks before a handler -/

theorem turn_withLength {n : Nat} {fields : List Byte} {s : State} {k : State × Reply} (hk : Turn False s k.1) :
    Turn False s (withLength n fields s k).1 := withLength_keeps (P := Turn False s) (.refl s) hk

theorem turn_withSlot {fields : List Byte} {s : State} {k : Fin 16 → State × Reply} (hk : ∀ i, Turn False s (k i).1) :
    Turn False s (withSlot fields s k).1 := withSlot_keeps (P := Turn False s) (.refl s) hk

/-- A request that is taken keeps the laws where its handler does. -/
theorem turn_taken {handler : List Byte → State → State × Reply} (hh : ∀ fields s, Turn False s (handler fields s).1) (kind : Byte)
    (discards : Bool) (r : Req) (s : State) : Turn False s (taken kind discards r handler s) :=
  taken_keeps (P := Turn False s) (fun u l hu => hu.trans (turn_line u l)) (fun fields u hu => hu.trans (hh fields u)) (.refl s)

/-! ### The resets -/

/-- TRAY RESTART empties every slot's record but its seat, and the lot-wait list; the lots stay (R161, R177). -/
theorem turn_restart (s : State) : Turn False s (restart s) := by
  have hslot (j : Fin 16) : (restart s).slot j = (s.slot j).restarted := slot_restart s j
  have hwait (j : Fin 16) : ((restart s).slot j).state ≠ .lotWait := by
    rw [hslot]
    show (if (s.slot j).seated then SlotState.seated else .empty) ≠ .lotWait
    split <;> nofun
  have hlots (k : LotLaw s) : LotLaw (restart s) := ⟨k.manifest, k.numbers, k.keys, k.range, k.held, k.opens, k.capacity⟩
  refine ⟨nofun, hlots, fun k => ⟨fun j hj => ?_, hlots k.lots, ⟨.nil, fun j => iff_of_false nofun (hwait j), nofun, k.waits.full⟩,
    serialLaw_same (s := s) rfl (fun j => .inr (by rw [hslot]; rfl)) k.serials⟩⟩
  rw [hslot] at hj ⊢
  by_contra hseat
  exact hj (if_neg hseat)

theorem turn_replySent (s : State) : Turn False s (replySent s) := by
  unfold replySent
  split
  · exact turn_line s _
  · exact .refl s

theorem turn_restartTaken (s : State) : Turn False s (restartTaken s) := by
  unfold restartTaken
  split
  · exact (turn_replySent s).trans (turn_restart _)
  · exact .refl s

theorem lotLaw_powerOn (a : BitVec 5) (r : RateStrap) (s : State) : LotLaw (powerOn a r s) where
  manifest := Nat.zero_le _
  numbers := .nil
  keys := .nil
  range := ⟨Nat.le_refl 1, (by decide : 1 ≤ 65535), nofun⟩
  held := nofun
  opens := nofun
  capacity p f h := by cases (profileAt_powerOn a r s p).symm.trans h

theorem lotWaitLaw_powerOn (a : BitVec 5) (r : RateStrap) (s : State) : LotWaitLaw (powerOn a r s) where
  once := .nil
  states i := by rw [slot_powerOn]; exact ⟨nofun, nofun⟩
  behind := nofun
  full h := absurd rfl h

theorem serialLaw_powerOn (a : BitVec 5) (r : RateStrap) (s : State) : SerialLaw (powerOn a r s) where
  slots i j _ h := by rw [slot_powerOn] at h; cases h
  members := .nil
  same _ := nofun

theorem lawful_powerOn (a : BitVec 5) (r : RateStrap) (s : State) : Lawful (powerOn a r s) where
  seats j h := by rw [slot_powerOn] at h; exact absurd rfl h
  lots := lotLaw_powerOn a r s
  waits := lotWaitLaw_powerOn a r s
  serials := serialLaw_powerOn a r s

/-! ### Requests of slots and zones -/

theorem turn_zoneSet (fields : List Byte) (s : State) : Turn False s (zoneSet fields s).1 := by
  refine turn_withLength ?_
  split
  · exact .refl s
  · split
    · exact .refl s
    · split
      · exact .refl s
      · rename_i h
        exact turn_act h

theorem turn_slotStart (fields : List Byte) (s : State) : Turn False s (slotStart fields s).1 := by
  refine turn_withLength ?_
  split
  · exact .refl s
  · exact .refl s
  · exact .refl s
  · split
    · exact .refl s
    · rename_i hstart
      split
      · exact .refl s
      · split
        · exact .refl s
        · exact turn_startRun _ _ _ s (startable_state (by simpa using hstart))

theorem turn_slotHold (fields : List Byte) (s : State) : Turn False s (slotHold fields s).1 := turn_withSlot fun i => turn_hold i s

theorem turn_slotRelease (fields : List Byte) (s : State) : Turn False s (slotRelease fields s).1 := turn_withSlot fun i => turn_releaseHold i s

theorem turn_slotAbort (fields : List Byte) (s : State) : Turn False s (slotAbort fields s).1 := by
  refine turn_withSlot fun i => ?_
  split
  · rename_i huse
    exact turn_abortRun i s huse
  · exact .refl s

theorem turn_slotReport (fields : List Byte) (s : State) : Turn False s (slotReport fields s).1 := turn_withSlot fun _ => .refl s

/-! ### Requests of lots -/

theorem turn_lotStatus (fields : List Byte) (s : State) : Turn False s (lotStatus fields s).1 := turn_withLength (.refl s)

theorem turn_takeHead (s : State) : Turn False s (takeHead s) := ⟨nofun, lotLaw_takeHead, lawful_takeHead⟩

theorem turn_lotTake (fields : List Byte) (s : State) : Turn False s (lotTake fields s).1 := by
  refine turn_withLength ?_
  simp only
  split
  · exact .refl s
  · exact .refl s
  · split
    · exact .refl s
    · split
      · exact .refl s
      · split
        · exact .refl s
        · simp only
          split
          · exact turn_takeHead s
          · exact .refl s

theorem turn_lotClose (fields : List Byte) (s : State) : Turn False s (lotClose fields s).1 := by
  refine turn_withLength ?_
  split
  · exact .refl s
  · exact .refl s
  · split
    · exact .refl s
    · exact .refl s
    · rename_i x hx _
      exact ⟨nofun, fun k => lotLaw_closeLot (k.but _) (openLot_mem hx).1 rfl (k.held _ (by simp [LotBuilder.all, (openLot_mem hx).1])) _,
        fun k => lawful_closeLot k (openLot_mem hx).1 _⟩

theorem turn_lotExclude (serial : List Byte) (s : State) : Turn False s (lotExclude serial s).1 := by
  have hout {x : Lot} {full : Bool} (hx : (if full then s.lots.full else s.lots.opens).find? (Lot.holds serial) = some x) :
      Turn False s (exclude serial x full s).1 :=
    have hmem := List.mem_of_find?_eq_some hx
    have hheld := List.find?_some hx
    ⟨nofun, fun k => lotLaw_exclude k hmem hheld, fun k => lawful_exclude k hmem hheld⟩
  refine turn_withLength ?_
  split
  · rename_i hx
    exact hout (full := false) hx
  · rename_i hx
    exact hout (full := true) hx
  · exact .refl s

/-! ### Requests of the line, the budget and the stores -/

theorem turn_poll (fields : List Byte) (s : State) : Turn False s (poll fields s).1 := by
  refine turn_withLength ?_
  unfold pollAnswered
  split
  · exact .refl s
  · exact turn_line s _

theorem turn_trayStatus (fields : List Byte) (s : State) : Turn False s (trayStatus fields s).1 := turn_withLength (turn_line s _)

theorem turn_trayRestart (broadcast : Bool) (fields : List Byte) (s : State) : Turn False s (trayRestartHandler broadcast fields s).1 := by
  unfold trayRestartHandler
  split
  · exact turn_withLength (turn_restart s)
  · exact turn_withLength (turn_line s _)

theorem turn_planLoad (fields : List Byte) (s : State) : Turn False s (planLoad fields s).1 := by
  rw [planLoad_frame]
  exact turn_rest rfl rfl rfl

theorem turn_profileLoad (fields : List Byte) (s : State) : Turn False s (profileLoad fields s).1 := by
  have hframe := profileLoad_frame fields s
  have hcapacity (k : LotLaw s) := profileLoad_store (fields := fields) k.capacity fun f hf => hf.lotCapacity.1
  generalize (profileLoad fields s).1 = t at hframe hcapacity ⊢
  have hslots : t.slots = s.slots := by rw [hframe]
  have hlots : t.lots = s.lots := by rw [hframe]
  have hslot (j : Fin 16) : t.slot j = s.slot j := by rw [State.slot, hslots]; rfl
  have hlaw (k : LotLaw s) : LotLaw t :=
    ⟨by rw [ManifestLaw, hlots]; exact k.manifest, by rw [hlots]; exact k.numbers, by rw [hlots]; exact k.keys, by rw [hlots]; exact k.range,
      by rw [hlots]; exact k.held, by rw [hlots]; exact k.opens, hcapacity k⟩
  refine ⟨nofun, hlaw, fun k => ⟨fun j hj => ?_, hlaw k.lots, ?_, serialLaw_same (s := s) (by rw [hlots]) (fun j => .inl ?_) k.serials⟩⟩
  · rw [hslot] at hj ⊢
    exact k.seats j hj
  · refine ⟨by rw [hlots]; exact k.waits.once, fun j => by rw [hlots, hslot]; exact k.waits.states j, fun j hj => ?_,
      by rw [hlots]; exact k.waits.full⟩
    rw [hlots] at hj ⊢
    rw [hslot]
    exact k.waits.behind j hj
  · rw [hslot]
    exact ⟨rfl, fun h => ⟨h, rfl⟩⟩

theorem turn_budgetSet (fields : List Byte) (s : State) : Turn False s (budgetSet fields s).1 := by
  refine turn_withLength ?_
  unfold budgetTaken
  split
  · exact .refl s
  · exact Turn.trans (t := recomputeZones (s.withPower (budgetFields fields s.power))) (turn_rest rfl rfl rfl) (calm_admission _).turn

/-! ### The line -/

theorem turn_requestTaken (kind : Byte) (r : Req) (s : State) : Turn False s (requestTaken kind r s) := by
  unfold requestTaken
  split
  · exact turn_taken turn_poll _ _ r s
  · exact turn_taken turn_trayStatus _ _ r s
  · exact turn_taken (turn_trayRestart r.broadcast) _ _ r s
  · exact turn_taken turn_planLoad _ _ r s
  · exact turn_taken turn_profileLoad _ _ r s
  · exact turn_taken turn_budgetSet _ _ r s
  · exact turn_taken turn_zoneSet _ _ r s
  · exact turn_taken turn_slotStart _ _ r s
  · exact turn_taken turn_slotHold _ _ r s
  · exact turn_taken turn_slotRelease _ _ r s
  · exact turn_taken turn_slotAbort _ _ r s
  · exact turn_taken turn_slotReport _ _ r s
  · exact turn_taken turn_lotStatus _ _ r s
  · exact turn_taken turn_lotTake _ _ r s
  · exact turn_taken turn_lotClose _ _ r s
  · exact turn_taken turn_lotExclude _ _ r s
  · exact turn_taken (fun _ s => .refl s) _ _ r s

theorem turn_bodyTaken (broadcast : Bool) (body : List Byte) (s : State) : Turn False s (bodyTaken broadcast body s) := by
  unfold bodyTaken
  split
  · exact turn_requestTaken _ _ s
  · exact .refl s

theorem turn_received (chars : List LineChar) (s : State) : Turn False s (received chars s) :=
  received_keeps (P := Turn False s) (fun u l hu => hu.trans (turn_line u l)) (fun broadcast body u hu => hu.trans (turn_bodyTaken broadcast body u))
    chars s (.refl s)

theorem turn_startRead (s : State) : Turn False s (startRead s) := by
  unfold startRead
  split
  · exact .refl s
  · exact turn_rest rfl rfl rfl

/-! ### The timebase -/

theorem turn_countDown (s : State) : Turn False s (countDown s) := by
  have hnow : Turn False s { s with now := s.now + 1 } := turn_rest rfl rfl rfl
  refine List.foldlRecOn (motive := Turn False s) slotIds _ hnow fun t ht i _ => ht.trans (turn_modSlot t i _ ?_)
  exact .of_same rfl rfl rfl rfl rfl rfl

theorem turn_due {p : Slot → Bool} {event : Fin 16 → State → State} (he : ∀ i s, Turn False s (event i s)) (i : Fin 16) (s : State) :
    Turn False s (due p event i s) := by
  unfold due
  split
  · exact he i s
  · exact .refl s

theorem turn_timeoutEnds (i : Fin 16) (tag : Byte) (s : State) : Turn False s (timeoutEnds i tag s) := (calm_timeoutEnds i tag s nofun).turn

theorem turn_takeDue (i : Fin 16) (s : State) : Turn False s (takeDue i s) := by
  unfold takeDue
  refine Turn.trans ?_ (turn_due (fun i s => turn_pacingEnds _ s) i _)
  refine Turn.trans ?_ (turn_due (fun i s => turn_stepTimerEnds _ s) i _)
  refine Turn.trans ?_ (turn_due (fun i s => (calm_offTimeEnds i s).turn) i _)
  refine Turn.trans ?_ (turn_due (fun i s => turn_timeoutEnds i _ s) i _)
  exact (turn_due turn_seatWindowEnds i s).trans (turn_due (fun i s => (calm_linkLost i s).turn) i _)

theorem turn_refreshLamps (s : State) : Turn False s (refreshLamps s) := turn_rest rfl rfl rfl

theorem turn_tick (s : State) : Turn False s (tick s) :=
  (List.foldlRecOn (motive := Turn False s) slotIds _ (turn_countDown s) fun t ht i _ => ht.trans (turn_takeDue i t)).trans (turn_refreshLamps _)

/-! ### Every command, every step -/

/-- Every command but power-on reset keeps the laws, behind which the lamp chain is refreshed. -/
theorem turn_exec {c : Instr} (hc : ∀ a r, c ≠ .powerOnReset a r) (s : State) : ∃ t, exec c s = completed t ∧ Turn False s t := by
  cases c with
  | powerOnReset a r => exact absurd rfl (hc a r)
  | poll r => exact ⟨_, rfl, turn_taken turn_poll _ _ r s⟩
  | trayStatus r => exact ⟨_, rfl, turn_taken turn_trayStatus _ _ r s⟩
  | trayRestart r => exact ⟨_, rfl, turn_taken (turn_trayRestart r.broadcast) _ _ r s⟩
  | trayRestartTaken => exact ⟨_, rfl, turn_restartTaken s⟩
  | planLoad r => exact ⟨_, rfl, turn_taken turn_planLoad _ _ r s⟩
  | profileLoad r => exact ⟨_, rfl, turn_taken turn_profileLoad _ _ r s⟩
  | budgetSet r => exact ⟨_, rfl, turn_taken turn_budgetSet _ _ r s⟩
  | zoneSetRun r => exact ⟨_, rfl, turn_taken turn_zoneSet _ _ _ s⟩
  | zoneSetStop r => exact ⟨_, rfl, turn_taken turn_zoneSet _ _ _ s⟩
  | zoneSetClear r => exact ⟨_, rfl, turn_taken turn_zoneSet _ _ _ s⟩
  | slotStart r => exact ⟨_, rfl, turn_taken turn_slotStart _ _ r s⟩
  | slotHold r => exact ⟨_, rfl, turn_taken turn_slotHold _ _ r s⟩
  | slotRelease r => exact ⟨_, rfl, turn_taken turn_slotRelease _ _ r s⟩
  | slotAbort r => exact ⟨_, rfl, turn_taken turn_slotAbort _ _ r s⟩
  | slotReport r => exact ⟨_, rfl, turn_taken turn_slotReport _ _ r s⟩
  | lotStatus r => exact ⟨_, rfl, turn_taken turn_lotStatus _ _ r s⟩
  | lotTake r => exact ⟨_, rfl, turn_taken turn_lotTake _ _ _ s⟩
  | lotTakeTakeYes r => exact ⟨_, rfl, turn_taken turn_lotTake _ _ _ s⟩
  | lotClose r => exact ⟨_, rfl, turn_taken turn_lotClose _ _ r s⟩
  | lotExclude r => exact ⟨_, rfl, turn_taken turn_lotExclude _ _ r s⟩
  | frameDiscarded chars => exact ⟨_, rfl, turn_received chars s⟩
  | seatSenseChange i raw => exact ⟨_, rfl, turn_seatSense i raw s⟩
  | seatWindowEnd i => exact ⟨_, rfl, turn_seatWindowEnds i s⟩
  | linkBeat i => exact ⟨_, rfl, turn_beat i s⟩
  | linkLoss i => exact ⟨_, rfl, (calm_linkLost i s).turn⟩
  | completion i c => exact ⟨_, rfl, turn_completionArrives i c s⟩
  | dataChunk i tag data => exact ⟨_, rfl, turn_dataArrives i tag data s⟩
  | timeoutExpiry timer => exact ⟨_, rfl, turn_timeoutEnds timer.slot timer.tag s⟩
  | offTimeEnd i => exact ⟨_, rfl, (calm_offTimeEnds i s).turn⟩
  | stepTimerExpiry e => exact ⟨_, rfl, turn_stepTimerEnds e s⟩
  | pacingTick e => exact ⟨_, rfl, turn_pacingEnds e s⟩
  | fillCompletion i n => exact ⟨_, rfl, turn_fillEnds i n s⟩
  | checkCompletion i n => exact ⟨_, rfl, turn_checkEnds i n s⟩
  | sensorReadStart => exact ⟨_, rfl, turn_startRead s⟩
  | controlPeriod z read => exact ⟨_, rfl, turn_zonePeriod z read s⟩
  | replySent => exact ⟨_, rfl, turn_replySent s⟩
  | trayTimeTick => exact ⟨_, rfl, turn_line s _⟩

/-- A step is a power-on reset, or keeps the laws. -/
theorem turn_step {s t : State} (h : step s = .next t) :
    (∃ a r u, t = refreshLamps (powerOn a r u)) ∨ Turn False s t := by
  unfold step at h
  split at h
  · rename_i c rest _
    by_cases hc : ∃ a r, c = .powerOnReset a r
    · obtain ⟨a, r, rfl⟩ := hc
      exact .inl ⟨a, r, _, (Host.Outcome.next.inj h).symm⟩
    · obtain ⟨u, hu, hturn⟩ := turn_exec (fun a r e => hc ⟨a, r, e⟩) { s with pending := rest }
      rw [hu] at h
      obtain rfl := Host.Outcome.next.inj h
      have hqueue : Turn False s { s with pending := rest } := turn_rest rfl rfl rfl
      exact .inr ((hqueue.trans hturn).trans (turn_refreshLamps u))
  · obtain rfl := Host.Outcome.next.inj h
    exact .inr (turn_tick s)

theorem lotLaw_step {s t : State} (k : LotLaw s) (h : step s = .next t) : LotLaw t := by
  rcases turn_step h with ⟨a, r, u, rfl⟩ | hturn
  · exact (turn_refreshLamps _).lots (lotLaw_powerOn a r u)
  · exact hturn.lots k

theorem lawful_step {s t : State} (k : Lawful s) (h : step s = .next t) : Lawful t := by
  rcases turn_step h with ⟨a, r, u, rfl⟩ | hturn
  · exact (turn_refreshLamps _).laws (lawful_powerOn a r u)
  · exact hturn.laws k

end Sys2Proof.Machine
end

section
/-! The statements about the laws of lots, waits and serials (O23, O25). -/

namespace Sys2Proof.Proofs

open Sys2Proof Sys2Proof.Machine

/-- Settles O23: power-on reset establishes the law, and every other command is made of operations that keep it. -/
theorem lotLawKept : Obligations.LotLawKept := fun _ _ => lotLaw_step

/-- Settles O25, with the laws of lots and of seats in one invariant: a drive is seated only in a slot that is EMPTY. -/
theorem lotWaitAndSerialLawsKept : Obligations.LotWaitAndSerialLawsKept := fun _ _ hlots hrecord hwaits hserials h =>
  have hkept : Lawful _ := lawful_step ⟨fun j => (hrecord.1 j).seat.2, hlots, hwaits, hserials⟩ h
  ⟨hkept.waits, hkept.serials⟩

end Sys2Proof.Proofs
end

section
/-! SUPPORT. The slots that wait for a key join its lot one by one: what the lot, the lists and the slots are when they have (R151,
R156). -/

namespace Sys2Proof.Machine

/-! ### What the joins leave -/

/-- Of the slots listed, those that wait for the key. -/
def State.joiners (s : State) (p : Fin 4) (b : Bin) (l : List (Fin 16)) : List (Fin 16) := l.filter fun j => (s.slot j).waitsFor p b

/-- The lot with the slots listed as its last members. -/
def Lot.taking (x : Lot) (s : State) (js : List (Fin 16)) : Lot := { x with members := x.members ++ js.map fun j => (s.slot j).member j }

/-- The slots `js` have joined the lot `x`, the last of the OPEN lots, and the manifest has no room: the lot is FULL at the tail where
they fill it, and OPEN otherwise. -/
structure Filled (x : Lot) (o : List Lot) (js : List (Fin 16)) (s t : State) : Prop where
  rest : t = { s with lots := t.lots, slots := t.slots }
  manifest : t.lots.manifest = s.lots.manifest
  next : t.lots.next = s.lots.next
  waiting : t.lots.waiting = s.lots.waiting.filter fun j => decide (j ∉ js)
  full : t.lots.full = if x.capacity ≤ x.members.length + js.length then s.lots.full ++ [x.taking s js] else s.lots.full
  opens : t.lots.opens = if x.capacity ≤ x.members.length + js.length then o else o ++ [x.taking s js]
  slots : ∀ j, t.slot j = if j ∈ js then { s.slot j with state := .done, lotNumber := some x.number } else s.slot j

theorem joined_slot (s : State) (x : Lot) (i j : Fin 16) :
    ((leaveLotList i s).setSlot i { s.slot i with state := .done, lotNumber := some x.number }).slot j =
      if j ∈ [i] then { s.slot j with state := .done, lotNumber := some x.number } else s.slot j := by
  by_cases hj : j = i
  · subst hj
    rw [slot_setSlot_same, if_pos (List.mem_singleton_self _)]
  · rw [slot_setSlot_ne _ _ hj, if_neg fun h => hj (List.mem_singleton.1 h)]
    rfl

theorem left_one (s : State) (i : Fin 16) : (leaveLotList i s).lots.waiting = s.lots.waiting.filter fun j => decide (j ∉ [i]) := by
  simp [leaveLotList]

section
variable {x : Lot} {o : List Lot} {s : State} (hopens : s.lots.opens = o ++ [x])
include hopens

theorem filled_nil (hroom : x.members.length < x.capacity) : Filled x o [] s s := by
  have hopen : ¬ x.capacity ≤ x.members.length + [].length (α := Fin 16) := Nat.not_le.2 hroom
  refine ⟨rfl, rfl, rfl, ?_, (if_neg hopen).symm, ?_, fun _ => rfl⟩
  · simp
  · rw [if_neg hopen, hopens, Lot.taking, List.map_nil, List.append_nil]

variable (hnumbers : ∀ z ∈ o, z.number ≠ x.number)
include hnumbers

theorem others_last : others x.number s.lots.opens = o := by
  rw [hopens, others, List.filter_append, ← others, others_of_not_mem hnumbers]
  simp

theorem replaced_last (y : Lot) : (s.lots.opens.map fun z => if z.number = x.number then y else z) = o ++ [y] := by
  rw [hopens, List.map_append]
  congr 1
  · exact (List.map_congr_left fun z hz => if_neg (hnumbers z hz)).trans (List.map_id _)
  · exact congrArg (· :: []) (if_pos rfl)

/-- The join that fills the lot. -/
theorem filled_last {i : Fin 16} (hm : 8 ≤ s.lots.manifest.length) (h : x.capacity ≤ x.members.length + 1) :
    Filled x o [i] s (joinLot i x (leaveLotList i s)) := by
  have hfull : x.capacity ≤ x.members.length + [i].length := h
  have hothers : ((s.lots.opens.map fun z => if z.number = x.number then x.with ((s.slot i).member i) else z).filter fun z =>
      decide (z.number ≠ x.number)) = o :=
    (others_replaced (n := x.number) (y := x.with ((s.slot i).member i)) rfl).trans (others_last hopens hnumbers)
  obtain ⟨-, -, hjoin⟩ := joinLot_cases i x (leaveLotList i s)
  rw [hjoin h hm]
  exact ⟨rfl, rfl, rfl, left_one s i, (if_pos hfull).symm, hothers.trans (if_pos hfull).symm, joined_slot s x i⟩

/-- A join that leaves room. -/
theorem filled_open {i : Fin 16} (h : x.members.length + 1 < x.capacity) : Filled x o [i] s (joinLot i x (leaveLotList i s)) := by
  have hopen : ¬ x.capacity ≤ x.members.length + [i].length := Nat.not_le.2 h
  rw [joinLot_open h]
  exact ⟨rfl, rfl, rfl, left_one s i, (if_neg hopen).symm, (replaced_last hopens hnumbers _).trans (if_neg hopen).symm,
    joined_slot s x i⟩

end

/-- A slot joins and leaves room, and others join behind it. -/
theorem Filled.cons {x : Lot} {o : List Lot} {i : Fin 16} {js : List (Fin 16)} {s u t : State} (h : Filled x o [i] s u)
    (hroom : x.members.length + 1 < x.capacity) (k : Filled (x.taking s [i]) o js u t) (hi : i ∉ js) : Filled x o (i :: js) s t := by
  have hopen : ¬ x.capacity ≤ x.members.length + [i].length := Nat.not_le.2 hroom
  have hslot (j : Fin 16) (hj : j ∈ js) : u.slot j = s.slot j := by
    rw [h.slots, if_neg]
    rintro hj'
    rw [List.mem_singleton.1 hj'] at hj
    exact hi hj
  have htaking : (x.taking s [i]).taking u js = x.taking s (i :: js) := by
    have hmap : (js.map fun j => (u.slot j).member j) = js.map fun j => (s.slot j).member j :=
      List.map_congr_left fun j hj => by rw [hslot j hj]
    simp only [Lot.taking, hmap, List.map_cons, List.map_nil, List.append_assoc, List.cons_append, List.nil_append]
  have hlen : (x.taking s [i]).members.length + js.length = x.members.length + (i :: js).length := by
    simp [Lot.taking]
    omega
  have hfull := k.full
  have hopens := k.opens
  rw [htaking, hlen, h.full, if_neg hopen] at hfull
  rw [htaking, hlen] at hopens
  refine ⟨?_, k.manifest.trans h.manifest, k.next.trans h.next, ?_, hfull, hopens, fun j => ?_⟩
  · have hu := h.rest
    have ht := k.rest
    rw [hu] at ht
    exact ht
  · rw [k.waiting, h.waiting, List.filter_filter]
    refine List.filter_congr fun j _ => ?_
    simp [List.mem_cons, Bool.and_comm]
  · rw [k.slots, h.slots]
    by_cases hji : j = i
    · subst hji
      simp [hi]
    · rw [if_neg (show j ∉ [i] from fun h => hji (List.mem_singleton.1 h))]
      simp only [List.mem_cons, hji, false_or]
      rfl

/-! ### The recursions that fill a lot -/

theorem joiners_cons_yes {s : State} {p : Fin 4} {b : Bin} {i : Fin 16} {l : List (Fin 16)} (h : (s.slot i).waitsFor p b = true) :
    s.joiners p b (i :: l) = i :: s.joiners p b l := List.filter_cons_of_pos h

theorem joiners_cons_no {s : State} {p : Fin 4} {b : Bin} {i : Fin 16} {l : List (Fin 16)} (h : ¬ (s.slot i).waitsFor p b = true) :
    s.joiners p b (i :: l) = s.joiners p b l := List.filter_cons_of_neg h

theorem joinWaiters_stops {p : Fin 4} {b : Bin} {s : State} (h : (s.lots.fullLot p b).isSome = true) (l : List (Fin 16)) :
    joinWaiters p b l s = s := by
  cases l with
  | nil => rfl
  | cons i l => exact if_pos h

theorem joinWaiters_yes {p : Fin 4} {b : Bin} {i : Fin 16} {l : List (Fin 16)} {s : State} (hf : s.lots.fullLot p b = none)
    (hi : (s.slot i).waitsFor p b = true) : joinWaiters p b (i :: l) s = joinWaiters p b l (joinKey i p b (leaveLotList i s)) := by
  rw [joinWaiters, if_neg (by rw [hf]; nofun), if_pos hi]

theorem joinWaiters_no {p : Fin 4} {b : Bin} {i : Fin 16} {l : List (Fin 16)} {s : State} (hi : ¬ (s.slot i).waitsFor p b = true) :
    joinWaiters p b (i :: l) s = joinWaiters p b l s := by
  rw [joinWaiters, if_neg hi]
  split
  · rename_i hf
    exact (joinWaiters_stops hf l).symm
  · rfl

theorem refill_stops {p : Fin 4} {b : Bin} {n : Nat} {s : State} (h : ∀ z ∈ s.lots.opens, z.number ≠ n) (l : List (Fin 16)) :
    refill p b n l s = s := by
  have hnone : (s.lots.opens.find? fun y => decide (y.number = n)) = none := by simpa using h
  cases l with
  | nil => rfl
  | cons i l => rw [refill, hnone]

/-- Of the slots of the key as many as the lot has room for. -/
def State.joining (s : State) (p : Fin 4) (b : Bin) (x : Lot) (l : List (Fin 16)) : List (Fin 16) :=
  (s.joiners p b l).take (x.capacity - x.members.length)

theorem joining_nil (s : State) (p : Fin 4) (b : Bin) (x : Lot) : s.joining p b x [] = [] := List.take_nil

section
variable {p : Fin 4} {b : Bin} {i : Fin 16} {l : List (Fin 16)} {x : Lot} {s : State}

theorem joining_last (hi : (s.slot i).waitsFor p b = true) (hroom : x.members.length < x.capacity) (h : x.capacity ≤ x.members.length + 1) :
    s.joining p b x (i :: l) = [i] := by
  have hone : x.capacity - x.members.length = 1 := by omega
  rw [State.joining, joiners_cons_yes hi, hone]
  rfl

theorem joining_more {o : List Lot} {u : State} (hi : (s.slot i).waitsFor p b = true) (h : x.members.length + 1 < x.capacity) (hil : i ∉ l)
    (hu : Filled x o [i] s u) : s.joining p b x (i :: l) = i :: u.joining p b (x.taking s [i]) l := by
  have hcapacity : x.capacity - x.members.length = x.capacity - (x.members.length + 1) + 1 := by omega
  have hlen : (x.taking s [i]).members.length = x.members.length + 1 := by simp [Lot.taking]
  have hjoiners : u.joiners p b l = s.joiners p b l := by
    refine List.filter_congr fun j hj => ?_
    rw [hu.slots, if_neg]
    intro hj'
    rw [List.mem_singleton.1 hj'] at hj
    exact hil hj
  have hjoining : u.joining p b (x.taking s [i]) l = (s.joiners p b l).take (x.capacity - (x.members.length + 1)) := by
    rw [State.joining, hjoiners, hlen]
    rfl
  rw [State.joining, joiners_cons_yes hi, hcapacity, hjoining]
  rfl

theorem not_joining (hil : i ∉ l) : i ∉ s.joining p b x l := fun h => hil (List.mem_of_mem_filter (List.mem_of_mem_take h))

end

section
variable {p : Fin 4} {b : Bin} {l : List (Fin 16)} {x : Lot} {o : List Lot} {s : State} (honce : l.Nodup)
  (hopens : s.lots.opens = o ++ [x]) (hnumbers : ∀ z ∈ o, z.number ≠ x.number) (hm : 8 ≤ s.lots.manifest.length)
  (hroom : x.members.length < x.capacity)
include honce hopens hnumbers hm hroom

/-- The slots that wait for the key join the OPEN lot of it (R151). -/
theorem joinWaiters_filled (hkey : x.key = (p, b)) (hkeys : ∀ z ∈ o, z.key ≠ (p, b)) (hfull : s.lots.fullLot p b = none) :
    Filled x o (s.joining p b x l) s (joinWaiters p b l s) := by
  induction l generalizing s x with
  | nil =>
    rw [joining_nil]
    exact filled_nil hopens hroom
  | cons i l ih =>
    obtain ⟨hil, honce⟩ := List.nodup_cons.1 honce
    have hopen : (leaveLotList i s).lots.openLot p b = some x := by
      show s.lots.opens.find? (Lot.hasKey p b) = some x
      rw [hopens, List.find?_append, List.find?_eq_none.2 fun z hz h => hkeys z hz (hasKey_iff.1 h)]
      exact List.find?_cons_of_pos (hasKey_iff.2 hkey)
    by_cases hi : (s.slot i).waitsFor p b = true
    · rw [joinWaiters_yes hfull hi, joinKey_open hopen]
      rcases Nat.lt_or_ge (x.members.length + 1) x.capacity with h | h
      · have hone := filled_open (i := i) hopens hnumbers h
        have hopen' : ¬ x.capacity ≤ x.members.length + [i].length := Nat.not_le.2 h
        rw [joining_more hi h hil hone]
        refine hone.cons h (ih honce ?_ hnumbers ?_ ?_ hkey ?_) (not_joining hil)
        · rw [hone.opens, if_neg hopen']
        · rw [hone.manifest]
          exact hm
        · simpa [Lot.taking] using h
        · rw [LotBuilder.fullLot, hone.full, if_neg hopen']
          exact hfull
      · have hone := filled_last (i := i) hopens hnumbers hm h
        rw [joining_last hi hroom h, joinWaiters_stops]
        · exact hone
        · refine fullLot_isSome.2 ⟨x.taking s [i], ?_, hkey⟩
          rw [hone.full, if_pos (show x.capacity ≤ x.members.length + [i].length from h)]
          exact List.mem_append_right _ (List.mem_singleton_self _)
    · rw [joinWaiters_no hi, State.joining, joiners_cons_no hi]
      exact ih honce hopens hnumbers hm hroom hkey hfull

/-- The slots that wait for its key join the lot that bears the number (R156). -/
theorem refill_filled : Filled x o (s.joining p b x l) s (refill p b x.number l s) := by
  induction l generalizing s x with
  | nil =>
    rw [joining_nil]
    exact filled_nil hopens hroom
  | cons i l ih =>
    obtain ⟨hil, honce⟩ := List.nodup_cons.1 honce
    have hfound : (s.lots.opens.find? fun y => decide (y.number = x.number)) = some x := by
      rw [hopens, List.find?_append, List.find?_eq_none.2 fun z hz h => hnumbers z hz (of_decide_eq_true h)]
      exact List.find?_cons_of_pos (p := fun y : Lot => decide (y.number = x.number)) (decide_eq_true rfl)
    rw [refill, hfound]
    by_cases hi : (s.slot i).waitsFor p b = true
    · simp only [if_pos hi]
      rcases Nat.lt_or_ge (x.members.length + 1) x.capacity with h | h
      · have hone := filled_open (i := i) hopens hnumbers h
        rw [joining_more hi h hil hone]
        refine hone.cons h (ih (x := x.taking s [i]) honce ?_ hnumbers ?_ ?_) (not_joining hil)
        · rw [hone.opens, if_neg (show ¬ x.capacity ≤ x.members.length + [i].length from Nat.not_le.2 h)]
        · rw [hone.manifest]
          exact hm
        · simpa [Lot.taking] using h
      · have hone := filled_last (i := i) hopens hnumbers hm h
        rw [joining_last hi hroom h, refill_stops]
        · exact hone
        · rw [hone.opens, if_pos (show x.capacity ≤ x.members.length + [i].length from h)]
          exact hnumbers
    · simp only [if_neg hi]
      rw [State.joining, joiners_cons_no hi]
      exact ih honce hopens hnumbers hm hroom

end

end Sys2Proof.Machine
end

section
/-! SUPPORT. LOT TAKE with take yes (R153, R154): its checks, the drain with no slot waiting, and the round of a drain in which the
slots that wait for the key of the lot that closes join a new one (R151). -/

namespace Sys2Proof.Machine

/-! ### The checks (R153) -/

section
variable {s : State} {fields : List Byte} {number first : Nat} (hf : fields = le 2 number ++ le 1 first ++ [1#8]) (hn : number < 65536)
  (hfirst : first < 256)
include hf hn hfirst

theorem lotTake_fields : fields.length = 4 ∧ fieldAt fields 3 1 = 1 ∧ fieldAt fields 0 2 = number ∧ fieldAt fields 2 1 = first := by
  subst hf
  refine ⟨by simp [le_length], ?_, ?_, ?_⟩
  · exact fieldAt_le (pre := le 2 number ++ le 1 first) (rest := []) (k := 1) (n := 1) (by simp [le_length]) (by omega)
  · rw [List.append_assoc]
    exact fieldAt_le (pre := []) rfl hn
  · exact fieldAt_le (by simp [le_length]) hfirst

theorem lotTake_empty (hm : s.lots.manifest = []) : lotTake fields s = (s, Reply.refuse .notFound) := by
  obtain ⟨hlen, htake, -, -⟩ := lotTake_fields hf hn hfirst
  have hyes : yesNo? 1 = some true := rfl
  simp only [lotTake, withLength, hlen, if_true, htake, hyes, hm]
  rfl

theorem lotTake_head {x : Lot} {rest : List Lot} (hm : s.lots.manifest = x :: rest) : lotTake fields s =
    if number ≠ 0 ∧ number ≠ x.number then (s, Reply.refuse .notFound)
    else if number = 0 then (s, Reply.refuse (.badArgument 0))
    else if x.members.length < first then (s, Reply.refuse (.badArgument 1))
    else (takeHead s, Reply.ok (x.takeBytes first)) := by
  obtain ⟨hlen, htake, hnumber, hmember⟩ := lotTake_fields hf hn hfirst
  have hyes : yesNo? 1 = some true := rfl
  simp only [lotTake, withLength, hlen, if_true, htake, hyes, hm, hnumber, hmember, true_and]
  rfl

end

/-! ### The drain with no slot waiting (R151) -/

theorem raised_time (l : Line) (n : Nat) (d : Detail) : (l.raised n d).time = l.time := by rw [raised_line]

/-- The lots `l` have closed, in order, each now and reported, and `more` are FULL behind them. -/
def State.drained (s : State) (l more : List Lot) : State :=
  { s with
    lots := { s.lots with manifest := s.lots.manifest ++ l.map fun y => { y with closed := some s.line.time }, full := more }
    line := l.foldl (fun l y => l.raised y.number (.lotClosed y.profile y.bin y.members.length .drain)) s.line }

theorem drained_nil (s : State) : s.drained [] s.lots.full = s := by
  rw [State.drained, List.map_nil, List.append_nil]
  rfl

theorem drained_head (x : Lot) (rest l more : List Lot) (s : State) : (drainHead x rest s).drained l more = s.drained (x :: l) more := by
  have htime : (drainHead x rest s).line.time = s.line.time := raised_time ..
  have hmanifest : (drainHead x rest s).lots.manifest = s.lots.manifest ++ [{ x with closed := some s.line.time }] := rfl
  rw [State.drained, State.drained, htime, hmanifest, List.map_cons, List.append_assoc]
  rfl

/-- The head lots of the full-lot order list, as many as the manifest has room for, close in order. -/
theorem drainRounds_unwaited (n : Nat) {s : State} (hw : s.lots.waiting = []) (hn : 8 ≤ s.lots.manifest.length + n) : drainRounds n s =
    s.drained (s.lots.full.take (8 - s.lots.manifest.length)) (s.lots.full.drop (8 - s.lots.manifest.length)) := by
  induction n generalizing s with
  | zero =>
    have hroom : 8 - s.lots.manifest.length = 0 := by omega
    rw [hroom]
    exact (drained_nil s).symm
  | succ n ih =>
    rcases Nat.lt_or_ge s.lots.manifest.length 8 with hm | hm
    · cases hfull : s.lots.full with
      | nil =>
        have hnil := drained_nil s
        rw [hfull] at hnil
        rw [drainRounds_none hfull, List.take_nil, List.drop_nil, hnil]
      | cons x rest =>
        have hroom : 8 - s.lots.manifest.length = 8 - (s.lots.manifest.length + 1) + 1 := by omega
        have hlen : (drainHead x rest s).lots.manifest.length = s.lots.manifest.length + 1 := List.length_append
        rw [drainRounds_head hm hfull, hw, joinWaiters, ih (s := drainHead x rest s) hw (by rw [hlen]; omega), hlen, drained_head, hroom]
        rfl
    · have hroom : 8 - s.lots.manifest.length = 0 := by omega
      rw [drainRounds_full hm, hroom]
      exact (drained_nil s).symm

/-! ### A round of a drain with slots that wait (R151) -/

theorem joinWaiters_none {p : Fin 4} {b : Bin} {l : List (Fin 16)} {s : State} (h : s.joiners p b l = []) : joinWaiters p b l s = s := by
  induction l with
  | nil => rfl
  | cons i l ih =>
    have hi : ¬ (s.slot i).waitsFor p b = true := fun hi => by rw [joiners_cons_yes hi] at h; cases h
    rw [joinWaiters_no hi]
    exact ih (by rwa [joiners_cons_no hi] at h)

/-- With no lot of the key the first slot that joins opens one (R148). -/
theorem joinWaiters_opens {p : Fin 4} {b : Bin} {l : List (Fin 16)} {s : State} (hf : s.lots.fullLot p b = none)
    (ho : s.lots.openLot p b = none) (h : s.joiners p b l ≠ []) : joinWaiters p b l s = joinWaiters p b l (openNewLot p b s) := by
  induction l with
  | nil => exact absurd rfl h
  | cons i l ih =>
    by_cases hi : (s.slot i).waitsFor p b = true
    · have hopen : (leaveLotList i (openNewLot p b s)).lots.openLot p b = some (s.newLot p b) := by
        show (s.lots.opens ++ [s.newLot p b]).find? (Lot.hasKey p b) = _
        rw [List.find?_append, show s.lots.opens.find? (Lot.hasKey p b) = none from ho]
        exact List.find?_cons_of_pos (hasKey_iff.2 rfl)
      rw [joinWaiters_yes hf hi, joinWaiters_yes (s := openNewLot p b s) hf hi, joinKey_open hopen, joinKey_new (s := leaveLotList i s) ho]
      rfl
    · rw [joinWaiters_no hi, joinWaiters_no (s := openNewLot p b s) hi]
      exact ih (by rwa [joiners_cons_no hi] at h)

/-- The number a new lot takes is borne by no lot held (R147). -/
theorem newLot_number {s : State} (k : LotLaw s) (p : Fin 4) (b : Bin) : (s.newLot p b).number ∉ s.lots.all.map Lot.number :=
  freeNumber_free (by rw [List.length_map]; exact lots_length k) _

/-- The manifest has no room and no lot of the key is held: the slots that wait for it join a new lot, the last of the OPEN ones. -/
theorem joinWaiters_new {p : Fin 4} {b : Bin} {l : List (Fin 16)} {s : State} (k : LotLaw s) (hf : s.lots.fullLot p b = none)
    (ho : s.lots.openLot p b = none) (hm : 8 ≤ s.lots.manifest.length) (honce : l.Nodup) (h : s.joiners p b l ≠ []) :
    Filled (s.newLot p b) s.lots.opens ((s.joiners p b l).take (s.newLot p b).capacity) (openNewLot p b s) (joinWaiters p b l s) := by
  have hnumbers (z : Lot) (hz : z ∈ s.lots.opens) : z.number ≠ (s.newLot p b).number := fun e =>
    newLot_number k p b (List.mem_map.2 ⟨z, List.mem_append_right _ hz, e⟩)
  rw [joinWaiters_opens hf ho h]
  exact joinWaiters_filled (s := openNewLot p b s) honce rfl hnumbers hm (newLot_capacity k p b) rfl (fun z hz => openLot_eq_none.1 ho z hz) hf

/-! ### The head lot is taken from a full manifest (R154) -/

theorem untouched_takeHead (s : State) : Untouched s (takeHead s) := by
  have hhead : Moves false s (s.withLots { s.lots with manifest := s.lots.manifest.drop 1 }) := by
    refine moves_lots s _ (fun j hj => .inl hj) fun hm => ?_
    rw [List.length_drop]
    omega
  exact moves_untouched (hhead.trans (moves_drain _ fun h => absurd h Bool.false_ne_true))

/-- The head lot has left the manifest, and the head FULL lot has closed. -/
def State.handedOver (s : State) (y : Lot) (more : List Lot) : State :=
  drainHead y more (s.withLots { s.lots with manifest := s.lots.manifest.drop 1 })

section
variable {s : State} {x y : Lot} {rest more : List Lot} (k : LotLaw s) (hm : s.lots.manifest = x :: rest) (hlen : rest.length = 7)
  (hf : s.lots.full = y :: more)
include hm

theorem handedOver_manifest : (s.handedOver y more).lots.manifest = rest ++ [{ y with closed := some s.line.time }] := by
  show s.lots.manifest.drop 1 ++ _ = _
  rw [hm]
  rfl

include hlen

theorem handedOver_full_manifest : 8 ≤ (s.handedOver y more).lots.manifest.length := by
  rw [handedOver_manifest hm, List.length_append, hlen]
  exact Nat.le_refl 8

theorem taken_room : (s.withLots { s.lots with manifest := s.lots.manifest.drop 1 }).lots.manifest.length < 8 := by
  show (s.lots.manifest.drop 1).length < 8
  rw [hm]
  exact Nat.lt_succ_of_le (Nat.le_of_eq hlen)

include hf k

theorem lotLaw_handedOver : LotLaw (s.handedOver y more) := lotLaw_drainHead (lotLaw_headTaken k) (taken_room hm hlen) hf

omit hm hlen in
/-- At most one lot of a key is OPEN or FULL, so that none of the key stands behind the one that closes. -/
theorem handedOver_no_lot : (s.handedOver y more).lots.fullLot y.profile y.bin = none ∧
    (s.handedOver y more).lots.openLot y.profile y.bin = none := by
  have hkeys : ((s.lots.opens ++ s.lots.full).map Lot.key).Nodup := k.keys
  rw [hf] at hkeys
  have hother := (List.nodup_cons.1 ((List.perm_middle.map Lot.key).nodup_iff.1 hkeys)).1
  refine ⟨fullLot_eq_none.2 fun z hz hkey => hother ?_, openLot_eq_none.2 fun z hz hkey => hother ?_⟩
  · exact List.mem_map.2 ⟨z, List.mem_append_right _ hz, hkey⟩
  · exact List.mem_map.2 ⟨z, List.mem_append_left _ hz, hkey⟩

/-- The drain takes one round: none joins, or those of the key join the new lot. -/
theorem takeHead_round (honce : s.lots.waiting.Nodup) :
    (s.joiners y.profile y.bin s.lots.waiting = [] ∧ takeHead s = s.handedOver y more) ∨
      s.joiners y.profile y.bin s.lots.waiting ≠ [] ∧ Filled ((s.handedOver y more).newLot y.profile y.bin) s.lots.opens
        ((s.joiners y.profile y.bin s.lots.waiting).take ((s.handedOver y more).newLot y.profile y.bin).capacity)
        (openNewLot y.profile y.bin (s.handedOver y more)) (takeHead s) := by
  have hround : takeHead s = drainRounds 7 (joinWaiters y.profile y.bin s.lots.waiting (s.handedOver y more)) :=
    drainRounds_head (n := 7) (taken_room hm hlen) hf
  have hfull := handedOver_full_manifest (y := y) (more := more) hm hlen
  by_cases h : s.joiners y.profile y.bin s.lots.waiting = []
  · refine .inl ⟨h, ?_⟩
    rw [hround, joinWaiters_none (s := s.handedOver y more) h, drainRounds_full hfull]
  · obtain ⟨hnone, hopen⟩ := handedOver_no_lot k hf
    have hfilled := joinWaiters_new (s := s.handedOver y more) (lotLaw_handedOver k hm hlen hf) hnone hopen hfull honce h
    refine .inr ⟨h, ?_⟩
    rw [hround, drainRounds_full (by rw [hfilled.manifest]; exact hfull)]
    exact hfilled

end

end Sys2Proof.Machine
end

section
/-! The statement about LOT TAKE with take yes (O46). -/

namespace Sys2Proof.Proofs

open Sys2Proof Sys2Proof.Machine

/-- What the round of the drain leaves, as O46 says it: a new lot `z` of the key of `y` takes the slots `joiners` up to its capacity. -/
def RoundLeaves (joiners : List (Fin 16)) (capacity : Nat) (y : Lot) (rest more : List Lot) (s u : State) : Prop :=
  ∃ z : Lot, z.profile = y.profile ∧ z.bin = y.bin ∧ z.capacity = capacity ∧ z.opened = s.line.time ∧
    z.closed = none ∧ z.members = (joiners.take capacity).map (fun j => (s.slot j).member j) ∧
    z.number ∉ (rest ++ s.lots.full ++ s.lots.opens).map Lot.number ∧
    u = { s with lots := u.lots, line := u.line, slots := u.slots } ∧
    u.line = s.line.raised y.number (.lotClosed y.profile y.bin y.members.length .drain) ∧
    u.lots.manifest = rest ++ [{ y with closed := some s.line.time }] ∧
    u.lots.waiting = s.lots.waiting.filter (fun j => decide (j ∉ joiners.take capacity)) ∧
    u.lots.full = (if capacity ≤ joiners.length then more ++ [z] else more) ∧
    u.lots.opens = (if joiners = [] ∨ capacity ≤ joiners.length then s.lots.opens else s.lots.opens ++ [z]) ∧
    u.lots.next = (if joiners = [] then s.lots.next else if 65535 ≤ z.number then 1 else z.number + 1) ∧
    ∀ j : Fin 16, u.slot j =
      if j ∈ joiners.take capacity then { s.slot j with state := .done, lotNumber := some z.number } else s.slot j

section
variable {s : State} {x y : Lot} {rest more : List Lot} (k : LotLaw s) (hm : s.lots.manifest = x :: rest) (hlen : rest.length = 7)
  (hf : s.lots.full = y :: more)
include k hm hlen hf

theorem handedOver_number : ((s.handedOver y more).newLot y.profile y.bin).number ∉ (rest ++ s.lots.full ++ s.lots.opens).map Lot.number := by
  have h := newLot_number (lotLaw_handedOver k hm hlen hf) y.profile y.bin
  have hperm : ((s.handedOver y more).lots.all.map Lot.number).Perm ((rest ++ s.lots.full ++ s.lots.opens).map Lot.number) := by
    rw [LotBuilder.all, handedOver_manifest hm, hf]
    show ((rest ++ [{ y with closed := some s.line.time }] ++ more ++ s.lots.opens).map Lot.number).Perm _
    simp
  rwa [hperm.mem_iff] at h

theorem roundLeaves_none : RoundLeaves [] (((s.profileAt y.profile).map Profile.lotCapacity).getD 1) y rest more s (s.handedOver y more) := by
  have hcapacity : ¬ ((s.handedOver y more).newLot y.profile y.bin).capacity ≤ ([] : List (Fin 16)).length :=
    Nat.not_le.2 (newLot_capacity (lotLaw_handedOver k hm hlen hf) y.profile y.bin)
  refine ⟨(s.handedOver y more).newLot y.profile y.bin, rfl, rfl, rfl, raised_time .., rfl, ?_, handedOver_number k hm hlen hf, rfl, rfl,
    handedOver_manifest hm, ?_, (if_neg hcapacity).symm, (if_pos (.inl rfl)).symm, (if_pos rfl).symm, fun j => ?_⟩
  · rw [List.take_nil]
    rfl
  · rw [List.take_nil]
    simp [State.handedOver, drainHead]
  · rw [List.take_nil]
    rfl

theorem roundLeaves_joined {joiners : List (Fin 16)} {u : State} (hjoiners : joiners ≠ [])
    (h : Filled ((s.handedOver y more).newLot y.profile y.bin) s.lots.opens
      (joiners.take ((s.handedOver y more).newLot y.profile y.bin).capacity) (openNewLot y.profile y.bin (s.handedOver y more)) u) :
    RoundLeaves joiners (((s.profileAt y.profile).map Profile.lotCapacity).getD 1) y rest more s u := by
  have hfills (c : Nat) : c ≤ 0 + (joiners.take c).length ↔ c ≤ joiners.length := by
    rw [List.length_take]
    omega
  refine ⟨((s.handedOver y more).newLot y.profile y.bin).taking s (joiners.take ((s.handedOver y more).newLot y.profile y.bin).capacity),
    rfl, rfl, rfl, raised_time .., rfl, List.nil_append _, handedOver_number k hm hlen hf, ?_, ?_,
    h.manifest.trans (handedOver_manifest (more := more) hm), h.waiting, h.full.trans (if_congr (hfills _) rfl rfl),
    h.opens.trans (if_congr ((hfills _).trans (or_iff_right hjoiners).symm) rfl rfl), ?_, h.slots⟩
  · rw [h.rest]
    rfl
  · rw [h.rest]
    rfl
  · rw [if_neg hjoiners]
    exact h.next

end

/-- Settles O46: the checks in their order; with none waiting the drain closes what the manifest has room for, and from a full manifest it
takes one round. -/
theorem lotTakeRemovesAndDrains : Obligations.LotTakeRemovesAndDrains := by
  intro number first r s hd hn hfirst hr
  have hfields : (withTake 1#8 r).fields = le 2 number ++ le 1 first ++ [1#8] := by rw [withTake, hr]
  have htakes : takesNothing (withTake 1#8 r).fields = false := by
    rw [hfields]
    rfl
  refine ⟨fun hm => answers_unchanged rfl hd (lotTake_empty (s := s.hunting) hfields hn hfirst hm), fun x rest hm => ?_⟩
  have hhead := lotTake_head (s := s.hunting) hfields hn hfirst hm
  refine ⟨fun h0 hx => answers_unchanged rfl hd ?_, fun h0 => answers_unchanged rfl hd ?_, fun h0 hx hmember => answers_unchanged rfl hd ?_,
    fun h0 hx hmember => ⟨takeHead s.hunting, answers_taken (r := withTake 1#8 r) rfl hd (fun _ => htakes) ?_, ?_, fun hw => ?_,
      fun y more k kw hlen hf => ?_⟩⟩
  · rw [hhead, if_pos ⟨h0, hx⟩]
  · rw [hhead, if_neg (fun h => h.1 h0), if_pos h0]
  · rw [hhead, if_neg (fun h => h.2 hx), if_neg h0, if_pos hmember]
  · rw [hhead, if_neg (fun h => h.2 hx), if_neg h0, if_neg (Nat.not_lt.2 hmember)]
  · exact untouched_takeHead s.hunting
  · have hdrained : takeHead s.hunting = (s.hunting.withLots { s.lots with manifest := rest }).drained
        (s.lots.full.take (8 - rest.length)) (s.lots.full.drop (8 - rest.length)) := by
      have hrest : rest = s.lots.manifest.drop 1 := by rw [hm]; rfl
      rw [hrest]
      exact drainRounds_unwaited 8 (s := s.hunting.withLots { s.lots with manifest := s.lots.manifest.drop 1 }) hw (Nat.le_add_left ..)
    rw [hdrained]
    exact ⟨rfl, rfl, rfl⟩
  · have hlots : LotLaw s.hunting := lotLaw_same (s := s) rfl rfl k
    have hround : RoundLeaves (s.joiners y.profile y.bin s.lots.waiting) (((s.profileAt y.profile).map Profile.lotCapacity).getD 1) y rest more
        s.hunting (takeHead s.hunting) := by
      rcases takeHead_round hlots hm hlen hf kw.once with ⟨hnone, hu⟩ | ⟨hsome, hu⟩
      · have hnone' : s.joiners y.profile y.bin s.lots.waiting = [] := hnone
        rw [hnone', hu]
        exact roundLeaves_none hlots hm hlen hf
      · exact roundLeaves_joined hlots hm hlen hf hsome hu
    exact hround

end Sys2Proof.Proofs
end

section
/-! SUPPORT. LOT EXCLUDE (R156, R157): which lot it finds, what the lot and the slots are when the member has left, and the refill. -/

namespace Sys2Proof.Machine

/-! ### The slot that holds the drive (R157) -/

/-- The slot still holds a drive of this serial, graded into the lot of this number. -/
def State.Holds (s : State) (serial : List Byte) (number : Nat) (i : Fin 16) : Prop :=
  (s.slot i).state = .done ∧ (s.slot i).identity.map Identity.serial = some serial ∧ (s.slot i).lotNumber = some number

theorem excludedSlot_eq_none {s : State} {serial : List Byte} {number : Nat} (h : ∀ i, ¬ s.Holds serial number i) :
    s.excludedSlot serial number = none :=
  Option.eq_none_iff_forall_ne_some.2 fun i hi => h i (excludedSlot_some hi)

theorem excludedSlot_eq_some {s : State} {serial : List Byte} {number : Nat} {i : Fin 16} (h : s.Holds serial number i)
    (hone : ∀ j, s.Holds serial number j → j = i) : s.excludedSlot serial number = some i := by
  cases hfound : s.excludedSlot serial number with
  | some j => rw [hone j (excludedSlot_some hfound)]
  | none =>
    obtain ⟨hdone, hserial, hnumber⟩ := h
    have hnot := List.find?_eq_none.1 hfound i (mem_slotIds i)
    simp [hdone, hserial, hnumber] at hnot

/-! ### The lot that is found (R156) -/

theorem holds_iff {serial : List Byte} {x : Lot} : x.holds serial = true ↔ ∃ m ∈ x.members, m.serial = serial := by simp [Lot.holds]

section
variable {serial : List Byte} {s : State} (hlen : serial.length = 20)
include hlen

theorem lotExclude_open {x : Lot} (h : s.lots.opens.find? (Lot.holds serial) = some x) : lotExclude serial s = exclude serial x false s := by
  rw [lotExclude, withLength, if_pos hlen, h]

theorem lotExclude_full {x : Lot} (ho : s.lots.opens.find? (Lot.holds serial) = none) (hf : s.lots.full.find? (Lot.holds serial) = some x) :
    lotExclude serial s = exclude serial x true s := by
  rw [lotExclude, withLength, if_pos hlen, ho, hf]

theorem lotExclude_refused (h : ∀ x ∈ s.lots.opens ++ s.lots.full, ¬ x.holds serial = true) : lotExclude serial s =
    (s, Reply.refuse (if s.lots.manifest.any (Lot.holds serial) then .badState else .notFound)) := by
  have ho : s.lots.opens.find? (Lot.holds serial) = none := List.find?_eq_none.2 fun x hx => h x (List.mem_append_left _ hx)
  have hf : s.lots.full.find? (Lot.holds serial) = none := List.find?_eq_none.2 fun x hx => h x (List.mem_append_right _ hx)
  rw [lotExclude, withLength, if_pos hlen, ho, hf]
  rfl

end

/-! ### The reply (R156) -/

theorem exclude_reply (serial : List Byte) (x : Lot) (full : Bool) (s v : State)
    (hv : v = if full then refill x.profile x.bin x.number s.lots.waiting (memberOut serial x full s) else memberOut serial x full s) :
    exclude serial x full s = (discardEmpty x.number v, Reply.ok (le 2 x.number ++
      [(((discardEmpty x.number v).lots.stateOf x.number).map LotState.code).getD discardedCode] ++
      byte (s.lots.waiting.length - v.lots.waiting.length) ++
      codeOr (fun i : Fin 16 => BitVec.ofNat 8 i.val) (s.excludedSlot serial x.number))) := by
  subst hv
  cases hslot : s.excludedSlot serial x.number <;> cases full <;> simp only [exclude, memberOut, hslot] <;> rfl

theorem codeOr_eq {α : Type} (f : α → Byte) (o : Option α) : codeOr f o = [(o.map f).getD absentCode] := by cases o <;> rfl

theorem stateOf_opened {l : LotBuilder} {n : Nat} {x : Lot} (hx : x ∈ l.opens) (hn : x.number = n) : l.stateOf n = some .opened :=
  if_pos (List.any_eq_true.2 ⟨x, hx, decide_eq_true hn⟩)

theorem not_numbered {l : List Lot} {n : Nat} (h : ∀ z ∈ l, z.number ≠ n) : ¬ (l.any fun z => decide (z.number = n)) = true := by
  simpa using h

theorem stateOf_full {l : LotBuilder} {n : Nat} {x : Lot} (ho : ∀ z ∈ l.opens, z.number ≠ n) (hx : x ∈ l.full) (hn : x.number = n) :
    l.stateOf n = some .full := by
  rw [LotBuilder.stateOf, if_neg (not_numbered ho)]
  exact if_pos (List.any_eq_true.2 ⟨x, hx, decide_eq_true hn⟩)

theorem stateOf_none {l : LotBuilder} {n : Nat} (h : ∀ z ∈ l.all, z.number ≠ n) : l.stateOf n = none := by
  have hm := not_numbered fun z hz => h z (List.mem_append_left _ (List.mem_append_left _ hz))
  have hf := not_numbered fun z hz => h z (List.mem_append_left _ (List.mem_append_right _ hz))
  have ho := not_numbered fun z hz => h z (List.mem_append_right _ hz)
  rw [LotBuilder.stateOf, if_neg ho, if_neg hf, if_neg hm]

/-! ### The member leaves, and none joins (R156) -/

theorem refill_none {p : Fin 4} {b : Bin} {n : Nat} {l : List (Fin 16)} {s : State} (h : s.joiners p b l = []) : refill p b n l s = s := by
  induction l with
  | nil => rfl
  | cons i l ih =>
    have hi : ¬ (s.slot i).waitsFor p b = true := fun hi => by rw [joiners_cons_yes hi] at h; cases h
    rw [joiners_cons_no hi] at h
    rw [refill]
    split
    · rfl
    · rw [if_neg hi]
      exact ih h

/-- The lot `y` stands OPEN for `x`, one of its members gone, and no slot has joined: `v` is the state before an empty lot is discarded. -/
structure Left (serial : List Byte) (x y : Lot) (s v : State) : Prop where
  rest : v = { s with lots := v.lots, slots := (excludeSlot (s.excludedSlot serial x.number) s).slots }
  opens : ∀ z, z ∈ v.lots.opens ↔ z = y ∨ z ∈ s.lots.opens ∧ z.number ≠ x.number
  full : v.lots.full = others x.number s.lots.full
  manifest : v.lots.manifest = s.lots.manifest
  next : v.lots.next = s.lots.next
  waiting : v.lots.waiting = s.lots.waiting

section
variable {s : State} {x : Lot} (hnumbers : (s.lots.all.map Lot.number).Nodup)
include hnumbers

/-- The lots of the manifest and the other lists bear numbers of their own. -/
theorem numbers_apart : (s.lots.opens.map Lot.number).Nodup ∧ (∀ z ∈ s.lots.manifest, ∀ w ∈ s.lots.full ++ s.lots.opens, z.number ≠ w.number) ∧
    ∀ z ∈ s.lots.full, ∀ w ∈ s.lots.opens, z.number ≠ w.number := by
  rw [LotBuilder.all, List.append_assoc, List.map_append, List.nodup_append] at hnumbers
  obtain ⟨-, hrest, hmanifest⟩ := hnumbers
  rw [List.map_append, List.nodup_append] at hrest
  obtain ⟨-, hopens, hfull⟩ := hrest
  exact ⟨hopens, fun z hz w hw => hmanifest _ (List.mem_map_of_mem hz) _ (List.mem_map_of_mem hw),
    fun z hz w hw => hfull _ (List.mem_map_of_mem hz) _ (List.mem_map_of_mem hw)⟩

theorem left_open {serial : List Byte} (hx : x ∈ s.lots.opens) :
    Left serial x { x with members := dropMember serial x.members } s (memberOut serial x false s) := by
  obtain ⟨hopens, -, hfull⟩ := numbers_apart hnumbers
  refine ⟨?_, fun z => ?_, (others_of_not_mem fun z hz => hfull z hz x hx).symm, rfl, rfl, rfl⟩
  · cases hslot : s.excludedSlot serial x.number <;> simp only [memberOut, hslot] <;> rfl
  · refine ((perm_replaced hopens hx { x with members := dropMember serial x.members }).mem_iff).trans ?_
    rw [List.mem_cons, mem_others]

theorem left_full {serial : List Byte} (hx : x ∈ s.lots.full) :
    Left serial x { x with members := dropMember serial x.members } s (memberOut serial x true s) := by
  obtain ⟨-, -, hfull⟩ := numbers_apart hnumbers
  refine ⟨?_, fun z => ?_, rfl, rfl, rfl, rfl⟩
  · cases hslot : s.excludedSlot serial x.number <;> simp only [memberOut, hslot] <;> rfl
  · show z ∈ s.lots.opens ++ [_] ↔ _
    rw [List.mem_append, List.mem_singleton, or_comm]
    exact or_congr_right ⟨fun hz => ⟨hz, (hfull x hx z hz).symm⟩, And.left⟩

theorem Left.stateOf {serial : List Byte} {y : Lot} {v : State} (h : Left serial x y s v) (hy : y.number = x.number)
    (hx : x ∈ s.lots.opens ∨ x ∈ s.lots.full) :
    (((discardEmpty x.number v).lots.stateOf x.number).map LotState.code).getD discardedCode = if y.members.isEmpty then 3#8 else 0#8 := by
  obtain ⟨hopens, hmanifest, hfull⟩ := numbers_apart hnumbers
  have hmem (z : Lot) : z ∈ (discardEmpty x.number v).lots.opens ↔ z ∈ v.lots.opens ∧ (z.number ≠ x.number ∨ z.members.isEmpty = false) := by
    show z ∈ List.filter _ _ ↔ _
    simp [List.mem_filter]
  by_cases hempty : y.members.isEmpty = true
  · rw [if_pos hempty, stateOf_none]
    · rfl
    · intro z hz
      rcases List.mem_append.1 hz with hz | hz
      · rcases List.mem_append.1 hz with hz | hz
        · have hz' : z ∈ s.lots.manifest := h.manifest ▸ hz
          exact hmanifest z hz' x (List.mem_append.2 hx.symm)
        · have hz' : z ∈ others x.number s.lots.full := h.full ▸ hz
          exact (mem_others.1 hz').2
      · obtain ⟨hz, hkept⟩ := (hmem z).1 hz
        rcases (h.opens z).1 hz with rfl | ⟨-, hne⟩
        · rcases hkept with hne | hne
          · exact hne
          · rw [hempty] at hne
            cases hne
        · exact hne
  · rw [if_neg hempty, stateOf_opened ((hmem y).2 ⟨(h.opens y).2 (.inl rfl), .inr (Bool.eq_false_iff.2 hempty)⟩) hy]
    rfl

end

/-- A slot that waits for a key when the member has left did so before. -/
theorem memberOut_waitsFor {serial : List Byte} {s : State} {x : Lot} {full : Bool} {p : Fin 4} {b : Bin} {j : Fin 16}
    (h : ((memberOut serial x full s).slot j).waitsFor p b = true) : (s.slot j).waitsFor p b = true := by
  rw [memberOut_slot, excludeSlot_slot] at h
  split at h
  · simp [Slot.waitsFor] at h
  · exact h

theorem refill_memberOut_none {serial : List Byte} {s : State} {x : Lot} {full : Bool} {p : Fin 4} {b : Bin} {n : Nat} {l : List (Fin 16)}
    (h : s.joiners p b l = []) : refill p b n l (memberOut serial x full s) = memberOut serial x full s :=
  refill_none (List.filter_eq_nil_iff.2 fun j hj hwaits => List.filter_eq_nil_iff.1 h j hj (memberOut_waitsFor hwaits))

/-! ### A serial stands in one lot and in one slot (R158) -/

section
variable {serial : List Byte} {s : State} (ks : SerialLaw s)
include ks

theorem holder_unique {x z : Lot} (hx : x ∈ s.lots.all) (hz : z ∈ s.lots.all) (hxs : x.holds serial = true) (hzs : z.holds serial = true) :
    z = x := by
  by_contra hne
  obtain ⟨-, hdisjoint⟩ := List.nodup_flatMap.1 ks.members
  have hsymm : Std.Symm (Function.onFun List.Disjoint fun w : Lot => w.members.map Member.serial) := ⟨fun _ _ h => h.symm⟩
  obtain ⟨m, hm, hms⟩ := holds_iff.1 hxs
  obtain ⟨n, hn, hns⟩ := holds_iff.1 hzs
  exact hdisjoint.forall hz hx hne (List.mem_map.2 ⟨n, hn, hns⟩) (List.mem_map.2 ⟨m, hm, hms⟩)

/-- The serial of a member of a FULL lot leads to that lot. -/
theorem found_full (k : LotLaw s) {x : Lot} (hx : x ∈ s.lots.full) (hheld : x.holds serial = true) :
    s.lots.opens.find? (Lot.holds serial) = none ∧ s.lots.full.find? (Lot.holds serial) = some x := by
  have hfull (z : Lot) (hz : z ∈ s.lots.full) : z ∈ s.lots.all := List.mem_append_left _ (List.mem_append_right _ hz)
  refine ⟨List.find?_eq_none.2 fun z hz hzs => ?_, ?_⟩
  · have hzx := holder_unique ks (hfull x hx) (List.mem_append_right _ hz) hheld hzs
    exact (numbers_apart k.numbers).2.2 x hx z hz (by rw [hzx])
  · cases hfound : s.lots.full.find? (Lot.holds serial) with
    | none => exact absurd hheld (List.find?_eq_none.1 hfound x hx)
    | some z => rw [holder_unique ks (hfull x hx) (hfull z (List.mem_of_find?_eq_some hfound)) hheld (List.find?_some hfound)]

theorem before_differs {x : Lot} {before after : List Member} {m : Member} (hx : x ∈ s.lots.all) (hsplit : x.members = before ++ m :: after)
    (hm : m.serial = serial) : ∀ k ∈ before, k.serial ≠ serial := by
  intro n hn e
  have hnodup := (List.nodup_flatMap.1 ks.members).1 x hx
  rw [hsplit, List.map_append, List.nodup_append] at hnodup
  exact hnodup.2.2 _ (List.mem_map_of_mem hn) _ (List.mem_cons_self ..) (e.trans hm.symm)

theorem holder_slot_unique {number : Nat} {i j : Fin 16} (hi : s.Holds serial number i) (hj : s.Holds serial number j) : j = i := by
  by_contra hne
  exact ks.slots j i hne (by rw [Slot.serial, hj.2.1]; rfl) (hj.2.1.trans hi.2.1.symm)

end

/-! ### The refill (R156) -/

theorem discardEmpty_none {n : Nat} {v : State} (h : ∀ z ∈ v.lots.opens, z.number = n → z.members ≠ []) : discardEmpty n v = v := by
  have hkept : v.lots.opens.filter (fun x => decide (x.number ≠ n) || !x.members.isEmpty) = v.lots.opens := by
    refine List.filter_eq_self.2 fun z hz => ?_
    by_cases hn : z.number = n
    · simp [hn, h z hz hn]
    · simp [hn]
  rw [discardEmpty, hkept]
  rfl

/-- The listed slots that stay listed and the ones that join make up the list. -/
theorem length_joined {l js : List (Fin 16)} (hl : l.Nodup) (hjs : js.Sublist l) :
    l.length - (l.filter fun j => decide (j ∉ js)).length = js.length := by
  have hperm : (l.filter fun j => decide (j ∈ js)).Perm js := by
    refine (List.perm_ext_iff_of_nodup (hl.filter _) (hl.sublist hjs)).2 fun j => ?_
    simpa using fun hj => hjs.subset hj
  have hsplit := List.length_eq_length_filter_add (l := l) fun j => decide (j ∈ js)
  have hrest : (l.filter fun j => !decide (j ∈ js)) = l.filter fun j => decide (j ∉ js) := List.filter_congr fun j _ => by simp
  rw [hrest, hperm.length_eq] at hsplit
  omega

section
variable {x : Lot} {o : List Lot} {js : List (Fin 16)} {s v : State} (h : Filled x o js s v) (ho : ∀ z ∈ o, z.number ≠ x.number)
include h ho

theorem Filled.keeps (hmembers : (x.taking s js).members ≠ []) : discardEmpty x.number v = v := by
  refine discardEmpty_none fun z hz hn => ?_
  rw [h.opens] at hz
  split at hz
  · exact absurd hn (ho z hz)
  · rcases List.mem_append.1 hz with hz | hz
    · exact absurd hn (ho z hz)
    · rwa [List.mem_singleton.1 hz]

theorem Filled.stateOf : ((v.lots.stateOf x.number).map LotState.code).getD discardedCode =
    if x.capacity ≤ x.members.length + js.length then 1#8 else 0#8 := by
  have hlast (l : List Lot) : x.taking s js ∈ l ++ [x.taking s js] := List.mem_append_right _ (List.mem_singleton_self _)
  have hfull := h.full
  have hopens := h.opens
  split at hfull
  · rename_i hc
    rw [if_pos hc] at hopens ⊢
    rw [stateOf_full (n := x.number) (x := x.taking s js) (by rw [hopens]; exact ho) (by rw [hfull]; exact hlast _) rfl]
    rfl
  · rename_i hc
    rw [if_neg hc] at hopens ⊢
    rw [stateOf_opened (n := x.number) (x := x.taking s js) (by rw [hopens]; exact hlast _) rfl]
    rfl

end

section
variable {serial : List Byte} {s : State} {x : Lot} (kw : LotWaitLaw s)
include kw

/-- A slot that waits holds no drive graded into a lot. -/
theorem memberOut_waiting (full : Bool) {j : Fin 16} (hj : j ∈ s.lots.waiting) : (memberOut serial x full s).slot j = s.slot j := by
  rw [memberOut_slot, excludeSlot_slot, if_neg]
  intro h
  have hdone := (excludedSlot_some h).1
  rw [(kw.states j).1 hj] at hdone
  cases hdone

theorem memberOut_joiners (full : Bool) (p : Fin 4) (b : Bin) :
    (memberOut serial x full s).joiners p b s.lots.waiting = s.joiners p b s.lots.waiting :=
  List.filter_congr fun j hj => by rw [memberOut_waiting kw full hj]

/-- A FULL lot that has lost a member takes the slots that wait for its key. -/
theorem refill_memberOut (k : LotLaw s) (hx : x ∈ s.lots.full) {kept : List Member} (hkept : dropMember serial x.members = kept)
    (hlen : kept.length + 1 = x.members.length) : Filled { x with members := kept } s.lots.opens
      ((s.joiners x.profile x.bin s.lots.waiting).take (x.capacity - kept.length)) (memberOut serial x true s)
      (refill x.profile x.bin x.number s.lots.waiting (memberOut serial x true s)) := by
  subst hkept
  obtain ⟨-, -, hfull⟩ := numbers_apart k.numbers
  have hheld := k.held x (List.mem_append_left _ (List.mem_append_right _ hx))
  have hm : 8 ≤ s.lots.manifest.length := (kw.full (List.ne_nil_of_mem hx)).ge
  have hfilled := refill_filled (p := x.profile) (b := x.bin) (x := { x with members := dropMember serial x.members }) (o := s.lots.opens)
    (s := memberOut serial x true s) kw.once rfl (fun z hz => (hfull x hx z hz).symm) hm (show (dropMember serial x.members).length < x.capacity by omega)
  rw [State.joining, memberOut_joiners kw] at hfilled
  exact hfilled

end

end Sys2Proof.Machine
end

section
/-! The statement about LOT EXCLUDE (O48). -/

namespace Sys2Proof.Proofs

open Sys2Proof Sys2Proof.Machine

theorem if_append {c : Prop} [Decidable c] (l : List Lot) (y : Lot) : (if c then l ++ [y] else l) = l ++ if c then [y] else [] := by
  split
  · rfl
  · exact (List.append_nil l).symm

theorem append_if {c : Prop} [Decidable c] (l : List Lot) (y : Lot) : (if c then l else l ++ [y]) = l ++ if c then [] else [y] := by
  split
  · exact (List.append_nil l).symm
  · rfl

theorem lotExclude_answers {r : Req} {s u : State} {rep : Reply} (hd : s.line.deaf = false)
    (h : lotExclude r.fields s.hunting = (u, rep)) : Answers (.lotExclude r) r 0x33#8 rep s u :=
  answers_taken rfl hd (fun _ => rfl) h

/-- The refusals: no OPEN or FULL lot holds the serial. -/
theorem lotExclude_not_held {r : Req} {s : State} (hd : s.line.deaf = false) (hlen : r.fields.length = 20)
    (h : ∀ x ∈ s.lots.opens ++ s.lots.full, ¬ ∃ m ∈ x.members, m.serial = r.fields) :
    Answers (.lotExclude r) r 0x33#8
      (Reply.refuse (if s.lots.manifest.any (Lot.holds r.fields) then .badState else .notFound)) s s.hunting :=
  lotExclude_answers hd (lotExclude_refused (s := s.hunting) hlen fun x hx hheld => h x hx (holds_iff.1 hheld))

/-- The member has left and none has joined: what the state and the reply are, as O48 says it. -/
theorem memberLeaves {r : Req} {s v : State} {x y : Lot} {full : Bool} (hd : s.line.deaf = false)
    (hnumbers : (s.lots.all.map Lot.number).Nodup) (hx : x ∈ s.lots.opens ∨ x ∈ s.lots.full) (hy : y.number = x.number)
    (hexclude : lotExclude r.fields s.hunting = exclude r.fields x full s.hunting)
    (hv : v = if full then refill x.profile x.bin x.number s.lots.waiting (memberOut r.fields x full s.hunting)
      else memberOut r.fields x full s.hunting) (h : Left r.fields x y s.hunting v) :
    ∃ u code slot, Answers (.lotExclude r) r 0x33#8 (Reply.ok (le 2 x.number ++ [code, 0#8, slot])) s u ∧
      code = (if y.members.isEmpty then 3#8 else 0#8) ∧
      u = { s.hunting with lots := u.lots, slots := u.slots } ∧
      u.lots.full = s.lots.full.filter (fun z => decide (z.number ≠ x.number)) ∧
      u.lots.manifest = s.lots.manifest ∧ u.lots.next = s.lots.next ∧ u.lots.waiting = s.lots.waiting ∧
      (∀ z ∈ u.lots.opens, z = y ∨ (z ∈ s.lots.opens ∧ z.number ≠ x.number)) ∧
      (∀ z ∈ s.lots.opens, z.number ≠ x.number → z.members ≠ [] → z ∈ u.lots.opens) ∧
      (y ∈ u.lots.opens ↔ y.members.isEmpty = false) ∧
      ((∀ i, ¬ s.Holds r.fields x.number i) → slot = 0xFF#8 ∧ u.slots = s.slots) ∧
      ∀ i, s.Holds r.fields x.number i → (∀ j, s.Holds r.fields x.number j → j = i) → slot = BitVec.ofNat 8 i.val ∧
        (∀ j : Fin 16, j ≠ i → u.slot j = s.slot j) ∧
        u.slot i = { s.slot i with outcome := some .reject, reason := .demerit, lotNumber := none } := by
  have hmem (z : Lot) : z ∈ (discardEmpty x.number v).lots.opens ↔ z ∈ v.lots.opens ∧ (z.number ≠ x.number ∨ z.members.isEmpty = false) := by
    show z ∈ List.filter _ _ ↔ _
    simp [List.mem_filter]
  have hslots : (discardEmpty x.number v).slots = (excludeSlot (s.excludedSlot r.fields x.number) s.hunting).slots := by
    have hrest := congrArg State.slots h.rest
    exact hrest
  have hslot (j : Fin 16) : (discardEmpty x.number v).slot j = if s.excludedSlot r.fields x.number = some j then
      { s.slot j with outcome := some .reject, reason := .demerit, lotNumber := none } else s.slot j := by
    rw [State.slot, hslots]
    exact excludeSlot_slot (s.excludedSlot r.fields x.number) s.hunting j
  have hcode := Left.stateOf (s := s.hunting) hnumbers h hy hx
  refine ⟨discardEmpty x.number v, _, ((s.excludedSlot r.fields x.number).map fun i => BitVec.ofNat 8 i.val).getD absentCode,
    lotExclude_answers hd (hexclude.trans ((exclude_reply _ _ _ _ v hv).trans ?_)), hcode, ?_, h.full, h.manifest, h.next, h.waiting, fun z hz => ?_,
    fun z hz hne hmembers => ?_, ?_, fun hnone => ?_, fun i hi hone => ?_⟩
  · rw [h.waiting, Nat.sub_self, codeOr_eq, List.append_assoc, List.append_assoc]
    rfl
  · rw [h.rest]
    rfl
  · exact (h.opens z).1 ((hmem z).1 hz).1
  · exact (hmem z).2 ⟨(h.opens z).2 (.inr ⟨hz, hne⟩), .inl hne⟩
  · rw [hmem, h.opens]
    simp [hy]
  · have hfound := excludedSlot_eq_none hnone
    rw [hfound] at hslots ⊢
    exact ⟨rfl, hslots⟩
  · have hfound := excludedSlot_eq_some hi hone
    refine ⟨by rw [hfound]; rfl, fun j hj => ?_, ?_⟩
    · rw [hslot, hfound, if_neg fun e => hj (Option.some.inj e).symm]
    · rw [hslot, if_pos hfound]

/-- The member has left a FULL lot and slots that wait for its key have joined: what the state and the reply are, as O48 says it. -/
theorem memberReplaced {r : Req} {s : State} {x : Lot} {kept : List Member} (hd : s.line.deaf = false) (k : LotLaw s) (kw : LotWaitLaw s)
    (ks : SerialLaw s) (hx : x ∈ s.lots.full) (hkept : dropMember r.fields x.members = kept) (hlen : kept.length + 1 = x.members.length)
    (hexclude : lotExclude r.fields s.hunting = exclude r.fields x true s.hunting) {joiners joined : List (Fin 16)}
    (hjoiners : joiners = s.joiners x.profile x.bin s.lots.waiting) (hjoined : joined = joiners.take (x.capacity - kept.length))
    (hsome : joiners ≠ []) {y : Lot} (hy : y = { x with members := kept ++ joined.map fun j => (s.slot j).member j }) :
    ∃ u slot, Answers (.lotExclude r) r 0x33#8
        (Reply.ok (le 2 x.number ++ [if x.capacity ≤ y.members.length then 1#8 else 0#8] ++
          [BitVec.ofNat 8 joined.length, slot])) s u ∧
      u = { s.hunting with lots := u.lots, slots := u.slots } ∧ u.lots.manifest = s.lots.manifest ∧
      u.lots.next = s.lots.next ∧ u.lots.waiting = s.lots.waiting.filter (fun j => decide (j ∉ joined)) ∧
      u.lots.full = (s.lots.full.filter fun z => decide (z.number ≠ x.number)) ++
        (if x.capacity ≤ y.members.length then [y] else []) ∧
      u.lots.opens = s.lots.opens ++ (if x.capacity ≤ y.members.length then [] else [y]) ∧
      ((∀ i, ¬ s.Holds r.fields x.number i) → slot = 0xFF#8) ∧ (∀ i, s.Holds r.fields x.number i → slot = BitVec.ofNat 8 i.val) ∧
      ∀ j : Fin 16,
        (j ∈ joined → u.slot j = { s.slot j with state := .done, lotNumber := some x.number }) ∧
        (s.Holds r.fields x.number j → u.slot j = { s.slot j with outcome := some .reject, reason := .demerit, lotNumber := none }) ∧
        (j ∉ joined → ¬ s.Holds r.fields x.number j → u.slot j = s.slot j) := by
  have hlots : LotLaw s.hunting := lotLaw_same (s := s) rfl rfl k
  have hwaits : LotWaitLaw s.hunting := ⟨kw.once, kw.states, kw.behind, kw.full⟩
  have hfilled := refill_memberOut (serial := r.fields) hwaits hlots hx hkept hlen
  rw [show s.hunting.joiners x.profile x.bin s.hunting.lots.waiting = joiners from hjoiners.symm, ← hjoined] at hfilled
  have hwaiting (j : Fin 16) (hj : j ∈ joined) : j ∈ s.lots.waiting := by
    rw [hjoined, hjoiners] at hj
    exact List.mem_of_mem_filter (List.mem_of_mem_take hj)
  have htaking : ({ x with members := kept } : Lot).taking (memberOut r.fields x true s.hunting) joined = y := by
    have hmap : (joined.map fun j => ((memberOut r.fields x true s.hunting).slot j).member j) = joined.map fun j => (s.slot j).member j :=
      List.map_congr_left fun j hj => by rw [memberOut_waiting hwaits true (hwaiting j hj)]; rfl
    rw [Lot.taking, hmap, hy]
  have hcount : kept.length + joined.length = y.members.length := by rw [hy]; simp
  have hfull := hfilled.full
  have hopens := hfilled.opens
  rw [htaking, show ({ x with members := kept } : Lot).members.length + joined.length = y.members.length from hcount] at hfull hopens
  have happart (z : Lot) (hz : z ∈ s.lots.opens) : z.number ≠ x.number := ((numbers_apart k.numbers).2.2 x hx z hz).symm
  have hmembers : y.members ≠ [] := by
    have hheld := k.held x (List.mem_append_left _ (List.mem_append_right _ hx))
    have hroom : 0 < x.capacity - kept.length := by omega
    have hlength : 0 < joined.length := by
      rw [hjoined, List.length_take]
      exact Nat.lt_min.2 ⟨hroom, List.length_pos_of_ne_nil hsome⟩
    refine List.ne_nil_of_length_pos ?_
    omega
  have hslot (j : Fin 16) : (memberOut r.fields x true s.hunting).slot j = if s.excludedSlot r.fields x.number = some j then
      { s.slot j with outcome := some .reject, reason := .demerit, lotNumber := none } else s.slot j :=
    (memberOut_slot r.fields x true s.hunting j).trans (excludeSlot_slot (s.excludedSlot r.fields x.number) s.hunting j)
  generalize hv : refill x.profile x.bin x.number s.hunting.lots.waiting (memberOut r.fields x true s.hunting) = v at hfilled hfull hopens
  have hkeeps : discardEmpty x.number v = v := hfilled.keeps happart (by rw [htaking]; exact hmembers)
  have hstate : ((v.lots.stateOf x.number).map LotState.code).getD discardedCode = if x.capacity ≤ y.members.length then 1#8 else 0#8 := by
    rw [← hcount]
    exact hfilled.stateOf happart
  have hjoinedCount : s.lots.waiting.length - v.lots.waiting.length = joined.length := by
    have hsub : joined.Sublist s.lots.waiting := by
      rw [hjoined, hjoiners]
      exact (List.take_sublist _ _).trans List.filter_sublist
    rw [hfilled.waiting]
    exact length_joined kw.once hsub
  have hleft := left_full (s := s.hunting) k.numbers (serial := r.fields) hx
  refine ⟨v, ((s.excludedSlot r.fields x.number).map fun i => BitVec.ofNat 8 i.val).getD absentCode,
    lotExclude_answers hd (hexclude.trans ((exclude_reply r.fields x true s.hunting v hv.symm).trans ?_)), ?_, hfilled.manifest, hfilled.next,
    hfilled.waiting, ?_, ?_, fun hnone => ?_, fun i hi => ?_, fun j => ⟨fun hj => ?_, fun hj => ?_, fun hj hnot => ?_⟩⟩
  · have hbyte : byte (s.hunting.lots.waiting.length - v.lots.waiting.length) = [BitVec.ofNat 8 joined.length] :=
      congrArg byte hjoinedCount
    rw [hkeeps, hstate, hbyte, codeOr_eq, List.append_assoc _ [BitVec.ofNat 8 joined.length]]
    rfl
  · rw [hfilled.rest, hleft.rest]
  · exact hfull.trans (if_append _ _)
  · exact hopens.trans (append_if _ _)
  · rw [excludedSlot_eq_none hnone]
    rfl
  · rw [excludedSlot_eq_some hi fun j hj => holder_slot_unique ks hi hj]
    rfl
  · rw [hfilled.slots, if_pos hj, memberOut_waiting hwaits true (hwaiting j hj)]
    rfl
  · have hnot : j ∉ joined := fun hmem => by
      have hwait := (kw.states j).1 (hwaiting j hmem)
      rw [hj.1] at hwait
      cases hwait
    rw [hfilled.slots, if_neg hnot, hslot, if_pos (excludedSlot_eq_some hj fun i hi => holder_slot_unique ks hj hi)]
  · rw [hfilled.slots, if_neg hj, hslot, if_neg fun h => hnot (excludedSlot_some h)]

/-- Settles O48: by the lot that holds the serial. -/
theorem lotExcludeTakesTheMember : Obligations.LotExcludeTakesTheMember := by
  intro r s hd hlen hnumbers
  refine ⟨fun h => ?_, fun h hmanifest => ?_, fun x before after m hsplit hm hbefore hwhere => ?_,
    fun x before after m k kw ks hx hsplit hm hsome => ?_⟩
  · have hnone : s.lots.manifest.any (Lot.holds r.fields) = false :=
      List.any_eq_false.2 fun x hx hheld => h x (List.mem_append_left _ (List.mem_append_left _ hx)) (holds_iff.1 hheld)
    have hanswer := lotExclude_not_held hd hlen fun x hx => h x (by
      rcases List.mem_append.1 hx with hx | hx
      · exact List.mem_append_right _ hx
      · exact List.mem_append_left _ (List.mem_append_right _ hx))
    rwa [hnone] at hanswer
  · obtain ⟨x, hx, hheld⟩ := hmanifest
    have hanswer := lotExclude_not_held hd hlen h
    rwa [List.any_eq_true.2 ⟨x, hx, holds_iff.2 hheld⟩] at hanswer
  · have hdropped : dropMember r.fields x.members = before ++ after := by rw [hsplit, dropMember_split hm hbefore]
    have hempty : (before.isEmpty && after.isEmpty) = (before ++ after).isEmpty := by cases before <;> rfl
    rw [hempty]
    rcases hwhere with ⟨hx, hfound⟩ | ⟨hopen, hfound, hnowait⟩
    · have hleft := left_open (s := s.hunting) hnumbers (serial := r.fields) hx
      rw [hdropped] at hleft
      exact memberLeaves (y := { x with members := before ++ after }) (full := false) hd hnumbers (.inl hx) rfl (lotExclude_open (s := s.hunting) hlen hfound) rfl hleft
    · have hx := List.mem_of_find?_eq_some hfound
      have hleft := left_full (s := s.hunting) hnumbers (serial := r.fields) hx
      rw [hdropped] at hleft
      have hnone : s.lots.opens.find? (Lot.holds r.fields) = none :=
        List.find?_eq_none.2 fun o ho hheld => hopen o ho (holds_iff.1 hheld)
      have hjoiners : s.joiners x.profile x.bin s.lots.waiting = [] := List.filter_eq_nil_iff.2 fun j hj hwaits =>
        hnowait j hj (by simpa only [Slot.waitsFor, Bool.and_eq_true, decide_eq_true_eq] using hwaits)
      have hrefill := refill_memberOut_none (s := s.hunting) (serial := r.fields) (x := x) (full := true) (n := x.number) hjoiners
      exact memberLeaves (y := { x with members := before ++ after }) (full := true) hd hnumbers (.inr hx) rfl (lotExclude_full (s := s.hunting) hlen hnone hfound) hrefill.symm hleft
  · have hdropped : dropMember r.fields x.members = before ++ after := by
      rw [hsplit, dropMember_split hm (before_differs ks (List.mem_append_left _ (List.mem_append_right _ hx)) hsplit hm)]
    have hxall : x ∈ s.lots.all := List.mem_append_left _ (List.mem_append_right _ hx)
    have hheld : x.holds r.fields = true := holds_iff.2 ⟨m, by rw [hsplit]; exact List.mem_append_right _ (List.mem_cons_self ..), hm⟩
    obtain ⟨hopens, hfull⟩ := found_full ks k hx hheld
    exact memberReplaced hd k kw ks hx hdropped (by rw [hsplit]; simp; omega) (lotExclude_full (s := s.hunting) hlen hopens hfull) rfl rfl hsome rfl

end Sys2Proof.Proofs
end
